-- ==== Sys2Proof/Word.lean ====
section
/-! DEFINITION. The words of the Dajelin DX16: bytes, times, and the limits its counts carry
(00_scope, Conventions). -/

namespace Sys2Proof

/-- One byte of a frame. -/
abbrev Byte := BitVec 8

/-- A run of bytes, first byte first. -/
abbrev Bytes := List (BitVec 8)

/-- A Time Base value in microseconds (R26). -/
abbrev Time := BitVec 32

/-- The value at which a 32-bit counter stays (00_scope, Counters). -/
def counterMax : Nat := 4294967295

/-- The last record sequence and the last page sequence, 2^48 − 1 (R25, R69). -/
def sequenceMax : Nat := 281474976710655

end Sys2Proof
end

