-- ==== Sys2Proof/Syntax.lean ====
section
/-! DEFINITION. The commands of the Dajelin DX16: one constructor per row of spec/opcode_table.json, with
the operands that come from outside the part (INVENTORY.md, Instructions). -/

namespace Sys2Proof

/-- Link Port A or Link Port B. As a direction, the arrival port: A is A_TO_B, B is B_TO_A (R3). -/
inductive Port where
  | a
  | b
  deriving DecidableEq, Repr, Inhabited

/-- The two retrieval session slots (R125). -/
inductive SessionId where
  | one
  | two
  deriving DecidableEq, Repr, Inhabited

/-- The producers of local frames (R147). -/
inductive Producer where
  | mgmt
  | session (i : SessionId)
  | notice
  deriving DecidableEq, Repr, Inhabited

/-- The blocks that raise events at the Notice Unit (10.2). -/
inductive EventSource where
  | sequencer
  | packer
  | log
  | controller
  deriving DecidableEq, Repr, Inhabited

/-- How a PROGRAM PAGE ends: COMMITTED, or FAILED at the blank check, at the data, header or verify step, or at
the commit step (R47, R48). -/
inductive ProgramEnd where
  | committed
  | failedBlank
  | failedWrite
  | failedCommit
  deriving DecidableEq, Repr, Inhabited

/-- How an ERASE BLOCK ends: ERASED, FAILED in the first stage at the page whose commit mark could not be
cancelled, or FAILED in the second stage, where bit p of `blank` says whether page p then reads BLANK
(R49, R50). -/
inductive EraseEnd where
  | erased
  | cancelFailed (page : Nat)
  | eraseFailed (blank : BitVec 16)
  deriving DecidableEq, Repr, Inhabited

/-- The rows of the opcode table, in its order. -/
inductive Instr where
  | powerOn (straps : Byte)
  | lineReset (straps : Byte)
  | leaveReset (aPresent bPresent : Bool)
  | linkDown (p : Port)
  | linkUp (p : Port)
  | sessionLinkLost (p : Port)
  | noticeLinkDown (p : Port)
  | noticeLinkUp (p : Port)
  | frameEnd (p : Port) (bytes : Bytes)
  | relayOffer (p : Port)
  | frameReceived (p : Port)
  | classificationResult
  | triggerMark
  | postingClosure
  | flushTimerExpiry
  | postTimeExpiry
  | holdoffExpiry
  | idleTimerExpiry (i : SessionId)
  | retryTimerExpiry
  | readPageEnd
  | programPageEnd (r : ProgramEnd)
  | eraseBlockEnd (r : EraseEnd)
  | frameWithdrawal (p : Port) (who : Producer)
  | transmissionEnd (p : Port)
  | localFrameEnding (p : Port) (who : Producer)
  | requestArrival (p : Port)
  | discover
  | readStatus
  | readCounters
  | clearCounters
  | setManagers
  | restart
  | writeRule
  | readRule
  | enableRule
  | disableRule
  | clearRule
  | clearHits
  | setDefaultAction
  | flush
  | setTime
  | setCapture
  | startCapture
  | stopCapture
  | forceTrigger
  | listRecordings
  | readRecording
  | releaseRecording
  | freezeRecording
  | saveProfile
  | clearProfile
  | openRetrieval
  | grantCredit
  | closeRetrieval
  | setNotify
  | ackNotice
  | noticeEvent (src : EventSource)
  | frameStart (p : Port)
  deriving DecidableEq, Repr, Inhabited

end Sys2Proof
end

