-- ==== Sys2Proof/Decode.lean ====
section
/-! DEFINITION. Reading a command from a word. The DX16 takes happenings, not instruction words: no row of
spec/opcode_table.json gives bits, so no word spells a command (log 41). -/

namespace Sys2Proof

/-- The command that a word of the table's bits spells: none, since no row has bits (log 41). -/
def decodeTableWord (_nbits _w : Nat) : Option Instr := none

end Sys2Proof
end

