-- ==== Sys2Proof/Config.lean ====
section
/-! DEFINITION. What the spec fixes for every part, and the values it leaves open. An open value is an opaque
constant: nothing in Lean can evaluate it, so no statement can rest on a choice. -/

namespace Sys2Proof

/-- How far a program had got when a reset abandoned it (R59): nothing written yet, written without a commit mark,
or its commit mark written and read back. -/
inductive ProgramCut where
  | unwritten
  | partly
  | committed
  deriving DecidableEq, Repr, Inhabited

/-- How far an erase had got when a reset abandoned it (R59): in the first stage, with the marks of the pages
below `reached` cancelled, or in the second, where bit p of `blank` says whether page p then reads BLANK. -/
inductive EraseCut where
  | firstStage (reached : Nat)
  | secondStage (blank : BitVec 16)
  deriving DecidableEq, Repr, Inhabited

/-- Free value (log 8): the progress of the program that the n-th abandoned operation was. -/
opaque Config.programCut : Nat → ProgramCut

/-- Free value (log 8): the progress of the erase that the n-th abandoned operation was. -/
opaque Config.eraseCut : Nat → EraseCut

/-- Free value (log 25): what six bytes carry for the sequence 2^48, which they cannot hold (R25, R125). -/
opaque Config.pastLastSequence : BitVec 48

/-- Entries of the Rule Table (1.1). -/
def Config.ruleCount : Nat := 48

/-- Places of a relay queue and of a local queue (R146). -/
def Config.relayPlaces : Nat := 8
def Config.localPlaces : Nat := 4

/-- Data bytes of a staging buffer, and of a page (2.3, 3.1). -/
def Config.bufferBytes : Nat := 1024

/-- Most record bytes in a data frame (R132). -/
def Config.dataFrameBytes : Nat := 235

/-- Most bytes that a receiver keeps of a frame (R142). -/
def Config.frameKept : Nat := 247

/-- First and last log block (R43), and the number of blocks that a candidate search walks (R67). -/
def Config.firstLogBlock : Nat := 4
def Config.lastLogBlock : Nat := 1023
def Config.ringSearch : Nat := 1019

/-- Suspensions allowed to one erase (R56). -/
def Config.suspendMax : Nat := 8

/-- Entries of the directory (R83), blocks of a block list (R97), blocks of the Retired List (R77). -/
def Config.directoryMax : Nat := 12
def Config.listMax : Nat := 80
def Config.retiredMax : Nat := 32

/-- Compactions that may begin for one job (R117). -/
def Config.compactionMax : Nat := 3

/-- Places of the Request Queue (R156), entries of the Reply Cache (R158), of the Notice Queue (R175). -/
def Config.requestPlaces : Nat := 4
def Config.cachePlaces : Nat := 8
def Config.noticePlaces : Nat := 8

/-- Credit limit of a session and of an opening (R132, R127). -/
def Config.creditMax : Nat := 64
def Config.openCreditMax : Nat := 16

/-- Product identifier and revision that DISCOVER reports (12.4). -/
def Config.productId : Nat := 0xD016
def Config.revision : Nat := 1

end Sys2Proof
end

