-- ==== Sys2Proof/Machine/State.lean ====
section
/-! DEFINITION. The state of the Dajelin DX16, block by block, as plain data, and the part after reset.
Every field names the rule that gives it; INVENTORY.md lists them with their reset values. -/

namespace Sys2Proof.Machine

/-! ### Frames and classification (01, 08) -/

/-- Receive outcomes (R143). -/
inductive RxOutcome where
  | good
  | check
  | length
  | runt
  | overlong
  deriving DecidableEq, Repr, Inhabited

/-- What a FRAME RECEIVED happening carries (R3): at most 247 bytes kept, and how many were received; with it, whether
the part was MOUNTING at the delivery (R29; log 46). -/
structure Delivered where
  outcome : RxOutcome
  bytes : Bytes
  count : Nat
  mounting : Bool
  deriving DecidableEq, Repr, Inhabited

/-- State of a rule entry (1.1). -/
inductive RuleState where
  | unused
  | enabled
  | disabled
  deriving DecidableEq, Repr, Inhabited

/-- Direction of a rule entry (1.1). -/
inductive RuleDir where
  | aToB
  | bToA
  | either
  deriving DecidableEq, Repr, Inhabited

/-- Frame kind of a rule entry (1.1). -/
inductive FrameKind where
  | good
  | error
  | any
  deriving DecidableEq, Repr, Inhabited

/-- Action of a rule entry; the default action is PASS or CAPTURE (1.1, R6). -/
inductive Action where
  | pass
  | capture
  | trigger
  | triggerOnly
  deriving DecidableEq, Repr, Inhabited

/-- Test sense (1.1). -/
inductive Sense where
  | equal
  | notEqual
  deriving DecidableEq, Repr, Inhabited

/-- The payload test of a rule entry (1.1, R9). -/
structure PayloadTest where
  offset : Nat
  length : Nat
  value : BitVec 32
  mask : BitVec 32
  sense : Sense
  deriving DecidableEq, Repr, Inhabited

/-- A rule entry (1.1). An absent payload test stands for its five fields at 0 and EQUAL (R1). -/
structure Rule where
  state : RuleState
  dir : RuleDir
  kind : FrameKind
  destValue : Byte
  destMask : Byte
  srcValue : Byte
  srcMask : Byte
  classLow : Nat
  classHigh : Nat
  lenMin : Nat
  lenMax : Nat
  test : Option PayloadTest
  action : Action
  snap : Nat
  hits : Nat
  deriving DecidableEq, Repr, Inhabited

/-- The cleared form of an entry (R1). -/
def Rule.cleared : Rule :=
  { state := .unused, dir := .either, kind := .any, destValue := 0, destMask := 0, srcValue := 0, srcMask := 0,
    classLow := 0, classHigh := 255, lenMin := 0, lenMax := 240, test := none, action := .pass, snap := 0, hits := 0 }

/-- The Frame Classifier (01). -/
structure Classifier where
  rules : List Rule
  dflt : Action
  defaultHits : Nat
  deriving DecidableEq, Repr, Inhabited

/-- The captured bytes of a result and their TRUNCATED flag (R12, R13). -/
structure Captured where
  bytes : Bytes
  truncated : Bool
  deriving DecidableEq, Repr, Inhabited

/-- A classification result (R11). Action TRIGGER gives a capture and a mark, TRIGGER_ONLY a mark alone. The last field
says that the frame was forwarded while the part was MOUNTING (R29; log 46). -/
structure Result where
  dir : Port
  outcome : RxOutcome
  rule : Nat
  time : Time
  origLen : Nat
  capture : Option Captured
  mark : Bool
  mounting : Bool
  deriving DecidableEq, Repr, Inhabited

/-- A trigger mark passed by the Packer (R35). -/
structure TriggerMark where
  rule : Nat
  seq : Nat
  time : Time
  lost : Bool
  deriving DecidableEq, Repr, Inhabited

/-! ### Capture records and the Capture Packer (02) -/

/-- Reason of a RUN_STOP (2.1). -/
inductive StopReason where
  | request
  | fault
  | sequenceEnd
  | singleShot
  | restart
  deriving DecidableEq, Repr, Inhabited

/-- Body of a capture record, by kind (2.1). -/
inductive RecordBody where
  | frame (dir : Port) (error : RxOutcome) (truncated marked : Bool) (rule : Nat) (origLen : Nat) (bytes : Bytes)
  | gap (lost : Nat) (first last : Time)
  | runStart (run : Nat)
  | runStop (run : Nat) (reason : StopReason)
  | timeSet (old new : Time)
  deriving DecidableEq, Repr, Inhabited

/-- A capture record (2.1). -/
structure Record where
  seq : Nat
  time : Time
  body : RecordBody
  deriving DecidableEq, Repr, Inhabited

/-- States of a staging buffer (2.3). -/
inductive BufState where
  | empty
  | filling
  | full
  | writing
  deriving DecidableEq, Repr, Inhabited

/-- A staging buffer (2.3). Its bytes used, record count and first and last sequences follow from its records. -/
structure Buffer where
  state : BufState
  recs : List Record
  run : Nat
  deriving DecidableEq, Repr, Inhabited

/-- SB0 or SB1 (2.3). -/
inductive BufId where
  | sb0
  | sb1
  deriving DecidableEq, Repr, Inhabited

/-- The Capture Packer (02). -/
structure Packer where
  sb0 : Buffer
  sb1 : Buffer
  fullOrder : List BufId
  slot : List Record
  run : Nat
  gateOpen : Bool
  flushTimer : Option Nat
  nextSeq : Nat
  tallyCount : Nat
  tallyFirst : Time
  tallyLast : Time
  lossFlag : Bool
  lastPlaced : Nat
  timeBase : Time
  recordsPacked : Nat
  capturesLost : Nat
  deriving DecidableEq, Repr, Inhabited

/-! ### Directory entries, journal and profile pages (05, 06) -/

/-- State of a recording (5.5). -/
inductive RecState where
  | capturing
  | closing
  | kept
  | frozen
  deriving DecidableEq, Repr, Inhabited

/-- Trigger source (5.5). -/
inductive TrigSource where
  | rule (i : Nat)
  | forced
  deriving DecidableEq, Repr, Inhabited

/-- Close reason (5.5). -/
inductive CloseReason where
  | count
  | time
  | length
  | stopped
  | fault
  | interrupted
  deriving DecidableEq, Repr, Inhabited

/-- Journaled state of an entry (R109). -/
inductive Journaled where
  | none
  | capturing
  | kept
  | frozen
  deriving DecidableEq, Repr, Inhabited

/-- A directory entry (5.5) with its open-session count and its journaled state (R109). -/
structure Entry where
  num : Nat
  state : RecState
  source : TrigSource
  trigTime : Time
  trigSeq : Nat
  trigLost : Bool
  first : Nat
  last : Option Nat
  reason : Option CloseReason
  blocks : List Nat
  sessions : Nat
  journaled : Journaled
  deriving DecidableEq, Repr, Inhabited

/-- State carried by a SNAPSHOT page (R108). -/
inductive SnapState where
  | capturing
  | kept
  | frozen
  deriving DecidableEq, Repr, Inhabited

/-- What a SNAPSHOT page records of an entry (R108). -/
structure Snapshot where
  num : Nat
  state : SnapState
  source : TrigSource
  trigTime : Time
  trigSeq : Nat
  trigLost : Bool
  first : Nat
  last : Option Nat
  reason : Option CloseReason
  blocks : List Nat
  deriving DecidableEq, Repr, Inhabited

/-- The page record of a journal page (R108). -/
inductive PageRecord where
  | snapshot (s : Snapshot)
  | released (num : Nat)
  | retiredList (blocks : List Nat)
  deriving DecidableEq, Repr, Inhabited

/-- Role of a journal page, with set size and position on a COPY page (R108). -/
inductive JournalRole where
  | append
  | copy (size pos : Nat)
  deriving DecidableEq, Repr, Inhabited

/-- A journal page (R108). -/
structure JournalPage where
  role : JournalRole
  nextNumber : Nat
  record : PageRecord
  deriving DecidableEq, Repr, Inhabited

/-- The seven capture settings (R84). -/
structure Settings where
  window : Nat
  postCount : Nat
  postTime : Nat
  holdoff : Nat
  rearm : Bool
  flush : Nat
  autostart : Bool
  deriving DecidableEq, Repr, Inhabited

/-- The four notify settings (R173); bit k − 1 of the enable set stands for notice kind k (12.4). -/
structure NotifySettings where
  station : Byte
  port : Port
  enable : BitVec 10
  retry : Nat
  deriving DecidableEq, Repr, Inhabited

/-- What a profile saves (6.6): page 0 holds all but the rules, page 1 the rules. -/
structure Profile where
  settings : Settings
  dflt : Action
  managers : List Byte
  notify : NotifySettings
  rules : List Rule
  deriving DecidableEq, Repr, Inhabited

/-! ### The Page Array and the Array Controller (03) -/

/-- Kind of a page (3.2). -/
inductive PageKind where
  | log
  | journal
  | profile
  deriving DecidableEq, Repr, Inhabited

/-- The header fields that a requester supplies (3.2, R44). -/
structure PageHeader where
  kind : PageKind
  pageSeq : Nat
  run : Nat
  capturing : Nat
  firstSeq : Nat
  count : Nat
  used : Nat
  deriving DecidableEq, Repr, Inhabited

/-- What a page's data area holds (3.2, 6.1, 6.6). -/
inductive PageData where
  | log (recs : List Record)
  | journal (j : JournalPage)
  | profile0 (generation : Nat) (settings : Settings) (dflt : Action) (managers : List Byte) (notify : NotifySettings)
  | profile1 (generation : Nat) (rules : List Rule)
  deriving DecidableEq, Repr, Inhabited

/-- The two checks of a page (3.2, R44). -/
structure PageChecks where
  data : BitVec 16
  header : BitVec 16
  deriving DecidableEq, Repr, Inhabited

/-- Condition of a page's commit mark (R44). -/
inductive CommitMark where
  | absent
  | present
  | cancelled
  deriving DecidableEq, Repr, Inhabited

/-- A page that is not erased: its mark, header and data, and its two stored checks, each held as what it differs by,
exclusive-or, from the check computed over what stands on the page; 0 is a right check (R44, R45; log 7). -/
structure Page where
  mark : CommitMark
  headerFlaw : BitVec 16
  dataFlaw : BitVec 16
  header : PageHeader
  data : PageData
  deriving DecidableEq, Repr, Inhabited

/-- An array operation (3.3 to 3.5). -/
inductive ArrayReq where
  | read (block page : Nat)
  | program (block page : Nat) (header : PageHeader) (data : PageData)
  | erase (block : Nat)
  deriving DecidableEq, Repr, Inhabited

/-- The six requesters (R43). -/
inductive Requester where
  | journal
  | logWriter
  | eraseAhead
  | session (i : SessionId)
  | sequencer
  deriving DecidableEq, Repr, Inhabited

/-- Result of a READ PAGE, the header with its two checks (R43 to R46). -/
inductive ReadResult where
  | blank
  | uncommitted
  | corrupt (h : PageHeader) (checks : PageChecks)
  | committed (h : PageHeader) (checks : PageChecks) (d : PageData)
  | erasing
  | refused
  deriving DecidableEq, Repr, Inhabited

/-- The operation in progress (R52); for an erase, its suspend count and how many pages its first stage has
reached (R49, R57). -/
structure Running where
  who : Requester
  req : ArrayReq
  count : Nat
  reached : Nat
  deriving DecidableEq, Repr, Inhabited

/-- A suspended erase (3.6). -/
structure Suspended where
  who : Requester
  block : Nat
  count : Nat
  reached : Nat
  deriving DecidableEq, Repr, Inhabited

/-- The Array Controller (03): running operation, suspended erase, the six waiting slots, and the session served
by the most recent session read (R54). -/
structure ArrayCtl where
  running : Option Running
  suspended : Option Suspended
  journal : Option ArrayReq
  logWriter : Option ArrayReq
  eraseAhead : Option ArrayReq
  session1 : Option ArrayReq
  session2 : Option ArrayReq
  sequencer : Option ArrayReq
  lastSession : SessionId
  deriving DecidableEq, Repr, Inhabited

end Sys2Proof.Machine

namespace Sys2Proof

/-- Free value (log 7): the bytes of a header's fields and its data check; their arrangement is not given (3.2). -/
opaque Config.headerBytes : Machine.PageHeader → BitVec 16 → Bytes

/-- Free value (log 7): the data bytes of a JOURNAL or PROFILE page; their arrangement is not given (6.1, 6.6). -/
opaque Config.internalBytes : Machine.PageData → Bytes

end Sys2Proof

namespace Sys2Proof.Machine

/-! ### Events and notices (10) -/

/-- Reset causes (R181). -/
inductive ResetCause where
  | powerOn
  | line
  | restart
  deriving DecidableEq, Repr, Inhabited

/-- Why a block was retired (R77). -/
inductive RetireCause where
  | program
  | erase
  deriving DecidableEq, Repr, Inhabited

/-- Why the log is in FAULT (R80). -/
inductive FaultCause where
  | retiredLimit
  | directoryErase
  deriving DecidableEq, Repr, Inhabited

/-- The events of the ten notice kinds, with their fields (10.2). -/
inductive Event where
  | started (cause : ResetCause)
  | triggered (num : Nat) (source : TrigSource) (lost : Bool) (seq : Nat) (time : Time) (first : Nat)
  | triggerRefused (source : TrigSource) (seq : Nat) (entries : Nat)
  | recordingKept (num : Nat) (reason : Option CloseReason) (first last : Nat) (blocks : Nat)
  | captureLoss (time : Time) (nextSeq : Nat)
  | logFull (held retired : Nat)
  | logResumed (seq : Nat)
  | blockRetired (block : Nat) (cause : RetireCause) (size : Nat)
  | storeFault (cause : FaultCause)
  | captureStopped (run : Nat) (reason : Option StopReason)
  deriving DecidableEq, Repr, Inhabited

/-- A numbered notice (R175). -/
structure Notice where
  num : Nat
  event : Event
  deriving DecidableEq, Repr, Inhabited

/-- State of the head notice (10.3). -/
inductive HeadState where
  | queued
  | inFlight
  | parked
  deriving DecidableEq, Repr, Inhabited

/-- The Notice Unit (10). `frame` is the number of the head's frame now with the Relay; a QUEUED head without one
has a frame still to offer (log 18). `carried` is the overflow count in the head's most recent frame. `linkA` and
`linkB` are the link states as the unit has taken them (R141, R179; log 19). -/
structure NoticeUnit where
  settings : NotifySettings
  queue : List Notice
  nextNumber : Nat
  overflow : Nat
  head : HeadState
  attempts : Nat
  carried : Nat
  frame : Option Nat
  retry : Option Nat
  linkA : Bool
  linkB : Bool
  dropped : Nat
  discarded : Nat
  deriving DecidableEq, Repr, Inhabited

/-! ### Link ports and the Relay (08) -/

/-- A local frame: its producer, the number that names it, and its bytes without check bytes (8.5). -/
structure LocalFrame where
  who : Producer
  serial : Nat
  bytes : Bytes
  deriving DecidableEq, Repr, Inhabited

/-- A place of a waiting list (R147), marked when its producer has withdrawn it and the withdrawal is not yet taken
(R148). -/
structure Waiter where
  frame : LocalFrame
  withdrawn : Bool
  deriving DecidableEq, Repr, Inhabited

/-- The frame under transmission: its bytes on the line, and the local frame it is, if it is one (R150). -/
structure Transmission where
  bytes : Bytes
  origin : Option LocalFrame
  deriving DecidableEq, Repr, Inhabited

/-- The nine counters of a port (R155). -/
structure PortCounters where
  rxGood : Nat
  rxCheck : Nat
  rxLength : Nat
  rxRunt : Nat
  rxOverlong : Nat
  sent : Nat
  queueFull : Nat
  relayDown : Nat
  localDown : Nat
  deriving DecidableEq, Repr, Inhabited

/-- A link port, and the Relay's queues, waiting list and arbiter of its transmitter (08). `line` is the level of the
line-present indication as the first of the part's blocks has taken it (R141, R151; log 2). `relayQ` is the relay queue
bound for this port. -/
structure PortState where
  line : Bool
  up : Bool
  receiving : Bool
  counters : PortCounters
  relayQ : List Bytes
  localQ : List LocalFrame
  waiting : List Waiter
  tx : Option Transmission
  fair : Nat
  deriving DecidableEq, Repr, Inhabited

/-- The ending of a local frame (R152). -/
structure Ending where
  port : Port
  who : Producer
  serial : Nat
  transmitted : Bool
  deriving DecidableEq, Repr, Inhabited

/-- Happenings raised by one block at another and not yet taken there (log 2), oldest first. A change of a port's line
is raised at each block that has still to take it: the port with the Relay, the Retrieval Engine (DOWN alone) and the
Notice Unit (R151, R153). -/
structure Raised where
  relay : List (Port × Bytes)
  classify : List (Port × Delivered)
  requests : List (Port × Bytes)
  results : List Result
  marks : List TriggerMark
  closures : Nat
  events : List (EventSource × Event)
  endings : List Ending
  portLink : List (Port × Bool)
  retDown : List Port
  noticeLink : List (Port × Bool)
  deriving DecidableEq, Repr, Inhabited

/-! ### The Log Manager (04) -/

/-- State of a log block (R61). -/
inductive BlockState where
  | erased
  | active
  | filled
  | erasing
  | stale
  | retired
  deriving DecidableEq, Repr, Inhabited

/-- A Block Table entry (R61). -/
structure BlockEntry where
  state : BlockState
  hold : Nat
  firstSeq : Option Nat
  firstPage : Option Nat
  deriving DecidableEq, Repr, Inhabited

/-- Erase-ahead's condition with its block (R72). -/
inductive EraseAhead where
  | none
  | prepared (block : Nat)
  | underWay (block : Nat)
  deriving DecidableEq, Repr, Inhabited

/-- The log condition; FAULT holds its cause (4.7, R80). -/
inductive LogCondition where
  | normal
  | waiting
  | full
  | fault (cause : FaultCause)
  deriving DecidableEq, Repr, Inhabited

/-- The Log Manager (04). The Block Table lists (block, entry) pairs with blocks rising; a block not listed has the
entry it has after reset. -/
structure LogManager where
  table : List (Nat × BlockEntry)
  history : List Nat
  retired : List Nat
  active : Option Nat
  nextPage : Nat
  failing : Bool
  ahead : EraseAhead
  ringPos : Nat
  lastCommitted : Nat
  nextPageSeq : Nat
  condition : LogCondition
  resumedPending : Bool
  capturingRec : Nat
  pagesCommitted : Nat
  programFailures : Nat
  eraseFailures : Nat
  deriving DecidableEq, Repr, Inhabited

/-! ### The Capture Controller and the Recording Directory (05) -/

/-- Capture state (5.1). -/
inductive CaptureState where
  | stopped
  | running
  | posting
  | closing
  deriving DecidableEq, Repr, Inhabited

/-- The target of CLOSING (5.1). -/
inductive CloseTarget where
  | running
  | stopped
  deriving DecidableEq, Repr, Inhabited

/-- The Capture Controller (5.1). A running timer holds the milliseconds it was started with (log 3). -/
structure CaptureCtl where
  state : CaptureState
  target : Option CloseTarget
  settings : Settings
  lastRun : Nat
  runOrigin : Nat
  postEnd : Nat
  postTimer : Option Nat
  holdoffTimer : Option Nat
  stopReason : Option StopReason
  keptAsked : Bool
  taken : Nat
  ignored : Nat
  refused : Nat
  deriving DecidableEq, Repr, Inhabited

/-- The Recording Directory (5.5). -/
structure Directory where
  entries : List Entry
  nextNumber : Nat
  deriving DecidableEq, Repr, Inhabited

/-! ### The Journal Writer (06) -/

/-- Journal state (6.2). -/
inductive JournalState where
  | idle
  | appending
  | compacting
  | profile
  deriving DecidableEq, Repr, Inhabited

/-- A job (R111). A CAPTURING job holds the block list at the trigger (R94; log 14). A RETIRED_LIST job is covered
when a RETIRED_LIST page has been handed in after it was asked (R112). -/
inductive Job where
  | capturing (num : Nat) (blocks : List Nat)
  | kept (num : Nat)
  | released (num : Nat)
  | frozen (num : Nat)
  | retiredList (covered : Bool)
  | saveProfile (p : Profile)
  | clearProfile
  deriving DecidableEq, Repr, Inhabited

/-- A compaction (R115): target block and its next page, the recordings of the set in ascending number, the set
position being written, and how many compactions have begun for the job (R117). -/
structure Compaction where
  target : Nat
  page : Nat
  set : List Nat
  pos : Nat
  begun : Nat
  deriving DecidableEq, Repr, Inhabited

/-- The Journal Writer (6.2). `profStep` says which operation of a profile job is outstanding: 0 the first erase,
1 page 0 or the second erase, 2 page 1. -/
structure JournalWriter where
  cur : Option Nat
  nextPage : Nat
  state : JournalState
  jobs : List Job
  usable : Bool
  comp : Compaction
  profStep : Nat
  validBlock : Option Nat
  generation : Nat
  dirFailures : Nat
  profFailures : Nat
  deriving DecidableEq, Repr, Inhabited

/-! ### The Retrieval Engine (07) -/

/-- State of a session slot (R126). -/
inductive SessState where
  | free
  | fetching
  | delivering
  | stalled
  | following
  | ending
  deriving DecidableEq, Repr, Inhabited

/-- Reasons that an end frame carries (R137). -/
inductive EndReason where
  | complete
  | endOfData
  | closed
  | overtaken
  | timeout
  deriving DecidableEq, Repr, Inhabited

/-- A frame of the session that waits for room in a local queue (R133): a data frame with its record count and
last sequence, or the end frame. -/
inductive Offered where
  | none
  | data (count last : Nat)
  | endFrame
  deriving DecidableEq, Repr, Inhabited

/-- A session slot (R125). `source` 0 is LIVE. The cursor is `block`, `page`, for a recording `listPos`, for LIVE
`bound`. `endReason` is present while the end frame is still to be placed (R137). -/
structure Session where
  state : SessState
  station : Byte
  port : Port
  source : Nat
  follow : Bool
  endPoint : Option Nat
  limit : Nat
  delivered : Nat
  credit : Nat
  point : Nat
  nextSeq : Nat
  block : Option Nat
  page : Nat
  listPos : Nat
  bound : Nat
  buffer : List Record
  reading : Bool
  idleTimer : Bool
  replySeen : Bool
  offered : Offered
  endReason : Option EndReason
  deriving DecidableEq, Repr, Inhabited

/-- The Retrieval Engine (07). -/
structure Retrieval where
  s1 : Session
  s2 : Session
  deriving DecidableEq, Repr, Inhabited

/-! ### The Management Unit (09) -/

/-- A request as the unit holds it (R156); `cached` is the copied response of a cached duplicate (R157). -/
structure Request where
  src : Byte
  port : Port
  code : Byte
  tag : Nat
  params : Bytes
  broadcast : Bool
  cached : Option Bytes
  deriving DecidableEq, Repr, Inhabited

/-- How far the request being executed is: handed to its owner (R159), waiting for a journal or profile page
(R163), its response offered and neither entered nor its discard taken (R161), and for RESTART: waiting for the
ending of the OK (R169), the capture stop, and the drain of the orderly stop (R170). -/
inductive ExecStage where
  | handed
  | journal
  | replying (serial : Nat) (bytes : Bytes) (store : Bool) (opened : Option SessionId) (restart : Bool)
  | restartWait (serial : Nat)
  | stopping
  | draining
  deriving DecidableEq, Repr, Inhabited

/-- The request being executed (R159). -/
structure Current where
  req : Request
  stage : ExecStage
  deriving DecidableEq, Repr, Inhabited

/-- An entry of the Reply Cache (R158). -/
structure CacheEntry where
  station : Byte
  code : Byte
  tag : Nat
  bytes : Bytes
  deriving DecidableEq, Repr, Inhabited

/-- The Management Unit (09). The cache lists its entries in order of use, the most recently used last. -/
structure Management where
  queue : List Request
  current : Option Current
  cache : List CacheEntry
  managers : List Byte
  discarded : Nat
  denied : Nat
  duplicates : Nat
  deriving DecidableEq, Repr, Inhabited

/-! ### The Start-up Sequencer (11) -/

/-- Part states (R181). -/
inductive PartState where
  | reset
  | mounting
  | ready
  deriving DecidableEq, Repr, Inhabited

/-- The operation of the mount scan that is outstanding (11.2 to 11.6). -/
inductive ScanStep where
  | none
  | profile (k : Nat)
  | journal (k : Nat)
  | logHead (block : Nat)
  | logRest (block page : Nat)
  | newest (block page : Nat)
  | lastBlock (num block page : Nat)
  | append (num : Nat)
  | compErase (num : Nat)
  | compCopy (num : Nat)
  | firstErase (block : Nat)
  deriving DecidableEq, Repr, Inhabited

/-- The Start-up Sequencer and the values that the mount scan has formed (11). `leftCur` and `leftNext` are the Directory
Area position as it was before the latest compaction (R188). -/
structure Sequencer where
  part : PartState
  cause : ResetCause
  own : Byte
  bypass : Bool
  phase : Nat
  scan : ScanStep
  profileGot : List ReadResult
  jpages : List (Nat × PageHeader × JournalPage)
  dirEnd0 : Nat
  dirEnd1 : Nat
  dirCur : Option Nat
  dirNext : Nat
  leftCur : Option Nat
  leftNext : Nat
  maxSeq : Nat
  heads : List (Nat × PageHeader)
  tails : List (Nat × PageHeader)
  work : List Nat
  comp : Compaction
  dirFault : Bool
  retiredNow : Option Nat
  deriving DecidableEq, Repr, Inhabited

/-! ### The part -/

/-- The state of the part. `pending` is the queue of commands; `serial` and `free` are the model's own counters
(log 30, log 8). The Page Array `store` lists (16 · block + page, page) pairs with keys rising; a page not listed is
erased. -/
structure State where
  pending : List Instr
  seqr : Sequencer
  portA : PortState
  portB : PortState
  raised : Raised
  cls : Classifier
  packer : Packer
  store : List (Nat × Page)
  arr : ArrayCtl
  log : LogManager
  ctl : CaptureCtl
  dir : Directory
  jrnl : JournalWriter
  ret : Retrieval
  mgmt : Management
  notice : NoticeUnit
  serial : Nat
  free : Nat
  deriving DecidableEq, Repr, Inhabited

/-- No happening of the part stops it (log 29): the spec gives every failure an effect, so there is no fault. -/
inductive Fault where
  deriving DecidableEq, Repr

/-- Reasons to refuse a command. -/
inductive Refusal where
  /-- Raised by exec for a row that has no meaning yet; no row is left (safe). -/
  | notModelled (mnemonic : String)
  deriving DecidableEq, Repr

/-! ### Values after reset -/

/-- The capture settings after reset (R84). -/
def Settings.initial : Settings :=
  { window := 4, postCount := 1000, postTime := 0, holdoff := 1000, rearm := true, flush := 100, autostart := false }

/-- The notify settings after reset (R173). -/
def NotifySettings.initial : NotifySettings :=
  { station := 0, port := .a, enable := 1023, retry := 500 }

/-- The classifier after reset (R2). -/
def Classifier.initial : Classifier :=
  { rules := List.replicate Config.ruleCount Rule.cleared, dflt := .pass, defaultHits := 0 }

/-- An EMPTY staging buffer. -/
def Buffer.initial : Buffer := { state := .empty, recs := [], run := 0 }

/-- The Packer after reset (R28); Next Record Sequence is set by the mount scan (R24; log 5). -/
def Packer.initial : Packer :=
  { sb0 := Buffer.initial, sb1 := Buffer.initial, fullOrder := [], slot := [], run := 0, gateOpen := false,
    flushTimer := none, nextSeq := 1, tallyCount := 0, tallyFirst := 0, tallyLast := 0, lossFlag := false,
    lastPlaced := 0, timeBase := 0, recordsPacked := 0, capturesLost := 0 }

/-- The Array Controller after reset (R59). -/
def ArrayCtl.initial : ArrayCtl :=
  { running := none, suspended := none, journal := none, logWriter := none, eraseAhead := none, session1 := none,
    session2 := none, sequencer := none, lastSession := .two }

/-- The Block Table entry of a block before the mount scan has entered it (log 5). -/
def BlockEntry.initial : BlockEntry := { state := .stale, hold := 0, firstSeq := none, firstPage := none }

/-- The Log Manager after reset (R61, R64, R68, R78, R82; log 5). -/
def LogManager.initial : LogManager :=
  { table := [], history := [], retired := [], active := none, nextPage := 16, failing := false, ahead := .none,
    ringPos := 1023, lastCommitted := 0, nextPageSeq := 1, condition := .normal, resumedPending := false,
    capturingRec := 0, pagesCommitted := 0, programFailures := 0, eraseFailures := 0 }

/-- The Capture Controller after reset (R83). -/
def CaptureCtl.initial : CaptureCtl :=
  { state := .stopped, target := none, settings := Settings.initial, lastRun := 0, runOrigin := 0, postEnd := 0,
    postTimer := none, holdoffTimer := none, stopReason := none, keptAsked := false, taken := 0, ignored := 0,
    refused := 0 }

/-- The directory after reset (R95; log 5). -/
def Directory.initial : Directory := { entries := [], nextNumber := 1 }

/-- No compaction begun. -/
def Compaction.initial : Compaction := { target := 0, page := 0, set := [], pos := 0, begun := 0 }

/-- The Journal Writer after reset (R110; log 5). -/
def JournalWriter.initial : JournalWriter :=
  { cur := none, nextPage := 16, state := .idle, jobs := [], usable := true, comp := Compaction.initial,
    profStep := 0, validBlock := none, generation := 0, dirFailures := 0, profFailures := 0 }

/-- A FREE slot (R125). -/
def Session.initial : Session :=
  { state := .free, station := 0, port := .a, source := 0, follow := false, endPoint := none, limit := 0,
    delivered := 0, credit := 0, point := 0, nextSeq := 0, block := none, page := 0, listPos := 0, bound := 0,
    buffer := [], reading := false, idleTimer := false, replySeen := false, offered := .none, endReason := none }

/-- Both slots FREE (R125). -/
def Retrieval.initial : Retrieval := { s1 := Session.initial, s2 := Session.initial }

/-- The Management Unit after reset (R158, R159, R172). -/
def Management.initial : Management :=
  { queue := [], current := none, cache := [], managers := [], discarded := 0, denied := 0, duplicates := 0 }

/-- The Notice Unit after reset (R173). -/
def NoticeUnit.initial : NoticeUnit :=
  { settings := NotifySettings.initial, queue := [], nextNumber := 1, overflow := 0, head := .parked, attempts := 0,
    carried := 0, frame := none, retry := none, linkA := false, linkB := false, dropped := 0, discarded := 0 }

/-- Port counters after reset (R155). -/
def PortCounters.initial : PortCounters :=
  { rxGood := 0, rxCheck := 0, rxLength := 0, rxRunt := 0, rxOverlong := 0, sent := 0, queueFull := 0,
    relayDown := 0, localDown := 0 }

/-- A port in RESET (R154; link state log 6). -/
def PortState.initial : PortState :=
  { line := false, up := false, receiving := false, counters := PortCounters.initial, relayQ := [], localQ := [],
    waiting := [], tx := none, fair := 0 }

/-- Nothing raised. -/
def Raised.initial : Raised :=
  { relay := [], classify := [], requests := [], results := [], marks := [], closures := 0, events := [],
    endings := [], portLink := [], retDown := [], noticeLink := [] }

/-- The Sequencer at the start of a reset of the given cause (R181). -/
def Sequencer.initial (cause : ResetCause) (own : Byte) : Sequencer :=
  { part := .reset, cause := cause, own := own, bypass := true, phase := 0, scan := .none, profileGot := [],
    jpages := [], dirEnd0 := 0, dirEnd1 := 0, dirCur := none, dirNext := 16, leftCur := none, leftNext := 16,
    maxSeq := 0, heads := [], tails := [], work := [], comp := Compaction.initial, dirFault := false, retiredNow := none }

/-- The part at the start of a reset of the given cause: every block's volatile state as its chapter gives it for a
reset, over the Page Array and the queue of commands, which a reset does not touch (R181). -/
def State.inReset (pending : List Instr) (store : List (Nat × Page)) (cause : ResetCause) (own : Byte)
    (serial free : Nat) : State :=
  { pending := pending, seqr := Sequencer.initial cause own, portA := PortState.initial, portB := PortState.initial,
    raised := Raised.initial, cls := Classifier.initial, packer := Packer.initial, store := store,
    arr := ArrayCtl.initial, log := LogManager.initial, ctl := CaptureCtl.initial, dir := Directory.initial,
    jrnl := JournalWriter.initial, ret := Retrieval.initial, mgmt := Management.initial,
    notice := NoticeUnit.initial, serial := serial, free := free }

/-- The part right after reset: in RESET by POWER_ON, over a fresh Page Array, own address 250 (log 4). -/
def State.reset : State := State.inReset [] [] .powerOn 250 0 0

/-! ### Named updates, one per field -/

def State.setPending (s : State) (x : List Instr) : State := { s with pending := x }
def State.setSeqr (s : State) (x : Sequencer) : State := { s with seqr := x }
def State.setPortA (s : State) (x : PortState) : State := { s with portA := x }
def State.setPortB (s : State) (x : PortState) : State := { s with portB := x }
def State.setRaised (s : State) (x : Raised) : State := { s with raised := x }
def State.setCls (s : State) (x : Classifier) : State := { s with cls := x }
def State.setPacker (s : State) (x : Packer) : State := { s with packer := x }
def State.setStore (s : State) (x : List (Nat × Page)) : State := { s with store := x }
def State.setArr (s : State) (x : ArrayCtl) : State := { s with arr := x }
def State.setLog (s : State) (x : LogManager) : State := { s with log := x }
def State.setCtl (s : State) (x : CaptureCtl) : State := { s with ctl := x }
def State.setDir (s : State) (x : Directory) : State := { s with dir := x }
def State.setJrnl (s : State) (x : JournalWriter) : State := { s with jrnl := x }
def State.setRet (s : State) (x : Retrieval) : State := { s with ret := x }
def State.setMgmt (s : State) (x : Management) : State := { s with mgmt := x }
def State.setNotice (s : State) (x : NoticeUnit) : State := { s with notice := x }
def State.setSerial (s : State) (x : Nat) : State := { s with serial := x }
def State.setFree (s : State) (x : Nat) : State := { s with free := x }

end Sys2Proof.Machine
end

