-- ==== Sys2Proof/Machine/Ops.lean ====
section
/-! DEFINITION. Operations that every block uses: counters, byte strings and the check, sparse tables, lists of
raised happenings, ports, and the lookups of blocks and entries. -/

namespace Sys2Proof.Machine

/-! ### Counters and numbers -/

/-- One more on a 32-bit counter, which stays at its maximum (00_scope, Counters). -/
def bump (n : Nat) : Nat := if n < counterMax then n + 1 else counterMax

/-- `k` more on a 32-bit counter (R151 counts several frames in one happening). -/
def bumpBy (k n : Nat) : Nat := if n + k < counterMax then n + k else counterMax

/-- The number after n where numbers lie in 1 to 65535 and wrap from 65535 to 1 (00_scope, Sequences). -/
def nextNumber (n : Nat) : Nat := if n < 65535 then n + 1 else 1

/-- The part's own address from a strap value: 0 and 251 to 255 give 250 (R181). -/
def strapAddress (straps : Byte) : Byte := if straps = 0 ∨ 251 ≤ straps.toNat then 250 else straps

/-- A station address, 1 to 250 (12.2). -/
def isStation (b : Byte) : Bool := decide (1 ≤ b.toNat) && decide (b.toNat ≤ 250)

/-! ### Byte strings -/

/-- `n` in `k` bytes, most significant first (R193). -/
def be : Nat → Nat → Bytes
  | 0, _ => []
  | k + 1, n => be k (n / 256) ++ [BitVec.ofNat 8 n]

/-- The number that bytes carry, most significant first (R193). -/
def beNat (bs : Bytes) : Nat := bs.foldl (fun acc b => acc * 256 + b.toNat) 0

/-- One byte holding `n`. -/
def b1 (n : Nat) : Bytes := [BitVec.ofNat 8 n]

/-- ON or OFF, yes or no, in one byte (12.5). -/
def bBool (b : Bool) : Bytes := [if b then 1 else 0]

/-- A sequence in six bytes; 2^48 has no six-byte form and its value is free (log 25). -/
def be6 (n : Nat) : Bytes := if n ≤ sequenceMax then be 6 n else be 6 Config.pastLastSequence.toNat

/-- A Time Base value in four bytes. -/
def beTime (t : Time) : Bytes := be 4 t.toNat

/-- `bs` from offset `off`, `n` bytes. -/
def slice (off n : Nat) (bs : Bytes) : Bytes := (bs.drop off).take n

/-- The byte at an offset, 0 where there is none. -/
def byteAt (bs : Bytes) (off : Nat) : Byte := bs.getD off 0

/-- The number in the `n` bytes at offset `off`. -/
def fieldAt (off n : Nat) (bs : Bytes) : Nat := beNat (slice off n bs)

/-- One place of the check register (R193). -/
def crcShift (reg : BitVec 16) : BitVec 16 :=
  if reg.msb then (reg <<< 1) ^^^ 0x1021#16 else reg <<< 1

/-- One byte taken into the check register: combined into its top, then eight places (R193). -/
def crcByte (reg : BitVec 16) (b : Byte) : BitVec 16 :=
  let r := reg ^^^ ((b.zeroExtend 16) <<< 8)
  crcShift (crcShift (crcShift (crcShift (crcShift (crcShift (crcShift (crcShift r)))))))

/-- The 16-bit check, polynomial 0x1021, initial value 0xFFFF (R193). -/
def crc16 (bs : Bytes) : BitVec 16 := bs.foldl crcByte 0xFFFF#16

/-- A frame with its check appended, high byte first (R150, R193). -/
def withCheck (bs : Bytes) : Bytes := bs ++ be 2 (crc16 bs).toNat

/-! ### Sparse tables: (key, value) pairs with keys strictly rising -/

/-- The value listed at a key. -/
def lookup {α : Type} : List (Nat × α) → Nat → Option α
  | [], _ => none
  | (k, v) :: rest, key => if k = key then some v else lookup rest key

/-- The table with the value at a key replaced (some) or unlisted (none), keys still rising. -/
def putAt {α : Type} : List (Nat × α) → Nat → Option α → List (Nat × α)
  | [], key, some v => [(key, v)]
  | [], _, none => []
  | (k, w) :: rest, key, v =>
    if key < k then
      match v with
      | some x => (key, x) :: (k, w) :: rest
      | none => (k, w) :: rest
    else if key = k then
      match v with
      | some x => (key, x) :: rest
      | none => rest
    else (k, w) :: putAt rest key v

/-- Every key of the list is above `low`, and keys rise strictly. -/
def risingAbove {α : Type} : Nat → List (Nat × α) → Bool
  | _, [] => true
  | low, (k, _) :: rest => decide (low < k) && risingAbove k rest

/-- The canonical form of a sparse table: keys strictly rising. -/
def sparseWf {α : Type} : List (Nat × α) → Bool
  | [] => true
  | (k, _) :: rest => risingAbove k rest

/-! ### Lists -/

/-- The first element that satisfies `p`, and the list without it. -/
def takeFirst {α : Type} (p : α → Bool) : List α → Option (α × List α)
  | [] => none
  | x :: xs =>
    if p x then some (x, xs)
    else match takeFirst p xs with
      | none => none
      | some (y, ys) => some (y, x :: ys)

/-- Insertion into a list in ascending order of `key`, behind equal keys. -/
def insertBy {α : Type} (key : α → Nat) (x : α) : List α → List α
  | [] => [x]
  | y :: ys => if key x < key y then x :: y :: ys else y :: insertBy key x ys

/-- The list in ascending order of `key`. -/
def sortBy {α : Type} (key : α → Nat) (xs : List α) : List α :=
  xs.foldl (fun acc x => insertBy key x acc) []

/-! ### Ports -/

/-- The far port (8.1). -/
def farPort : Port → Port
  | .a => .b
  | .b => .a

/-- The state of a port. -/
def State.port (s : State) : Port → PortState
  | .a => s.portA
  | .b => s.portB

/-- The state with one port replaced. -/
def State.setPort (s : State) : Port → PortState → State
  | .a, x => s.setPortA x
  | .b, x => s.setPortB x

/-- The part passes frames: it is MOUNTING or READY (R154). -/
def State.live (s : State) : Bool := decide (s.seqr.part ≠ .reset)

/-! ### Happenings raised at other blocks (log 2) -/

/-- An event raised at the Notice Unit by a block (R175). -/
def raiseEvent (src : EventSource) (e : Event) (s : State) : State :=
  s.setRaised { s.raised with events := s.raised.events ++ [(src, e)] }

/-- The report of a local frame's ending, on its way to its producer (R152). -/
def raiseEnding (p : Port) (f : LocalFrame) (transmitted : Bool) (s : State) : State :=
  s.setRaised { s.raised with
    endings := s.raised.endings ++ [{ port := p, who := f.who, serial := f.serial, transmitted := transmitted }] }

/-! ### The Block Table and the Page Array -/

/-- The Block Table entry of a block (R61). -/
def blockEntry (l : LogManager) (b : Nat) : BlockEntry := (lookup l.table b).getD BlockEntry.initial

/-- The Block Table with one entry replaced; an entry equal to the entry after reset is unlisted. -/
def setBlockEntry (l : LogManager) (b : Nat) (e : BlockEntry) : LogManager :=
  { l with table := putAt l.table b (if e = BlockEntry.initial then none else some e) }

/-- The hold count of a block (R61). -/
def holdOf (l : LogManager) (b : Nat) : Nat := (blockEntry l b).hold

/-- One more hold on a block (R63). -/
def raiseHold (l : LogManager) (b : Nat) : LogManager :=
  setBlockEntry l b { blockEntry l b with hold := (blockEntry l b).hold + 1 }

/-- One hold less on a block (R65). -/
def lowerHold (l : LogManager) (b : Nat) : LogManager :=
  setBlockEntry l b { blockEntry l b with hold := (blockEntry l b).hold - 1 }

/-- Where a page stands in the store. -/
def pageKey (block page : Nat) : Nat := 16 * block + page

/-- The page of a block, none where it is erased. -/
def pageAt (store : List (Nat × Page)) (block page : Nat) : Option Page := lookup store (pageKey block page)

/-- The store with one page replaced; an erased page is unlisted. -/
def setPage (store : List (Nat × Page)) (block page : Nat) (x : Option Page) : List (Nat × Page) :=
  putAt store (pageKey block page) x

/-! ### The live ring (R66, R81) -/

/-- Listed blocks: the History List and the active block if it has a committed page (R81). -/
def listedBlocks (l : LogManager) : List Nat :=
  l.history ++ (match l.active with
    | none => []
    | some a => if (blockEntry l a).firstSeq = none then [] else [a])

/-- The first record sequence of a block, 0 where it has none. -/
def firstSeqOf (l : LogManager) (b : Nat) : Nat := ((blockEntry l b).firstSeq).getD 0

/-- Oldest available sequence, none when no listed block has one (R81). -/
def oldestAvailable (l : LogManager) : Option Nat :=
  match listedBlocks l with
  | [] => none
  | b :: _ => (blockEntry l b).firstSeq

/-- The block after `b` in a list of blocks. -/
def blockAfter (b : Nat) : List Nat → Option Nat
  | [] => none
  | x :: rest => if x = b then rest.head? else blockAfter b rest

/-- Upper bound of a listed block's records: below the next listed block, or the newest committed sequence
(R81). -/
def upperBound (l : LogManager) (b : Nat) : Nat :=
  match blockAfter b (listedBlocks l) with
  | some c => firstSeqOf l c - 1
  | none => l.lastCommitted

/-- Answer of the Locate lookup (R81). -/
inductive Located where
  | block (b bound : Nat)
  | notAvailable
  | beyond
  deriving DecidableEq, Repr

/-- The last block of a list whose first record sequence is at or below s. -/
def lastAtOrBelow (l : LogManager) (s : Nat) (bs : List Nat) : Option Nat :=
  (bs.filter (fun b => decide (firstSeqOf l b ≤ s))).getLast?

/-- The Locate lookup (R81; with no listed block, log 34). -/
def locate (l : LogManager) (s : Nat) : Located :=
  if l.lastCommitted < s then .beyond
  else match lastAtOrBelow l s (listedBlocks l) with
    | none => .notAvailable
    | some b => .block b (upperBound l b)

/-! ### The directory -/

/-- The entry that holds a recording number. -/
def findEntry (d : Directory) (num : Nat) : Option Entry := d.entries.find? (fun e => decide (e.num = num))

/-- The directory with the entry of that number changed. -/
def changeEntry (d : Directory) (num : Nat) (f : Entry → Entry) : Directory :=
  { d with entries := d.entries.map (fun e => if e.num = num then f e else e) }

/-- The directory without the entry of that number (R105). -/
def removeEntry (d : Directory) (num : Nat) : Directory :=
  { d with entries := d.entries.filter (fun e => decide (e.num ≠ num)) }

/-- The entry that is CAPTURING or CLOSING, if there is one (R83); of several CAPTURING entries that the mount scan has
replayed and not yet completed, the first in replay order (R166; DESIGN CHOICE, log 45). -/
def openEntry (d : Directory) : Option Entry :=
  d.entries.find? (fun e => decide (e.state = .capturing) || decide (e.state = .closing))

/-- Entries in ascending recording number (R95). -/
def sortedEntries (d : Directory) : List Entry := sortBy Entry.num d.entries

/-- The log is in FAULT (R80). -/
def inFault (l : LogManager) : Bool :=
  match l.condition with
  | .fault _ => true
  | _ => false

/-! ### Sessions -/

/-- A session slot. -/
def State.session (s : State) : SessionId → Session
  | .one => s.ret.s1
  | .two => s.ret.s2

/-- The state with one session slot replaced. -/
def State.setSession (s : State) : SessionId → Session → State
  | .one, x => s.setRet { s.ret with s1 := x }
  | .two, x => s.setRet { s.ret with s2 := x }

/-- The identifier of a slot (R125). -/
def sessionNumber : SessionId → Nat
  | .one => 1
  | .two => 2

/-- A session that has not ended (R126). -/
def sessionOpen (x : Session) : Bool := decide (x.state ≠ .free) && decide (x.state ≠ .ending)

/-- A page sequence drawn from the Log Manager: the current value, which then rises by 1 and stays at its maximum
(R69). -/
def drawPageSeq (s : State) : Nat × State :=
  (s.log.nextPageSeq,
    s.setLog { s.log with
      nextPageSeq := if s.log.nextPageSeq < sequenceMax then s.log.nextPageSeq + 1 else sequenceMax })

end Sys2Proof.Machine
end

