-- ==== Sys2Proof/Machine/Formats.lean ====
section
/-! DEFINITION. The code lists and byte layouts of 12: what a station sees of the part's state. -/

namespace Sys2Proof.Machine

/-! ### Codes (12.5) -/

def ruleStateCode : RuleState → Nat
  | .unused => 0
  | .enabled => 1
  | .disabled => 2

def ruleDirCode : RuleDir → Nat
  | .aToB => 0
  | .bToA => 1
  | .either => 2

def frameKindCode : FrameKind → Nat
  | .good => 0
  | .error => 1
  | .any => 2

def actionCode : Action → Nat
  | .pass => 0
  | .capture => 1
  | .trigger => 2
  | .triggerOnly => 3

def senseCode : Sense → Nat
  | .equal => 0
  | .notEqual => 1

def trigSourceCode : TrigSource → Nat
  | .rule i => i
  | .forced => 255

def recStateCode : RecState → Nat
  | .capturing => 1
  | .closing => 2
  | .kept => 3
  | .frozen => 4

/-- Close reason, 0 when absent. -/
def closeReasonCode : Option CloseReason → Nat
  | none => 0
  | some .count => 1
  | some .time => 2
  | some .length => 3
  | some .stopped => 4
  | some .fault => 5
  | some .interrupted => 6

def captureStateCode : CaptureState → Nat
  | .stopped => 0
  | .running => 1
  | .posting => 2
  | .closing => 3

def targetCode : Option CloseTarget → Nat
  | none => 0
  | some .running => 1
  | some .stopped => 2

def stopReasonCode : StopReason → Nat
  | .request => 1
  | .fault => 2
  | .sequenceEnd => 3
  | .singleShot => 4
  | .restart => 5

/-- MOUNTING 1, READY 2; no frame is sent in RESET. -/
def partCode : PartState → Nat
  | .reset => 0
  | .mounting => 1
  | .ready => 2

def causeCode : ResetCause → Nat
  | .powerOn => 1
  | .line => 2
  | .restart => 3

def portCode : Port → Nat
  | .a => 0
  | .b => 1

def bufCode : BufState → Nat
  | .empty => 0
  | .filling => 1
  | .full => 2
  | .writing => 3

/-- IDLE 0, READING 1, PROGRAMMING 2, ERASING 3, by the operation that runs (R52). -/
def arrayCode (a : ArrayCtl) : Nat :=
  match a.running with
  | none => 0
  | some r => match r.req with
    | .read _ _ => 1
    | .program _ _ _ _ => 2
    | .erase _ => 3

def conditionCode : LogCondition → Nat
  | .normal => 0
  | .waiting => 1
  | .full => 2
  | .fault _ => 3

def aheadCode : EraseAhead → Nat
  | .none => 0
  | .prepared _ => 1
  | .underWay _ => 2

def journalStateCode : JournalState → Nat
  | .idle => 0
  | .appending => 1
  | .compacting => 2
  | .profile => 3

def sessStateCode : SessState → Nat
  | .free => 0
  | .fetching => 1
  | .delivering => 2
  | .stalled => 3
  | .following => 4
  | .ending => 5

def endReasonCode : EndReason → Nat
  | .complete => 1
  | .endOfData => 2
  | .closed => 3
  | .overtaken => 4
  | .timeout => 5

/-- IDLE 0, EXECUTING 1, REPLYING 2 (R159, R169). -/
def mgmtCode (m : Management) : Nat :=
  match m.current with
  | none => 0
  | some c => match c.stage with
    | .replying _ _ _ _ _ => 2
    | _ => 1

def headCode (n : NoticeUnit) : Nat :=
  match n.queue with
  | [] => 0
  | _ :: _ => match n.head with
    | .queued => 1
    | .inFlight => 2
    | .parked => 3

def eventCode : Event → Nat
  | .started _ => 1
  | .triggered _ _ _ _ _ _ => 2
  | .triggerRefused _ _ _ => 3
  | .recordingKept _ _ _ _ _ => 4
  | .captureLoss _ _ => 5
  | .logFull _ _ => 6
  | .logResumed _ => 7
  | .blockRetired _ _ _ => 8
  | .storeFault _ => 9
  | .captureStopped _ _ => 10

def retireCauseCode : RetireCause → Nat
  | .program => 1
  | .erase => 2

def faultCauseCode : FaultCause → Nat
  | .retiredLimit => 1
  | .directoryErase => 2

def errorCode : RxOutcome → Nat
  | .good => 0
  | .check => 1
  | .length => 2
  | .runt => 3
  | .overlong => 4

/-- Response statuses (12.3). -/
inductive Status where
  | ok
  | unknownRequest
  | badLength
  | badValue
  | busy
  | denied
  | notFound
  | inUse
  | frozen
  | noRoom
  | storeFault
  | mounting
  deriving DecidableEq, Repr

def statusCode : Status → Nat
  | .ok => 0
  | .unknownRequest => 1
  | .badLength => 2
  | .badValue => 3
  | .busy => 4
  | .denied => 5
  | .notFound => 6
  | .inUse => 7
  | .frozen => 8
  | .noRoom => 9
  | .storeFault => 10
  | .mounting => 11

/-! ### Capture records (12.10) -/

/-- Size of a record in bytes (2.1). -/
def recordSize (r : Record) : Nat :=
  match r.body with
  | .frame _ _ _ _ _ _ bytes => 15 + bytes.length
  | .gap _ _ _ => 26
  | .runStart _ => 16
  | .runStop _ _ => 17
  | .timeSet _ _ => 22

/-- Bytes that a list of records occupies. -/
def recordsSize (rs : List Record) : Nat := rs.foldl (fun acc r => acc + recordSize r) 0

def recordKindCode : RecordBody → Nat
  | .frame _ _ _ _ _ _ _ => 1
  | .gap _ _ _ => 2
  | .runStart _ => 3
  | .runStop _ _ => 4
  | .timeSet _ _ => 5

/-- The flags byte: direction, error kind, TRUNCATED, MARKED; 0 for records other than FRAME. -/
def recordFlags : RecordBody → Nat
  | .frame dir error truncated marked _ _ _ =>
    portCode dir + 2 * errorCode error + (if truncated then 16 else 0) + (if marked then 32 else 0)
  | _ => 0

/-- The Rule field: the rule index of a FRAME record, 255 for the other kinds (2.1). -/
def recordRule : RecordBody → Nat
  | .frame _ _ _ _ rule _ _ => rule
  | _ => 255

/-- The body behind the common header. -/
def recordBodyBytes : RecordBody → Bytes
  | .frame _ _ _ _ _ origLen bytes => b1 origLen ++ bytes
  | .gap lost first last => be 4 lost ++ beTime first ++ beTime last
  | .runStart run => be 2 run
  | .runStop run reason => be 2 run ++ b1 (stopReasonCode reason)
  | .timeSet old new => beTime old ++ beTime new

/-- A record as it is packed (12.10). -/
def recordBytes (r : Record) : Bytes :=
  b1 (recordSize r) ++ b1 (recordKindCode r.body) ++ be6 r.seq ++ beTime r.time ++ b1 (recordFlags r.body)
    ++ b1 (recordRule r.body) ++ recordBodyBytes r.body

/-! ### Frames the part sends (12.2, 12.3, 12.9) -/

/-- A frame that the part originates, without its check: Link sequence 0 (12.2). -/
def ownFrame (own dest : Byte) (cls : Nat) (payload : Bytes) : Bytes :=
  [dest, own] ++ b1 cls ++ b1 0 ++ b1 payload.length ++ payload

/-- A response: code and tag as received, status, and result fields with OK alone (R161, 12.3). -/
def responseFrame (own : Byte) (r : Request) (st : Status) (result : Bytes) : Bytes :=
  ownFrame own r.src 125
    ([r.code] ++ be 2 r.tag ++ b1 (statusCode st) ++ (if st = .ok then result else []))

/-- A data frame of a session (R132, 12.9). -/
def dataFrame (own dest : Byte) (i : SessionId) (skip : Bool) (recs : List Record) : Bytes :=
  ownFrame own dest 123
    (b1 (sessionNumber i) ++ b1 1 ++ bBool skip ++ b1 recs.length ++ b1 (recordsSize recs)
      ++ (recs.map recordBytes).flatten)

/-- The end frame of a session (R137, 12.9). -/
def endFrame (own : Byte) (i : SessionId) (x : Session) (why : EndReason) : Bytes :=
  ownFrame own x.station 123
    (b1 (sessionNumber i) ++ b1 2 ++ b1 (endReasonCode why) ++ be6 x.point ++ be 4 x.delivered)

/-- The kind fields of a notice (12.9). -/
def eventBytes : Event → Bytes
  | .started cause => b1 (causeCode cause)
  | .triggered num source lost seq time first =>
    be 2 num ++ b1 (trigSourceCode source) ++ bBool lost ++ be6 seq ++ beTime time ++ be6 first
  | .triggerRefused source seq entries => b1 (trigSourceCode source) ++ be6 seq ++ b1 entries
  | .recordingKept num reason first last blocks =>
    be 2 num ++ b1 (closeReasonCode reason) ++ be6 first ++ be6 last ++ b1 blocks
  | .captureLoss time nextSeq => beTime time ++ be6 nextSeq
  | .logFull held retired => be 2 held ++ b1 retired
  | .logResumed seq => be6 seq
  | .blockRetired block cause size => be 2 block ++ b1 (retireCauseCode cause) ++ b1 size
  | .storeFault cause => b1 (faultCauseCode cause)
  | .captureStopped run reason => be 2 run ++ b1 (match reason with
    | none => 0
    | some r => stopReasonCode r)

/-- A notice frame (R176, 12.9). -/
def noticeFrame (own : Byte) (n : NoticeUnit) (x : Notice) : Bytes :=
  ownFrame own n.settings.station 126
    (be 2 x.num ++ b1 (eventCode x.event) ++ b1 (n.attempts + 1) ++ be 2 n.overflow ++ eventBytes x.event)

/-! ### Result fields (12.4, 12.6 to 12.8) -/

/-- A rule entry in the parameter layout, with its index (12.6); an absent test gives zeros (R17). -/
def ruleBytes (index : Nat) (r : Rule) : Bytes :=
  b1 index ++ b1 (ruleStateCode r.state) ++ b1 (ruleDirCode r.dir) ++ b1 (frameKindCode r.kind)
    ++ [r.destValue, r.destMask, r.srcValue, r.srcMask]
    ++ b1 r.classLow ++ b1 r.classHigh ++ b1 r.lenMin ++ b1 r.lenMax
    ++ (match r.test with
      | none => b1 0 ++ b1 0 ++ b1 0 ++ be 4 0 ++ be 4 0 ++ b1 0
      | some t => b1 1 ++ b1 t.offset ++ b1 t.length ++ be 4 t.value.toNat ++ be 4 t.mask.toNat
          ++ b1 (senseCode t.sense))
    ++ b1 (actionCode r.action) ++ b1 r.snap

/-- The nine counters of a port, in the order of R155. -/
def portCounterList (c : PortCounters) : List Nat :=
  [c.rxGood, c.rxCheck, c.rxLength, c.rxRunt, c.rxOverlong, c.sent, c.queueFull, c.relayDown, c.localDown]

/-- The 34 counters in the order of 12.8. -/
def counterList (s : State) : List Nat :=
  portCounterList s.portA.counters ++ portCounterList s.portB.counters
    ++ [s.cls.defaultHits, s.packer.recordsPacked, s.packer.capturesLost,
        s.log.pagesCommitted, s.log.programFailures, s.log.eraseFailures,
        s.ctl.taken, s.ctl.ignored, s.ctl.refused, s.jrnl.dirFailures, s.jrnl.profFailures,
        s.mgmt.discarded, s.mgmt.denied, s.mgmt.duplicates, s.notice.dropped, s.notice.discarded]

/-- The result of READ-COUNTERS (R167). -/
def countersResult (s : State) : Bytes := ((counterList s).map (be 4)).flatten

/-- The result of DISCOVER for a requester (R165). -/
def discoverResult (s : State) (src : Byte) : Bytes :=
  [s.seqr.own] ++ be 2 Config.productId ++ b1 Config.revision ++ b1 (partCode s.seqr.part)
    ++ b1 (causeCode s.seqr.cause) ++ b1 s.mgmt.managers.length
    ++ bBool (decide (s.mgmt.managers = []) || s.mgmt.managers.contains src)

/-- Per-port values of READ-STATUS (R155, 12.7). -/
def portStatus (p : PortState) : Bytes :=
  bBool p.up ++ b1 p.relayQ.length ++ b1 p.localQ.length ++ b1 p.waiting.length

/-- Values of a session slot in READ-STATUS; a FREE slot reports zeros (12.7). -/
def sessionStatus (x : Session) : Bytes :=
  if x.state = .free then b1 0 ++ b1 0 ++ be 2 0 ++ b1 0 ++ be 6 0 ++ be 4 0
  else b1 (sessStateCode x.state) ++ [x.station] ++ be 2 x.source ++ b1 x.credit ++ be6 x.point ++ be 4 x.delivered

/-- One bit of the waiting-slot byte. -/
def slotBit (x : Option ArrayReq) (bit : Nat) : Nat :=
  match x with
  | none => 0
  | some _ => bit

/-- Occupancy of the six waiting slots, bits 0 to 5 (12.7). -/
def slotBits (a : ArrayCtl) : Nat :=
  slotBit a.journal 1 + slotBit a.logWriter 2 + slotBit a.eraseAhead 4 + slotBit a.session1 8
    + slotBit a.session2 16 + slotBit a.sequencer 32

/-- The block of erase-ahead, 0 when none (12.7). -/
def aheadBlock : EraseAhead → Nat
  | .none => 0
  | .prepared b => b
  | .underWay b => b

/-- The result of READ-STATUS, 131 bytes (R166, 12.7). -/
def statusResult (s : State) : Bytes :=
  b1 (partCode s.seqr.part) ++ b1 (causeCode s.seqr.cause) ++ b1 s.seqr.phase
    ++ b1 (mgmtCode s.mgmt) ++ b1 s.mgmt.queue.length ++ b1 s.mgmt.cache.length ++ b1 s.mgmt.managers.length
    ++ (s.mgmt.managers ++ [0, 0, 0, 0]).take 4
    ++ portStatus s.portA ++ portStatus s.portB
    ++ b1 (bufCode s.packer.sb0.state) ++ b1 (bufCode s.packer.sb1.state) ++ b1 s.packer.slot.length
    ++ be6 s.packer.nextSeq ++ beTime s.packer.timeBase ++ be 4 s.packer.tallyCount
    ++ b1 (arrayCode s.arr)
    ++ (match s.arr.suspended with
      | none => be 2 0 ++ b1 0
      | some e => be 2 e.block ++ b1 e.count)
    ++ b1 (slotBits s.arr)
    ++ b1 (conditionCode s.log.condition) ++ be 2 (s.log.active.getD 0) ++ b1 s.log.nextPage
    ++ be 2 (aheadBlock s.log.ahead) ++ b1 (aheadCode s.log.ahead) ++ b1 s.log.retired.length
    ++ be 2 s.log.history.length ++ be6 ((oldestAvailable s.log).getD 0) ++ be6 s.log.lastCommitted
    ++ b1 (captureStateCode s.ctl.state) ++ b1 (targetCode s.ctl.target) ++ be 2 s.ctl.lastRun
    ++ be6 s.ctl.runOrigin ++ bBool s.ctl.holdoffTimer.isSome
    ++ be 2 ((openEntry s.dir).elim 0 Entry.num) ++ b1 s.dir.entries.length
    ++ b1 (journalStateCode s.jrnl.state) ++ b1 (s.jrnl.cur.getD 255) ++ b1 s.jrnl.nextPage
    ++ b1 s.jrnl.jobs.length ++ b1 (s.jrnl.validBlock.getD 0) ++ be 4 s.jrnl.generation
    ++ sessionStatus s.ret.s1 ++ sessionStatus s.ret.s2
    ++ [s.notice.settings.station] ++ b1 (portCode s.notice.settings.port)
    ++ be 2 s.notice.settings.enable.toNat ++ be 2 s.notice.settings.retry
    ++ b1 s.notice.queue.length ++ be 2 (s.notice.queue.head?.elim 0 Notice.num) ++ b1 (headCode s.notice)
    ++ b1 (if s.notice.queue = [] then 0 else s.notice.attempts)
    ++ be 2 s.notice.nextNumber ++ be 2 s.notice.overflow

/-- A summary of LIST-RECORDINGS (R103, 12.4). -/
def entrySummary (e : Entry) : Bytes :=
  be 2 e.num ++ b1 (recStateCode e.state) ++ b1 (closeReasonCode e.reason) ++ be6 e.first
    ++ be6 (e.last.getD 0) ++ b1 e.blocks.length ++ b1 e.sessions

/-- The result of LIST-RECORDINGS (R103). -/
def listResult (d : Directory) : Bytes :=
  b1 d.entries.length ++ ((sortedEntries d).map entrySummary).flatten

/-- The result of READ-RECORDING (R104, 12.4). -/
def entryResult (e : Entry) : Bytes :=
  be 2 e.num ++ b1 (recStateCode e.state) ++ b1 (trigSourceCode e.source) ++ bBool e.trigLost ++ beTime e.trigTime
    ++ be6 e.trigSeq ++ be6 e.first ++ be6 (e.last.getD 0) ++ b1 (closeReasonCode e.reason) ++ b1 e.sessions
    ++ b1 e.blocks.length ++ (e.blocks.map (be 2)).flatten

end Sys2Proof.Machine
end

