-- ==== Sys2Proof/Machine/Operands.lean ====
section
/-! DEFINITION. The operands of requests: request codes and parameter lengths (12.4), rule entries (12.6, R15),
capture settings (R85), notify settings (R174) and the ranges of a saved profile (R120). -/

namespace Sys2Proof.Machine

/-! ### Request codes (12.4) -/

def codeDiscover : Byte := 0x01
def codeReadStatus : Byte := 0x02
def codeReadCounters : Byte := 0x03
def codeClearCounters : Byte := 0x04
def codeSetManagers : Byte := 0x05
def codeRestart : Byte := 0x06
def codeWriteRule : Byte := 0x10
def codeReadRule : Byte := 0x11
def codeEnableRule : Byte := 0x12
def codeDisableRule : Byte := 0x13
def codeClearRule : Byte := 0x14
def codeClearHits : Byte := 0x15
def codeSetDefaultAction : Byte := 0x16
def codeFlush : Byte := 0x20
def codeSetTime : Byte := 0x21
def codeSetCapture : Byte := 0x30
def codeStartCapture : Byte := 0x31
def codeStopCapture : Byte := 0x32
def codeForceTrigger : Byte := 0x33
def codeListRecordings : Byte := 0x34
def codeReadRecording : Byte := 0x35
def codeReleaseRecording : Byte := 0x36
def codeFreezeRecording : Byte := 0x37
def codeSaveProfile : Byte := 0x40
def codeClearProfile : Byte := 0x41
def codeOpenRetrieval : Byte := 0x50
def codeGrantCredit : Byte := 0x51
def codeCloseRetrieval : Byte := 0x52
def codeSetNotify : Byte := 0x60
def codeAckNotice : Byte := 0x61

/-- Parameter length of every request code of the catalogue, none for any other code (R194, 12.4). -/
def paramLength (code : Byte) : Option Nat :=
  match code.toNat with
  | 0x01 => some 0
  | 0x02 => some 0
  | 0x03 => some 0
  | 0x04 => some 0
  | 0x05 => some 5
  | 0x06 => some 0
  | 0x10 => some 26
  | 0x11 => some 1
  | 0x12 => some 1
  | 0x13 => some 1
  | 0x14 => some 1
  | 0x15 => some 1
  | 0x16 => some 1
  | 0x20 => some 0
  | 0x21 => some 4
  | 0x30 => some 12
  | 0x31 => some 0
  | 0x32 => some 0
  | 0x33 => some 0
  | 0x34 => some 0
  | 0x35 => some 2
  | 0x36 => some 2
  | 0x37 => some 2
  | 0x40 => some 0
  | 0x41 => some 0
  | 0x50 => some 14
  | 0x51 => some 2
  | 0x52 => some 1
  | 0x60 => some 5
  | 0x61 => some 2
  | _ => none

/-! ### Rule entries -/

def ruleStateOf : Nat → Option RuleState
  | 1 => some .enabled
  | 2 => some .disabled
  | _ => none

def ruleDirOf : Nat → Option RuleDir
  | 0 => some .aToB
  | 1 => some .bToA
  | 2 => some .either
  | _ => none

def frameKindOf : Nat → Option FrameKind
  | 0 => some .good
  | 1 => some .error
  | 2 => some .any
  | _ => none

def actionOf : Nat → Option Action
  | 0 => some .pass
  | 1 => some .capture
  | 2 => some .trigger
  | 3 => some .triggerOnly
  | _ => none

def senseOf : Nat → Option Sense
  | 0 => some .equal
  | 1 => some .notEqual
  | _ => none

/-- ON or OFF, set or clear (12.5). -/
def onOffOf : Nat → Option Bool
  | 0 => some false
  | 1 => some true
  | _ => none

/-- The checks of R15 on a payload test. -/
def testValid (t : PayloadTest) : Bool :=
  decide (t.offset ≤ 239) && decide (1 ≤ t.length) && decide (t.length ≤ 4) && decide (t.offset + t.length ≤ 240)
    && decide (t.value.toNat < 256 ^ t.length) && decide (t.mask.toNat < 256 ^ t.length)

/-- The range checks of R15 on an entry definition. -/
def ruleValid (r : Rule) : Bool :=
  decide (r.classLow ≤ r.classHigh) && decide (r.classHigh ≤ 255) && decide (r.lenMin ≤ r.lenMax)
    && decide (r.lenMax ≤ 240) && decide (r.snap ≤ 200)
    && (match r.test with
      | none => true
      | some t => testValid t)

/-- The payload test of a rule definition: absent, present, or not one of the enumerated values (R15). When it is
absent its five fields are not read (R194). -/
def readTest (ps : Bytes) : Option (Option PayloadTest) :=
  match fieldAt 12 1 ps with
  | 0 => some none
  | 1 =>
    match senseOf (fieldAt 23 1 ps) with
    | none => none
    | some sense =>
      some (some
        { offset := fieldAt 13 1 ps, length := fieldAt 14 1 ps, value := BitVec.ofNat 32 (fieldAt 15 4 ps),
          mask := BitVec.ofNat 32 (fieldAt 19 4 ps), sense := sense })
  | _ => none

/-- The entry definition that WRITE-RULE carries, none when a check of R15 fails (12.6). -/
def readRuleEntry (ps : Bytes) : Option Rule :=
  match ruleStateOf (fieldAt 1 1 ps), ruleDirOf (fieldAt 2 1 ps), frameKindOf (fieldAt 3 1 ps), readTest ps,
      actionOf (fieldAt 24 1 ps) with
  | some state, some dir, some kind, some test, some action =>
    let r : Rule :=
      { state := state, dir := dir, kind := kind, destValue := byteAt ps 4, destMask := byteAt ps 5,
        srcValue := byteAt ps 6, srcMask := byteAt ps 7, classLow := fieldAt 8 1 ps, classHigh := fieldAt 9 1 ps,
        lenMin := fieldAt 10 1 ps, lenMax := fieldAt 11 1 ps, test := test, action := action,
        snap := fieldAt 25 1 ps, hits := 0 }
    if ruleValid r then some r else none
  | _, _, _, _, _ => none

/-! ### Settings -/

/-- The ranges of the capture settings (R84). -/
def settingsValid (x : Settings) : Bool :=
  decide (x.window ≤ 16) && decide (1 ≤ x.postCount) && decide (x.postCount ≤ 1048575)
    && decide (x.postTime ≤ 65535) && decide (x.holdoff ≤ 65535) && decide (x.flush ≤ 1000)

/-- The settings that SET-CAPTURE carries, none when a value fails its check (R85, 12.4). -/
def readSettings (ps : Bytes) : Option Settings :=
  match onOffOf (fieldAt 8 1 ps), onOffOf (fieldAt 11 1 ps) with
  | some rearm, some autostart =>
    let x : Settings :=
      { window := fieldAt 0 1 ps, postCount := fieldAt 1 3 ps, postTime := fieldAt 4 2 ps,
        holdoff := fieldAt 6 2 ps, rearm := rearm, flush := fieldAt 9 2 ps, autostart := autostart }
    if settingsValid x then some x else none
  | _, _ => none

/-- The ranges of the notify settings (R173). -/
def notifyValid (x : NotifySettings) : Bool :=
  decide (x.station.toNat ≤ 250) && decide (100 ≤ x.retry) && decide (x.retry ≤ 10000)

/-- The settings that SET-NOTIFY carries from a port, none when a value fails its check (R174, 12.4). -/
def readNotify (ps : Bytes) (p : Port) : Option NotifySettings :=
  if fieldAt 1 2 ps ≤ 1023 then
    let x : NotifySettings :=
      { station := byteAt ps 0, port := p, enable := BitVec.ofNat 10 (fieldAt 1 2 ps),
        retry := fieldAt 3 2 ps }
    if notifyValid x then some x else none
  else none

/-- The stations that SET-MANAGERS uses (R164). -/
def usedStations (ps : Bytes) : Bytes := slice 1 (fieldAt 0 1 ps) ps

/-- No station stands twice. -/
def noRepeats : List Byte → Bool
  | [] => true
  | x :: xs => !xs.contains x && noRepeats xs

/-- A list that the Manager List may hold (R164). -/
def managersValid (ms : List Byte) : Bool := decide (ms.length ≤ 4) && ms.all isStation && noRepeats ms

/-- The checks of SET-MANAGERS for a requester (R164). -/
def setManagersValid (ps : Bytes) (src : Byte) : Bool :=
  decide (fieldAt 0 1 ps ≤ 4) && (usedStations ps).all isStation && noRepeats (usedStations ps)
    && (decide (fieldAt 0 1 ps = 0) || (usedStations ps).contains src)

/-! ### The saved profile (R120) -/

/-- An entry as a profile may hold it: in range, and in the cleared form when UNUSED (R120). -/
def profileRuleValid (r : Rule) : Bool :=
  ruleValid r && decide (r.hits = 0) && (decide (r.state ≠ .unused) || decide (r = Rule.cleared))

/-- The default action is PASS or CAPTURE (R22). -/
def defaultValid (a : Action) : Bool := decide (a = .pass) || decide (a = .capture)

/-- Every value of a profile lies in the range that its own request would accept (R120). -/
def profileValid (p : Profile) : Bool :=
  settingsValid p.settings && defaultValid p.dflt && managersValid p.managers && notifyValid p.notify
    && decide (p.rules.length = Config.ruleCount) && p.rules.all profileRuleValid

/-- The valid profile that two page reads of a Profile Area block give, with its generation (R120). -/
def readProfile (r0 r1 : ReadResult) : Option (Nat × Profile) :=
  match r0, r1 with
  | .committed h0 _ (.profile0 g0 settings dflt managers notify), .committed h1 _ (.profile1 g1 rules) =>
    let p : Profile := { settings := settings, dflt := dflt, managers := managers, notify := notify, rules := rules }
    if h0.kind = .profile ∧ h1.kind = .profile ∧ g0 = g1 ∧ g0 ≠ 0 ∧ profileValid p then some (g0, p) else none
  | _, _ => none

end Sys2Proof.Machine
end

