-- ==== Sys2Proof/Machine/Relay.lean ====
section
/-! DEFINITION. The link ports and the Relay (08): receive outcomes, relay and local queues, waiting lists, the
transmit arbiter. The operations work on one port's state. -/

namespace Sys2Proof.Machine

/-! ### Reception (8.2, 8.3) -/

/-- The receive outcome of the bytes received; the first test that applies gives it (R143). -/
def receiveOutcome (bytes : Bytes) : RxOutcome :=
  let n := bytes.length
  if n < 7 then .runt
  else if Config.frameKept < n then .overlong
  else if (crc16 (bytes.take (n - 2))).toNat ≠ fieldAt (n - 2) 2 bytes then .check
  else if n ≠ 7 + fieldAt 4 1 bytes then .length
  else .good

/-- The receive counter of an outcome rises by 1 (R142, R155). -/
def countReceived (c : PortCounters) : RxOutcome → PortCounters
  | .good => { c with rxGood := bump c.rxGood }
  | .check => { c with rxCheck := bump c.rxCheck }
  | .length => { c with rxLength := bump c.rxLength }
  | .runt => { c with rxRunt := bump c.rxRunt }
  | .overlong => { c with rxOverlong := bump c.rxOverlong }

/-- First byte the own address and third byte 124 (R144, R145). -/
def toPart (own : Byte) (bytes : Bytes) : Bool :=
  decide (byteAt bytes 0 = own) && decide (byteAt bytes 2 = 124)

/-- First byte 255 and third byte 124 (R144). -/
def isBroadcastRequest (bytes : Bytes) : Bool :=
  decide (byteAt bytes 0 = 255) && decide (byteAt bytes 2 = 124)

/-- The frame goes to the relay queue toward the far port (R144, R145). -/
def goesToRelay (own : Byte) (o : RxOutcome) (bytes : Bytes) : Bool :=
  match o with
  | .good => !toPart own bytes
  | .check => !toPart own bytes
  | .length => !toPart own bytes
  | .runt => false
  | .overlong => false

/-- The frame goes to the Management Unit (R144). -/
def goesToManagement (own : Byte) (o : RxOutcome) (bytes : Bytes) : Bool :=
  decide (o = .good) && (toPart own bytes || isBroadcastRequest bytes)

/-- The frame goes to the classifier: all but a request to the part (R3, R144). -/
def goesToClassifier (own : Byte) (o : RxOutcome) (bytes : Bytes) : Bool :=
  !(decide (o = .good) && toPart own bytes)

/-! ### Transmission (8.6) -/

/-- The bytes of a local frame on the line, its check appended (R150). -/
def localOnLine (f : LocalFrame) : Transmission := { bytes := withCheck f.bytes, origin := some f }

/-- The arbiter's choice when the transmitter is free and the port is UP; the frame chosen leaves its queue
(R149, R150). -/
def startFrame (p : PortState) : PortState :=
  if p.up = true ∧ p.tx = none then
    match p.relayQ, p.localQ with
    | [], [] => p
    | r :: rest, [] => { p with tx := some { bytes := r, origin := none }, relayQ := rest, fair := 0 }
    | [], l :: ls => { p with tx := some (localOnLine l), localQ := ls, fair := 0 }
    | r :: rest, l :: ls =>
      if p.fair < 4 then
        { p with tx := some { bytes := r, origin := none }, relayQ := rest, fair := p.fair + 1 }
      else { p with tx := some (localOnLine l), localQ := ls, fair := 0 }
  else p

/-- A free place of the local queue goes to the head of the waiting list, which is then told (R147). -/
def refill (p : PortState) : PortState × Option Waiter :=
  if p.localQ.length < Config.localPlaces then
    match p.waiting with
    | [] => (p, none)
    | w :: ws => ({ p with localQ := p.localQ ++ [w.frame], waiting := ws }, some w)
  else (p, none)

/-- A relay queue takes the offer of a frame (R146); the transmitter starts when it is free (R149). -/
def relayTake (p : PortState) (bytes : Bytes) : PortState :=
  if p.up = false then { p with counters := { p.counters with relayDown := bump p.counters.relayDown } }
  else if p.relayQ.length < Config.relayPlaces then startFrame { p with relayQ := p.relayQ ++ [bytes] }
  else { p with counters := { p.counters with queueFull := bump p.counters.queueFull } }

/-- What becomes of a local frame at its offer (R147). -/
inductive Verdict where
  | entered
  | waits
  | discarded
  deriving DecidableEq, Repr

/-- A local queue takes the offer of a frame (R147). -/
def localTake (p : PortState) (f : LocalFrame) : PortState × Verdict :=
  if p.up = false then
    ({ p with counters := { p.counters with localDown := bump p.counters.localDown } }, .discarded)
  else if p.localQ.length < Config.localPlaces then (startFrame { p with localQ := p.localQ ++ [f] }, .entered)
  else ({ p with waiting := p.waiting ++ [{ frame := f, withdrawn := false }] }, .waits)

/-- A producer offers a frame to the Local Queue of a port; a discard is reported to it as an ending (R147, R152).
The answer also gives the frame's number. -/
def offerLocal (port : Port) (who : Producer) (bytes : Bytes) (s : State) : State × Verdict × Nat :=
  let f : LocalFrame := { who := who, serial := s.serial, bytes := bytes }
  let r := localTake (s.port port) f
  let s1 := (s.setSerial (s.serial + 1)).setPort port r.1
  match r.2 with
  | .entered => (s1, .entered, f.serial)
  | .waits => (s1, .waits, f.serial)
  | .discarded => (raiseEnding port f false s1, .discarded, f.serial)

/-- A producer has a frame in a port's waiting list (R147). -/
def isWaiting (port : Port) (who : Producer) (s : State) : Bool :=
  (s.port port).waiting.any (fun w => decide (w.frame.who = who))

/-- A producer withdraws its waiting frame: the place is marked until the Relay takes the withdrawal
(R148; log 18). -/
def withdraw (port : Port) (who : Producer) (s : State) : State :=
  let p := s.port port
  s.setPort port { p with
    waiting := p.waiting.map (fun w => if w.frame.who = who then { w with withdrawn := true } else w) }

/-- The Relay takes a withdrawal: the producer leaves the waiting list and its frame is discarded (R148). -/
def takeWithdrawal (p : PortState) (who : Producer) : Option PortState :=
  match takeFirst (fun w : Waiter => decide (w.frame.who = who) && w.withdrawn) p.waiting with
  | none => none
  | some (_, ws) => some { p with waiting := ws }

/-- The transmitter becomes free at the end of a frame, which is counted (R150). -/
def finishFrame (p : PortState) : PortState :=
  { p with tx := none, counters := { p.counters with sent := bump p.counters.sent } }

/-! ### Link loss (8.6, 8.7) -/

/-- The local frames that a LINK DOWN discards: the one in transmission, the local queue, the waiting list
(R151). -/
def cutFrames (p : PortState) : List LocalFrame :=
  (match p.tx with
    | none => []
    | some t => match t.origin with
      | none => []
      | some f => [f])
    ++ p.localQ ++ p.waiting.map Waiter.frame

/-- Relayed frames that a LINK DOWN discards: the one in transmission and the relay queue (R151). -/
def cutRelayed (p : PortState) : Nat :=
  (match p.tx with
    | none => 0
    | some t => match t.origin with
      | none => 1
      | some _ => 0)
    + p.relayQ.length

/-- LINK DOWN at a port: its queues and waiting list are emptied, a frame in transmission is cut short, the
discards are counted, reception is abandoned (R142, R151). -/
def portDown (p : PortState) : PortState :=
  { p with
    up := false, receiving := false, relayQ := [], localQ := [], waiting := [], tx := none, fair := 0,
    counters := { p.counters with
      relayDown := bumpBy (cutRelayed p) p.counters.relayDown,
      localDown := bumpBy (cutFrames p).length p.counters.localDown } }

/-- LINK UP at a port (R153). -/
def portUp (p : PortState) : PortState := { p with up := true, fair := 0 }

end Sys2Proof.Machine
end

