-- ==== Sys2Proof/Machine/Array.lean ====
section
/-! DEFINITION. The Page Array and the Array Controller (03). -/

namespace Sys2Proof.Machine

/-! ### The checks of a page (R44) -/

/-- The data bytes of a page: a LOG page holds its records in placing order (3.2, 12.10; the other kinds, log 7). -/
def pageBytes : PageData → Bytes
  | .log recs => (recs.map recordBytes).flatten
  | d => Config.internalBytes d

/-- The checks that the controller computes for a program: over the data bytes, and over the header fields with the
data check (R44). -/
def computedChecks (h : PageHeader) (d : PageData) : PageChecks :=
  let data := crc16 (pageBytes d)
  { data := data, header := crc16 (Config.headerBytes h data) }

/-- The checks that stand on a page (R44; log 7). -/
def storedChecks (x : Page) : PageChecks :=
  let data := crc16 (pageBytes x.data) ^^^ x.dataFlaw
  { data := data, header := crc16 (Config.headerBytes x.header data) ^^^ x.headerFlaw }

/-! ### What operations do to pages -/

/-- How a READ PAGE classifies a page, and what it returns (R44, R45): a stored check that differs from the computed
one fails. -/
def readPage (store : List (Nat × Page)) (block page : Nat) : ReadResult :=
  match pageAt store block page with
  | none => .blank
  | some x =>
    if x.mark ≠ .present ∨ x.headerFlaw ≠ 0 then .uncommitted
    else if x.dataFlaw ≠ 0 then .corrupt x.header (storedChecks x)
    else .committed x.header (storedChecks x) x.data

/-- The commit mark of a page that is not BLANK is cancelled (3.5). -/
def cancelMark (store : List (Nat × Page)) (block page : Nat) : List (Nat × Page) :=
  match pageAt store block page with
  | none => store
  | some x => setPage store block page (some { x with mark := .cancelled })

/-- Marks cancelled from page 0 up to below page `n`, in rising order (3.5). -/
def cancelMarks (block : Nat) : Nat → List (Nat × Page) → List (Nat × Page)
  | 0, store => store
  | n + 1, store => cancelMark (cancelMarks block n store) block n

/-- What stands on a page that an erase has damaged: by its mark it reads UNCOMMITTED, and nothing else of it is ever
returned (R50; log 7). -/
def damagedPage : Page :=
  { mark := .cancelled, headerFlaw := 0, dataFlaw := 0,
    header := { kind := .log, pageSeq := 0, run := 0, capturing := 0, firstSeq := 0, count := 0, used := 0 },
    data := .log [] }

/-- Pages below `n` of a block whose erase stopped in its second stage: BLANK where the bit of the page is set,
UNCOMMITTED elsewhere (R50, R59). -/
def partlyErased (block : Nat) (blank : BitVec 16) : Nat → List (Nat × Page) → List (Nat × Page)
  | 0, store => store
  | n + 1, store =>
    setPage (partlyErased block blank n store) block n (if blank.getLsbD n then none else some damagedPage)

/-- Pages below `n` of a block erased (R49). -/
def erasePages (block : Nat) : Nat → List (Nat × Page) → List (Nat × Page)
  | 0, store => store
  | n + 1, store => setPage (erasePages block n store) block n none

/-- The store after an ERASE BLOCK, and whether it returned ERASED (R49, R50). Page 0 was cancelled when the erase
started, so the page whose cancellation failed lies above it. A cancellation that is said to have failed at a BLANK page,
which the first stage passes over, ends the erase FAILED as at any other page (DESIGN CHOICE, log 32). -/
def eraseBlock (store : List (Nat × Page)) (block : Nat) : EraseEnd → List (Nat × Page) × Bool
  | .erased => (erasePages block 16 store, true)
  | .cancelFailed k => (cancelMarks block (min k 16) (cancelMark store block 0), false)
  | .eraseFailed blank => (partlyErased block blank 16 store, false)

/-- A page as a program that succeeds leaves it, its stored checks the computed ones (R44, R47). -/
def writtenPage (h : PageHeader) (d : PageData) : Page :=
  { mark := .present, headerFlaw := 0, dataFlaw := 0, header := h, data := d }

/-- The store after a PROGRAM PAGE, and whether it returned COMMITTED (R47, R48). A page that is not erased fails
the blank check, whatever else would have happened. After a later failure the page has no commit mark, and what was
written of it is never returned (log 7). -/
def programPage (store : List (Nat × Page)) (block page : Nat) (h : PageHeader) (d : PageData) :
    ProgramEnd → List (Nat × Page) × Bool
  | r =>
    match pageAt store block page with
    | some _ => (store, false)
    | none =>
      match r with
      | .committed => (setPage store block page (some (writtenPage h d)), true)
      | .failedBlank => (store, false)
      | .failedWrite => (setPage store block page (some { writtenPage h d with mark := .absent }), false)
      | .failedCommit => (setPage store block page (some { writtenPage h d with mark := .absent }), false)

/-- The store after a reset abandoned a program (R59). -/
def cutProgram (store : List (Nat × Page)) (block page : Nat) (h : PageHeader) (d : PageData) (c : ProgramCut) :
    List (Nat × Page) :=
  match pageAt store block page with
  | some _ => store
  | none =>
    match c with
    | .unwritten => store
    | .partly => setPage store block page (some { writtenPage h d with mark := .absent })
    | .committed => setPage store block page (some (writtenPage h d))

/-- The store after a reset abandoned an erase whose first stage had reached `reached` pages (R59). -/
def cutErase (store : List (Nat × Page)) (block reached : Nat) (c : EraseCut) : List (Nat × Page) :=
  match c with
  | .firstStage n => cancelMarks block (min (max n reached) 16) store
  | .secondStage blank => partlyErased block blank 16 store

/-! ### Requests (R43, R46) -/

def blockOf : ArrayReq → Nat
  | .read b _ => b
  | .program b _ _ _ => b
  | .erase b => b

/-- A block of the Log Area (3.1). -/
def isLogBlock (b : Nat) : Bool := decide (Config.firstLogBlock ≤ b) && decide (b ≤ Config.lastLogBlock)

/-- The kind of page that belongs to a block's area (R43). -/
def kindOfBlock (b : Nat) : PageKind := if b ≤ 1 then .journal else if b ≤ 3 then .profile else .log

/-- The request lies in its requester's range, its page number is 15 or less, and the Kind of a program belongs to
the area of its block (R43). -/
def mayAsk : Requester → ArrayReq → Bool
  | .journal, .program b p h _ => decide (b ≤ 3) && decide (p ≤ 15) && decide (h.kind = kindOfBlock b)
  | .journal, .erase b => decide (b ≤ 3)
  | .journal, .read _ _ => false
  | .logWriter, .program b p h _ => isLogBlock b && decide (p ≤ 15) && decide (h.kind = .log)
  | .logWriter, .erase _ => false
  | .logWriter, .read _ _ => false
  | .eraseAhead, .erase b => isLogBlock b
  | .eraseAhead, .program _ _ _ _ => false
  | .eraseAhead, .read _ _ => false
  | .session _, .read b p => isLogBlock b && decide (p ≤ 15)
  | .session _, .program _ _ _ _ => false
  | .session _, .erase _ => false
  | .sequencer, .read b p => decide (b ≤ Config.lastLogBlock) && decide (p ≤ 15)
  | .sequencer, .program b p h _ =>
    decide (b ≤ Config.lastLogBlock) && decide (p ≤ 15) && decide (h.kind = kindOfBlock b)
  | .sequencer, .erase b => decide (b ≤ Config.lastLogBlock)

/-- The waiting slot of a requester (3.6). -/
def slotOf (a : ArrayCtl) : Requester → Option ArrayReq
  | .journal => a.journal
  | .logWriter => a.logWriter
  | .eraseAhead => a.eraseAhead
  | .session .one => a.session1
  | .session .two => a.session2
  | .sequencer => a.sequencer

/-- A waiting slot replaced. -/
def setSlot (a : ArrayCtl) (x : Option ArrayReq) : Requester → ArrayCtl
  | .journal => { a with journal := x }
  | .logWriter => { a with logWriter := x }
  | .eraseAhead => { a with eraseAhead := x }
  | .session .one => { a with session1 := x }
  | .session .two => { a with session2 := x }
  | .sequencer => { a with sequencer := x }

/-- The block is under a running erase. -/
def runningErase (a : ArrayCtl) (b : Nat) : Bool :=
  match a.running with
  | none => false
  | some r => match r.req with
    | .erase c => decide (c = b)
    | _ => false

/-- The block is under the suspended erase. -/
def suspendedErase (a : ArrayCtl) (b : Nat) : Bool :=
  match a.suspended with
  | none => false
  | some e => decide (e.block = b)

/-- A waiting request is an erase of the block. -/
def isEraseOf (b : Nat) : Option ArrayReq → Bool
  | some (.erase c) => decide (c = b)
  | _ => false

/-- A program of the block is held in its slot: the block's erase runs, is suspended or waits (R55). -/
def programHeld (a : ArrayCtl) (b : Nat) : Bool :=
  runningErase a b || suspendedErase a b || isEraseOf b a.journal || isEraseOf b a.eraseAhead
    || isEraseOf b a.sequencer

/-! ### Choosing the next operation (R53 to R57) -/

/-- A waiting program that may run. -/
def waitingProgram (a : ArrayCtl) : Option ArrayReq → Option ArrayReq
  | some (.program b p h d) => if programHeld a b then none else some (.program b p h d)
  | _ => none

/-- A waiting read that may run: not of the suspended erase's block (R53). -/
def waitingRead (a : ArrayCtl) : Option ArrayReq → Option ArrayReq
  | some (.read b p) => if suspendedErase a b then none else some (.read b p)
  | _ => none

/-- A waiting erase. -/
def waitingErase : Option ArrayReq → Option ArrayReq
  | some (.erase b) => some (.erase b)
  | _ => none

/-- The session read that is next: the session not served by the most recent session read when both wait
(R54). -/
def sessionChoice (a : ArrayCtl) : Option (SessionId × ArrayReq) :=
  match waitingRead a a.session1, waitingRead a a.session2 with
  | none, none => none
  | some r, none => some (.one, r)
  | none, some r => some (.two, r)
  | some r1, some r2 => match a.lastSession with
    | .one => some (.two, r2)
    | .two => some (.one, r1)

/-- What the controller does next. -/
inductive Choice where
  | idle
  | start (who : Requester) (req : ArrayReq)
  | resume (e : Suspended)
  deriving DecidableEq, Repr

/-- The choice among erases, when nothing of higher place waits (R53). -/
def eraseChoice (a : ArrayCtl) : Choice :=
  match waitingErase a.journal with
  | some r => .start .journal r
  | none => match waitingErase a.eraseAhead with
    | some r => .start .eraseAhead r
    | none => .idle

/-- The next operation in the order of R53; while MOUNTING the Sequencer's alone (R58). -/
def nextChoice (mounting : Bool) (a : ArrayCtl) : Choice :=
  if mounting then
    match a.sequencer with
    | some r => .start .sequencer r
    | none => .idle
  else
    match waitingProgram a a.journal with
    | some r => .start .journal r
    | none => match waitingProgram a a.logWriter with
      | some r => .start .logWriter r
      | none => match sessionChoice a with
        | some (i, r) => .start (.session i) r
        | none => match a.suspended with
          | some e => .resume e
          | none => eraseChoice a

/-- A request chosen to run leaves its slot and runs. An erase starts with the cancellation of page 0's mark
(R49); a session read makes its session the most recently served (R54). -/
def startRequest (who : Requester) (req : ArrayReq) (a : ArrayCtl) (store : List (Nat × Page)) :
    ArrayCtl × List (Nat × Page) :=
  let a1 := setSlot a none who
  match req with
  | .read _ _ =>
    ({ a1 with
        running := some { who := who, req := req, count := 0, reached := 0 },
        lastSession := match who with
          | .session i => i
          | _ => a1.lastSession }, store)
  | .program _ _ _ _ => ({ a1 with running := some { who := who, req := req, count := 0, reached := 0 } }, store)
  | .erase b =>
    ({ a1 with running := some { who := who, req := req, count := 0, reached := 1 } }, cancelMark store b 0)

/-- The suspended erase takes up where it stopped and keeps its suspend count (R57). -/
def resumeErase (e : Suspended) (a : ArrayCtl) : ArrayCtl :=
  { a with running := some { who := e.who, req := .erase e.block, count := e.count, reached := e.reached },
           suspended := none }

/-- The controller, with the array free, chooses and starts the next operation. An erase of a log block with a
hold does not start: it is returned HELD and the choice is made again (R51; log 11). -/
def chooseNext (mounting : Bool) (l : LogManager) : Nat → ArrayCtl → List (Nat × Page) → ArrayCtl × List (Nat × Page)
  | 0, a, store => (a, store)
  | n + 1, a, store =>
    match nextChoice mounting a with
    | .idle => (a, store)
    | .resume e => (resumeErase e a, store)
    | .start who req =>
      match req with
      | .erase b =>
        if isLogBlock b = true ∧ holdOf l b ≠ 0 then chooseNext mounting l n (setSlot a none who) store
        else startRequest who req a store
      | .read _ _ => startRequest who req a store
      | .program _ _ _ _ => startRequest who req a store

/-- The controller chooses when the array is free (R52, R53). -/
def arrayChoose (s : State) : State :=
  let r := chooseNext (decide (s.seqr.part = .mounting)) s.log 4 s.arr s.store
  (s.setArr r.1).setStore r.2

/-- A request that suspends the running erase: a read, or a program that may run, of another block, while the
erase's suspend count is below 8 (R56; log 10). -/
def suspends (a : ArrayCtl) (r : Running) (req : ArrayReq) : Bool :=
  match r.req with
  | .erase b =>
    match req with
    | .read c _ => decide (c ≠ b) && decide (r.count < Config.suspendMax)
    | .program c _ _ _ => decide (c ≠ b) && decide (r.count < Config.suspendMax) && !programHeld a c
    | .erase _ => false
  | _ => false

/-- What a requester learns at once when it hands in a request (R43, R46, R52). -/
inductive Taken where
  | accepted
  | refused
  | erasing
  deriving DecidableEq, Repr

/-- A READ PAGE of a block whose erase runs or is suspended (R46). -/
def readsErasing (a : ArrayCtl) : ArrayReq → Bool
  | .read b _ => runningErase a b || suspendedErase a b
  | _ => false

/-- The running erase becomes the suspended erase, its count one higher (R56). -/
def suspendRunning (a : ArrayCtl) (r : Running) : ArrayCtl :=
  { a with running := none,
           suspended := some { who := r.who, block := blockOf r.req, count := r.count + 1, reached := r.reached } }

/-- A requester hands in a request: it is answered at once, starts, suspends a running erase, or waits in its
slot (R43, R46, R52, R56, R58). -/
def arrayAsk (who : Requester) (req : ArrayReq) (s : State) : State × Taken :=
  if mayAsk who req = false then (s, .refused)
  else if readsErasing s.arr req then (s, .erasing)
  else
    let a := setSlot s.arr (some req) who
    match s.arr.running with
    | none => (arrayChoose (s.setArr a), .accepted)
    | some r =>
      if suspends s.arr r req = true ∧ s.seqr.part = .ready then
        (arrayChoose (s.setArr (suspendRunning a r)), .accepted)
      else (s.setArr a, .accepted)

/-- The running operation has ended: the array is free, and the next operation is chosen in the same happening
(R52; log 9). -/
def arrayFree (s : State) : State := arrayChoose (s.setArr { s.arr with running := none })

/-- A Log Writer program waits or runs at the Array Controller (R68). -/
def logProgramOut (a : ArrayCtl) : Bool :=
  a.logWriter.isSome || (match a.running with
    | none => false
    | some r => decide (r.who = .logWriter))

/-! ### Reset (R59) -/

/-- What a reset leaves of the operation in progress. -/
def abandonRunning (n : Nat) (store : List (Nat × Page)) : Option Running → List (Nat × Page)
  | none => store
  | some r => match r.req with
    | .read _ _ => store
    | .program b p h d => cutProgram store b p h d (Config.programCut n)
    | .erase b => cutErase store b r.reached (Config.eraseCut n)

/-- What a reset leaves of the suspended erase. -/
def abandonSuspended (n : Nat) (store : List (Nat × Page)) : Option Suspended → List (Nat × Page)
  | none => store
  | some e => cutErase store e.block e.reached (Config.eraseCut n)

/-- The Page Array after a reset of any cause (R59); the free values are those of the counter `free` and the one
after it. -/
def abandonOperations (s : State) : List (Nat × Page) :=
  abandonSuspended (s.free + 1) (abandonRunning s.free s.store s.arr.running) s.arr.suspended

/-- A reset of any cause begins: every block's volatile state is discarded (R181), operations of the array are
abandoned (R59), and the part is in RESET with the given own address. -/
def beginReset (cause : ResetCause) (own : Byte) (s : State) : State :=
  State.inReset s.pending (abandonOperations s) cause own s.serial (s.free + 2)

end Sys2Proof.Machine
end

