-- ==== Sys2Proof/Machine/Classify.lean ====
section
/-! DEFINITION. The Frame Classifier (01): matching, actions and the classification result. -/

namespace Sys2Proof.Machine

/-- The direction test (R7). -/
def dirMatches : RuleDir → Port → Bool
  | .aToB, .a => true
  | .aToB, .b => false
  | .bToA, .a => false
  | .bToA, .b => true
  | .either, _ => true

/-- The frame kind test (R7). -/
def kindMatches : FrameKind → RxOutcome → Bool
  | .good, o => decide (o = .good)
  | .error, o => decide (o ≠ .good)
  | .any, _ => true

/-- Agreement in every bit position where the mask has a one (R8). -/
def maskedByte (x value mask : Byte) : Bool := decide (x &&& mask = value &&& mask)

/-- The four header tests of a GOOD frame (R8). -/
def headerMatches (r : Rule) (bytes : Bytes) : Bool :=
  maskedByte (byteAt bytes 0) r.destValue r.destMask && maskedByte (byteAt bytes 1) r.srcValue r.srcMask
    && decide (r.classLow ≤ (byteAt bytes 2).toNat) && decide ((byteAt bytes 2).toNat ≤ r.classHigh)
    && decide (r.lenMin ≤ (byteAt bytes 4).toNat) && decide ((byteAt bytes 4).toNat ≤ r.lenMax)

/-- The payload of a GOOD frame: the bytes between the header and the check (12.2). -/
def payloadOf (bytes : Bytes) : Bytes := slice 5 (byteAt bytes 4).toNat bytes

/-- The payload test of a GOOD frame; a payload too short for the tested bytes fails it (R9). -/
def testMatches (t : PayloadTest) (bytes : Bytes) : Bool :=
  if (byteAt bytes 4).toNat < t.offset + t.length then false
  else
    let x := BitVec.ofNat 32 (fieldAt t.offset t.length (payloadOf bytes))
    match t.sense with
    | .equal => decide (x &&& t.mask = t.value &&& t.mask)
    | .notEqual => decide (x &&& t.mask ≠ t.value &&& t.mask)

/-- An entry matches a frame (R1, R5, R7 to R10). -/
def ruleMatches (r : Rule) (p : Port) (d : Delivered) : Bool :=
  decide (r.state = .enabled) && dirMatches r.dir p && kindMatches r.kind d.outcome
    && (decide (d.outcome ≠ .good)
        || (headerMatches r d.bytes && (match r.test with
          | none => true
          | some t => testMatches t d.bytes)))

/-- The first entry from `i` on that matches (R5). -/
def firstMatch (p : Port) (d : Delivered) : Nat → List Rule → Option (Nat × Rule)
  | _, [] => none
  | i, r :: rest => if ruleMatches r p d then some (i, r) else firstMatch p d (i + 1) rest

/-- Captured bytes under a snap length: of a GOOD frame the header and the first payload bytes (R12), of an error
frame the first 205 bytes (R13). -/
def captureOf (snap : Nat) (d : Delivered) : Captured :=
  match d.outcome with
  | .good =>
    { bytes := d.bytes.take 5 ++ (payloadOf d.bytes).take snap,
      truncated := decide (snap < (byteAt d.bytes 4).toNat) }
  | _ => { bytes := d.bytes.take 205, truncated := decide (205 < d.count) }

/-- What an action produces: a capture request and a trigger mark (R11). -/
def actionResult (a : Action) (snap : Nat) (d : Delivered) : Option Captured × Bool :=
  match a with
  | .pass => (none, false)
  | .capture => (some (captureOf snap d), false)
  | .trigger => (some (captureOf snap d), true)
  | .triggerOnly => (none, true)

/-- The hit count of the entry at an index rises by 1 (R5). -/
def hitRule (c : Classifier) (i : Nat) : Classifier :=
  match c.rules[i]? with
  | none => c
  | some r => { c with rules := c.rules.set i { r with hits := bump r.hits } }

/-- The original frame length of a result: the number received, 247 for an OVERLONG frame (R11). -/
def origLength (d : Delivered) : Nat := if d.outcome = .overlong then Config.frameKept else d.count

/-- Classification of one frame at a time: the match or the default action, the hit counted, and the result
(R4 to R6, R11). -/
def classify (c : Classifier) (p : Port) (d : Delivered) (now : Time) : Classifier × Result :=
  match firstMatch p d 0 c.rules with
  | some (i, r) =>
    let x := actionResult r.action r.snap d
    (hitRule c i,
      { dir := p, outcome := d.outcome, rule := i, time := now, origLen := origLength d, capture := x.1,
        mark := x.2, mounting := d.mounting })
  | none =>
    let x := actionResult c.dflt 200 d
    ({ c with defaultHits := bump c.defaultHits },
      { dir := p, outcome := d.outcome, rule := 255, time := now, origLen := origLength d, capture := x.1,
        mark := x.2, mounting := d.mounting })

/-- One entry replaced (R16). -/
def setRule (c : Classifier) (i : Nat) (r : Rule) : Classifier := { c with rules := c.rules.set i r }

/-- The entry at an index, the cleared form where there is none. -/
def ruleAt (c : Classifier) (i : Nat) : Rule := c.rules.getD i Rule.cleared

/-- A hit count set to 0 (R21). -/
def clearHit (r : Rule) : Rule := { r with hits := 0 }

/-- The entries and default action of a profile installed, every hit count 0 (R2). -/
def installRules (c : Classifier) (p : Profile) : Classifier :=
  { c with rules := p.rules.map clearHit, dflt := p.dflt }

end Sys2Proof.Machine
end

