-- ==== Sys2Proof/Machine/Packing.lean ====
section
/-! DEFINITION. The Capture Packer (02): records, the two staging buffers, the Control Slot, loss and GAP records.
The operations work on the Packer alone; the flush interval in force is an argument (R38, R84). -/

namespace Sys2Proof.Machine

/-- The last sequence that a FRAME, GAP, RUN_START or TIME_SET record may take (R25). -/
def ordinaryMax : Nat := sequenceMax - 1

/-! ### Buffers -/

/-- A staging buffer. -/
def getBuf (p : Packer) : BufId → Buffer
  | .sb0 => p.sb0
  | .sb1 => p.sb1

/-- A staging buffer replaced. -/
def setBuf (p : Packer) (x : Buffer) : BufId → Packer
  | .sb0 => { p with sb0 := x }
  | .sb1 => { p with sb1 := x }

/-- The first buffer in a state, SB0 before SB1 (R30). -/
def bufIn (p : Packer) (st : BufState) : Option BufId :=
  if p.sb0.state = st then some .sb0 else if p.sb1.state = st then some .sb1 else none

/-- Bytes used of a buffer (2.3). -/
def usedBytes (b : Buffer) : Nat := recordsSize b.recs

/-- First and last record sequence of a buffer (2.3). -/
def firstRecord (b : Buffer) : Nat := (b.recs.head?).elim 0 Record.seq
def lastRecord (b : Buffer) : Nat := (b.recs.getLast?).elim 0 Record.seq

/-- A record goes into a buffer and is counted (R31, R42); a GAP placed in a buffer clears the loss-notice flag
(R34). -/
def putRecord (i : BufId) (r : Record) (p : Packer) : Packer :=
  let b := getBuf p i
  let q := setBuf p { b with recs := b.recs ++ [r] } i
  { q with recordsPacked := bump q.recordsPacked, lastPlaced := r.seq,
           lossFlag := match r.body with
             | .gap _ _ _ => false
             | _ => q.lossFlag }

/-- A FILLING buffer becomes FULL and its flush timer is cancelled (R30, R38, R41). -/
def closeBuf (i : BufId) (p : Packer) : Packer :=
  let q := setBuf p { getBuf p i with state := .full } i
  { q with fullOrder := q.fullOrder ++ [i], flushTimer := none }

/-- FLUSH's effect: the FILLING buffer, if there is one, is closed (R39). -/
def closeFilling (p : Packer) : Packer :=
  match bufIn p .filling with
  | none => p
  | some i => closeBuf i p

/-! ### Sequences and the lost tally -/

/-- A record that takes the next sequence (R24). -/
def takeSeq (p : Packer) (now : Time) (body : RecordBody) : Packer × Record :=
  ({ p with nextSeq := p.nextSeq + 1 }, { seq := p.nextSeq, time := now, body := body })

/-- The GAP record of a nonzero tally, which returns to 0 (R33). -/
def takeGap (p : Packer) : Packer × Record :=
  let r := takeSeq p p.timeBase (.gap p.tallyCount p.tallyFirst p.tallyLast)
  ({ r.1 with tallyCount := 0, tallyFirst := 0, tallyLast := 0 }, r.2)

/-- At the end of the sequence space a nonzero tally is discarded (R25). -/
def dropTally (p : Packer) : Packer :=
  if p.nextSeq < sequenceMax then p else { p with tallyCount := 0, tallyFirst := 0, tallyLast := 0 }

/-! ### Opening a buffer (R31) -/

/-- Records placed one after another. -/
def putRecords (i : BufId) (rs : List Record) (p : Packer) : Packer := rs.foldl (fun q r => putRecord i r q) p

/-- The records of the Control Slot, with the sequences reserved for them (R31). -/
def putSlot (i : BufId) (p : Packer) : Packer := { putRecords i p.slot p with slot := [] }

/-- A GAP record when the lost tally is nonzero (R31, R33). -/
def putGap (i : BufId) (p : Packer) : Packer :=
  if p.tallyCount = 0 then p
  else
    let r := takeGap p
    dropTally (putRecord i r.2 r.1)

/-- An EMPTY buffer becomes FILLING: Control Slot, GAP record, flush timer; the record that opened it follows
(R31, R38). -/
def openBuf (interval : Nat) (i : BufId) (p : Packer) : Packer :=
  let q := setBuf p { state := .filling, recs := [], run := p.run } i
  let q1 := putGap i (putSlot i q)
  { q1 with flushTimer := if interval = 0 then none else some interval }

/-- A buffer holding a RUN_STOP as its last record (R37). -/
def endsRun (b : Buffer) : Bool :=
  match b.recs.getLast? with
  | some r => match r.body with
    | .runStop _ _ => true
    | _ => false
  | none => false

/-- A buffer whose last record is a RUN_STOP is closed (R37). -/
def closeIfEnded (i : BufId) (p : Packer) : Packer :=
  if endsRun (getBuf p i) = true ∧ (getBuf p i).state = .filling then closeBuf i p else p

/-! ### Where a record goes (R30) -/

/-- The buffer that takes a record of a size, prepared for it: the FILLING buffer with room, or an EMPTY buffer
opened; a FILLING buffer without room is closed even when no buffer is then EMPTY (R30). -/
def findRoom (interval size : Nat) (p : Packer) : Packer × Option BufId :=
  match bufIn p .filling with
  | some i =>
    if usedBytes (getBuf p i) + size ≤ Config.bufferBytes then (p, some i)
    else
      let q := closeBuf i p
      match bufIn q .empty with
      | some j => (openBuf interval j q, some j)
      | none => (q, none)
  | none =>
    match bufIn p .empty with
    | some j => (openBuf interval j p, some j)
    | none => (p, none)

/-! ### Captures (R23, R30, R32) -/

/-- The body of a FRAME record (R23). -/
def frameBody (r : Result) (c : Captured) : RecordBody :=
  .frame r.dir r.outcome c.truncated r.mark r.rule r.origLen c.bytes

/-- A lost capture is counted and, before the end of the sequence space, added to the tally (R25, R32). -/
def loseCapture (t : Time) (p : Packer) : Packer :=
  let q := { p with capturesLost := bump p.capturesLost }
  if q.nextSeq ≤ ordinaryMax then
    { q with tallyCount := bump q.tallyCount,
             tallyFirst := if q.tallyCount = 0 then t else q.tallyFirst,
             tallyLast := t }
  else q

/-- A capture taken while the gate is OPEN: the Packer after it, and whether its record was placed (R30, R32). -/
def packCapture (interval : Nat) (r : Result) (c : Captured) (p : Packer) : Packer × Bool :=
  if p.nextSeq ≤ ordinaryMax then
    let room := findRoom interval (15 + c.bytes.length) p
    match room.2 with
    | none => (loseCapture r.time room.1, false)
    | some i =>
      if room.1.nextSeq ≤ ordinaryMax then
        let x := takeSeq room.1 r.time (frameBody r c)
        (dropTally (putRecord i x.2 x.1), true)
      else (loseCapture r.time room.1, false)
  else (loseCapture r.time p, false)

/-- The mark that goes on to the Capture Controller for a result (R35, R25): with the sequence of its record, or
the next sequence when its capture was lost or none was asked. -/
def markOf (r : Result) (placed : Bool) (p : Packer) : TriggerMark :=
  { rule := r.rule, seq := if placed then p.nextSeq - 1 else p.nextSeq, time := r.time,
    lost := (r.capture.isSome && !placed) || decide (ordinaryMax < p.nextSeq && !placed) }

/-! ### Control records (R27, R36, R37) -/

/-- A RUN_START is accepted (R36, R25). -/
def acceptsRunStart (p : Packer) : Bool := decide (p.slot = []) && decide (p.nextSeq ≤ ordinaryMax)

/-- The GAP record of a nonzero tally, reserved ahead of a control record (R33, R36). -/
def reserveGap (p : Packer) : Packer × List Record :=
  if p.tallyCount = 0 then (p, [])
  else
    let x := takeGap p
    (x.1, [x.2])

/-- An accepted RUN_START: it takes the next sequence, the gate opens, and it is placed or enters the Control Slot
(R36). -/
def packRunStart (interval run : Nat) (p : Packer) : Packer :=
  let room := findRoom interval 16 { p with run := run, gateOpen := true }
  match room.2 with
  | some i =>
    let x := takeSeq room.1 p.timeBase (.runStart run)
    dropTally (putRecord i x.2 x.1)
  | none =>
    let g := reserveGap room.1
    let x := takeSeq g.1 p.timeBase (.runStart run)
    dropTally { x.1 with slot := x.1.slot ++ g.2 ++ [x.2] }

/-- A RUN_STOP: the gate closes; a GAP record of a nonzero tally goes first; both are placed and their buffer
closed, or both enter the Control Slot (R36, R37). -/
def packRunStop (interval run : Nat) (reason : StopReason) (p : Packer) : Packer :=
  let g := reserveGap { p with gateOpen := false }
  let x := takeSeq g.1 p.timeBase (.runStop run reason)
  let recs := g.2 ++ [x.2]
  let room := findRoom interval (recordsSize recs) x.1
  match room.2 with
  | some i => closeIfEnded i (putRecords i recs room.1)
  | none => { room.1 with slot := room.1.slot ++ recs }

/-- A TIME_SET record can be placed at once (R27; log 24): the Control Slot empty, room in the FILLING buffer or an EMPTY
buffer, and a sequence left for it behind the GAP record of an opening. -/
def timeSetFits (p : Packer) : Bool :=
  decide (p.slot = []) && match bufIn p .filling with
    | some i =>
      if usedBytes (getBuf p i) + 22 ≤ Config.bufferBytes then decide (p.nextSeq ≤ ordinaryMax)
      else (bufIn p .empty).isSome && decide (p.nextSeq + (if p.tallyCount = 0 then 0 else 1) ≤ ordinaryMax)
    | none => (bufIn p .empty).isSome && decide (p.nextSeq + (if p.tallyCount = 0 then 0 else 1) ≤ ordinaryMax)

/-- A TIME_SET record placed, and the Time Base moved (R27). -/
def packTimeSet (interval : Nat) (new : Time) (p : Packer) : Packer :=
  let old := p.timeBase
  let room := findRoom interval 22 p
  match room.2 with
  | none => { p with timeBase := new }
  | some i =>
    let x := takeSeq room.1 new (.timeSet old new)
    { dropTally (putRecord i x.2 x.1) with timeBase := new }

/-! ### Hand-over (R41) -/

/-- The Log Manager takes the oldest FULL buffer (R41). -/
def takeBuf (i : BufId) (p : Packer) : Packer :=
  let q := setBuf p { getBuf p i with state := .writing } i
  { q with fullOrder := q.fullOrder.filter (fun j => decide (j ≠ i)) }

/-- A buffer whose page has committed returns to EMPTY; the Control Slot's records, if there are any, open it at
once (R31, R41). -/
def returnBuf (interval : Nat) (i : BufId) (p : Packer) : Packer :=
  let q := setBuf p Buffer.initial i
  if q.slot = [] then q else closeIfEnded i (openBuf interval i q)

/-- The sequence of the oldest record the Packer holds, or the next sequence when it holds none (R93). -/
def oldestHeld (p : Packer) : Nat :=
  (p.sb0.recs ++ p.sb1.recs ++ p.slot).foldl (fun acc r => min acc r.seq) p.nextSeq

end Sys2Proof.Machine
end

