-- ==== Sys2Proof/Machine/Sessions.lean ====
section
/-! DEFINITION. The Retrieval Engine (07): fetch steps, page reads, data and end frames, the ends of sessions. -/

namespace Sys2Proof.Machine

/-- A session slot changed. -/
def sessionChange (i : SessionId) (f : Session → Session) (s : State) : State := s.setSession i (f (s.session i))

/-! ### Ending (R126, R137, R140) -/

/-- For a recording session, the entry's open-session count falls by 1 (R126). -/
def dropOpenCount (x : Session) (s : State) : State :=
  if x.source = 0 then s
  else s.setDir (changeEntry s.dir x.source (fun e => { e with sessions := e.sessions - 1 }))

/-- An ENDING slot with no read outstanding and no end frame to place becomes FREE (R126, R131, R137). -/
def freeIfDone (i : SessionId) (s : State) : State :=
  let x := s.session i
  if x.state = .ending ∧ x.reading = false ∧ x.endReason = none ∧ x.offered ≠ .endFrame then
    s.setSession i Session.initial
  else s

/-- The end frame is placed when the reply has been seen and no frame of the session waits at its port
(R133, R137; log 18, log 20). -/
def placeEnd (i : SessionId) (s : State) : State :=
  let x := s.session i
  match x.endReason with
  | none => freeIfDone i s
  | some why =>
    if x.state = .ending ∧ x.replySeen = true ∧ isWaiting x.port (.session i) s = false then
      let r := offerLocal x.port (.session i) (endFrame s.seqr.own i x why) s
      match r.2.1 with
      | .entered => freeIfDone i (sessionChange i (fun y => { y with endReason := none }) r.1)
      | .waits => sessionChange i (fun y => { y with endReason := none, offered := .endFrame }) r.1
      | .discarded => freeIfDone i (sessionChange i (fun y => { y with endReason := none }) r.1)
    else s

/-- What every end of a session does: page buffer discarded, idle timer stopped, the open-session count lowered
(R126). -/
def closeSession (i : SessionId) (s : State) : State :=
  sessionChange i (fun y => { y with state := .ending, buffer := [], idleTimer := false })
    (dropOpenCount (s.session i) s)

/-- The data frame of a session that waits for room is withdrawn (R133, R148). -/
def withdrawData (i : SessionId) (s : State) : State :=
  match (s.session i).offered with
  | .data _ _ => withdraw (s.session i).port (.session i) s
  | _ => s

/-- A session ends with a reason that its end frame carries (R133, R137). -/
def endSession (i : SessionId) (why : EndReason) (s : State) : State :=
  if sessionOpen (s.session i) then
    placeEnd i (sessionChange i (fun y => { y with endReason := some why }) (withdrawData i (closeSession i s)))
  else s

/-- A session ends silently with reason LINK_LOST; a session already ENDING drops its end frame (R140). No frame is
withdrawn: what waits at the port is the Relay's to discard and to count, whichever of the two takes the loss first
(R151; log 47). -/
def loseSession (i : SessionId) (s : State) : State :=
  let x := s.session i
  if x.state = .free then s
  else
    let s1 := if sessionOpen x then closeSession i s else s
    freeIfDone i (sessionChange i (fun y => { y with endReason := none, offered := .none }) s1)

/-! ### Fetch steps (R129, R130) -/

/-- What a fetch step decides. -/
inductive Fetch where
  | finish (x : Session) (why : EndReason)
  | follow (x : Session)
  | read (x : Session) (block page : Nat)
  deriving DecidableEq, Repr

/-- The record limit has been reached (R129, R130). -/
def limitReached (x : Session) : Bool := decide (x.limit ≠ 0) && decide (x.limit ≤ x.delivered)

/-- A list block with a first record sequence in the Block Table (R129). -/
def usableBlock (l : LogManager) (b : Nat) : Bool := (blockEntry l b).firstSeq.isSome

/-- The list from position `n` on, with positions. -/
def withPositions : Nat → List Nat → List (Nat × Nat)
  | _, [] => []
  | n, b :: rest => (n, b) :: withPositions (n + 1) rest

/-- The last usable list block, at or after a position, whose first record sequence is at or below the next
sequence (R129, step 2). -/
def cursorBlock (l : LogManager) (blocks : List Nat) (pos next : Nat) : Option (Nat × Nat) :=
  ((withPositions 0 blocks).filter
    (fun x => decide (pos ≤ x.1) && usableBlock l x.2 && decide (firstSeqOf l x.2 ≤ next))).getLast?

/-- The next usable list block after a position (R129, step 3). -/
def nextUsable (l : LogManager) (blocks : List Nat) (pos : Nat) : Option (Nat × Nat) :=
  (withPositions 0 blocks).find? (fun x => decide (pos < x.1) && usableBlock l x.2)

/-- The cursor moved to a list block at page 0, unless it stands there already (R129, step 2). -/
def moveCursor (x : Session) (pos b : Nat) : Session :=
  if x.block = some b then { x with listPos := pos } else { x with listPos := pos, block := some b, page := 0 }

/-- The fetch step of a recording session (R129). Without a usable list block at or after the list position whose first
sequence is at or below the next sequence, step 2 names no move: the cursor stays where it is, and the pages of its block
are read, be it an unusable one that the mount scan took STALE (DESIGN CHOICE, log 53). -/
def recordingFetch (l : LogManager) (e : Entry) (x : Session) : Fetch :=
  if x.endPoint.getD 0 < x.nextSeq ∨ limitReached x = true then .finish x .complete
  else
    let y := match cursorBlock l e.blocks x.listPos x.nextSeq with
      | none => x
      | some (pos, b) => moveCursor x pos b
    if 16 ≤ y.page then
      match nextUsable l e.blocks y.listPos with
      | none => .finish y .endOfData
      | some (pos, b) => .read { y with listPos := pos, block := some b, page := 0 } b 0
    else .read y (y.block.getD 0) y.page

/-- The fetch step of a live session (R130). Passing the hole behind a block leads to a later listed block, so the
step starts again at most once for each listed block. -/
def liveFetch (l : LogManager) : Nat → Session → Fetch
  | 0, x => .finish x .overtaken
  | n + 1, x =>
    if limitReached x then .finish x .complete
    else if l.lastCommitted < x.nextSeq then (if x.follow then .follow x else .finish x .endOfData)
    else match locate l x.nextSeq with
      | .notAvailable => .finish x .overtaken
      | .beyond => .finish x .overtaken
      | .block b bound =>
        let y := if x.block = some b then { x with bound := bound }
          else { x with block := some b, page := 0, bound := bound }
        if 16 ≤ y.page then liveFetch l n { y with nextSeq := bound + 1 }
        else .read y b y.page

/-- A session's fetch step: it ends, waits, or hands in its next read (R129, R130). -/
def fetchStep (i : SessionId) (s : State) : State :=
  let x := s.session i
  let f := if x.source = 0 then liveFetch s.log (s.log.history.length + 3) x
    else match findEntry s.dir x.source with
      | none => .finish x .endOfData
      | some e => recordingFetch s.log e x
  match f with
  | .finish y why => endSession i why (s.setSession i y)
  | .follow y => s.setSession i { y with state := .following }
  | .read y b page =>
    let r := arrayAsk (.session i) (.read b page) (s.setSession i { y with state := .fetching, reading := true })
    match r.2 with
    | .accepted => r.1
    | .refused => sessionChange i (fun z => { z with reading := false }) r.1
    | .erasing => endSession i .overtaken (sessionChange i (fun z => { z with reading := false }) r.1)

/-! ### Data frames (R132, R133) -/

/-- Whole records from the head of the buffer, as many as fit (R132). -/
def fitRecords : Nat → List Record → List Record
  | _, [] => []
  | room, r :: rest => if recordSize r ≤ room then r :: fitRecords (room - recordSize r) rest else []

/-- The SKIP flag: the first record is not the delivery point (R132). -/
def skipFlag (x : Session) (recs : List Record) : Bool :=
  match recs with
  | [] => false
  | r :: _ => decide (r.seq ≠ x.point)

/-- The last sequence of a run of records. -/
def lastSeqOf (recs : List Record) : Nat := (recs.getLast?).elim 0 Record.seq

/-- What the entry of a data frame into the local queue does to the session (R132; log 26). -/
def spendCredit (count last : Nat) (x : Session) : Session :=
  { x with credit := x.credit - 1, delivered := bumpBy count x.delivered, point := last + 1,
           buffer := x.buffer.drop count, offered := .none }

/-- Credit 0 starts the idle timer; with records left the session is STALLED (R132, R135). -/
def afterFrame (x : Session) : Session :=
  if x.credit = 0 then
    { x with idleTimer := true, state := if x.buffer = [] then x.state else .stalled }
  else x

/-- A DELIVERING session places data frames while it has credit, records and room; with its buffer empty it
applies its fetch step (R132, R133). `n` bounds the frames of one buffer. -/
def deliver (i : SessionId) : Nat → State → State
  | 0, s => s
  | n + 1, s =>
    let x := s.session i
    let recs := fitRecords Config.dataFrameBytes x.buffer
    if x.state = .delivering ∧ x.replySeen = true ∧ 0 < x.credit ∧ recs ≠ []
        ∧ isWaiting x.port (.session i) s = false then
      let r := offerLocal x.port (.session i) (dataFrame s.seqr.own x.station i (skipFlag x recs) recs) s
      match r.2.1 with
      | .entered =>
        let s1 := sessionChange i (fun y => afterFrame (spendCredit recs.length (lastSeqOf recs) y)) r.1
        if (s1.session i).buffer = [] then fetchStep i s1 else deliver i n s1
      | .waits => sessionChange i (fun y => { y with offered := .data recs.length (lastSeqOf recs) }) r.1
      | .discarded => r.1
    else s

/-- Deliver from the whole buffer (R132). -/
def deliverAll (i : SessionId) (s : State) : State := deliver i ((s.session i).buffer.length + 1) s

/-- The session places what it has to place: data frames, or its end frame (R133). -/
def sessionPlace (i : SessionId) (s : State) : State :=
  if (s.session i).state = .ending then placeEnd i s else deliverAll i s

/-- The OK answer to the OPEN-RETRIEVAL has entered the local queue: reply seen becomes yes (R133). -/
def replySeen (i : SessionId) (s : State) : State :=
  if (s.session i).state = .free then s
  else sessionPlace i (sessionChange i (fun y => { y with replySeen := true }) s)

/-- A waiting frame of a session has entered a port's local queue (R132, R147): its data frame is spent, its end
frame is placed. A frame withdrawn too late is still delivered, for a session that has ended but is not yet FREE
(R148; log 21); a frame left by an earlier session of the slot changes nothing but what may now be placed. -/
def sessionEntered (port : Port) (i : SessionId) (withdrawn : Bool) (s : State) : State :=
  let x := s.session i
  if x.port ≠ port then s
  else match x.offered with
  | .none => sessionPlace i s
  | .endFrame =>
    if withdrawn then sessionPlace i s
    else freeIfDone i (sessionChange i (fun y => { y with offered := .none }) s)
  | .data count last =>
    if withdrawn then sessionPlace i (sessionChange i (fun y => spendCredit count last y) s)
    else
      let s1 := sessionChange i (fun y => afterFrame (spendCredit count last y)) s
      if (s1.session i).buffer = [] then fetchStep i s1 else deliverAll i s1

/-- A withdrawal of a session's data frame has been taken: what the session holds back is placed (R137). -/
def sessionWithdrawn (port : Port) (i : SessionId) (s : State) : State :=
  if (s.session i).port ≠ port then s
  else if (s.session i).state = .ending then
    sessionPlace i (sessionChange i (fun y => { y with offered := .none }) s)
  else sessionPlace i s

/-! ### Page reads (R131) -/

/-- The records of a page that a session loads (R131). -/
def loadRecords (x : Session) (recs : List Record) : List Record :=
  let wanted := recs.filter (fun r => decide (x.nextSeq ≤ r.seq)
    && (match x.endPoint with
      | none => true
      | some e => decide (r.seq ≤ e)))
  if x.limit = 0 then wanted else wanted.take (x.limit - x.delivered)

/-- One above the last record of a page. -/
def afterPage (recs : List Record) : Nat := (recs.getLast?).elim 0 (fun r => r.seq + 1)

/-- The session with a page's result taken in, for a result that does not end it (R131). -/
def takePage (x : Session) : ReadResult → Session
  | .committed _ _ (.log recs) =>
    { x with buffer := loadRecords x recs, nextSeq := max x.nextSeq (afterPage recs), page := x.page + 1 }
  | .corrupt h _ => { x with nextSeq := max x.nextSeq (h.firstSeq + h.count), page := x.page + 1 }
  | _ => { x with page := x.page + 1 }

/-- A session acts on the result of its READ PAGE (R131). -/
def sessionRead (i : SessionId) (r : ReadResult) (s : State) : State :=
  let s1 := sessionChange i (fun y => { y with reading := false }) s
  if sessionOpen (s1.session i) then
    match r with
    | .erasing => endSession i .overtaken s1
    | _ =>
      let y := takePage (s1.session i) r
      if y.buffer = [] then fetchStep i (s1.setSession i y)
      else if y.credit = 0 then s1.setSession i { y with state := .stalled }
      else deliverAll i (s1.setSession i { y with state := .delivering })
  else freeIfDone i s1

/-! ### What the log tells the sessions (R136, R138) -/

/-- A FOLLOWING session whose next sequence a commit has reached is woken (R136). -/
def wakeSession (i : SessionId) (s : State) : State :=
  let x := s.session i
  if x.state = .following ∧ x.nextSeq ≤ s.log.lastCommitted then fetchStep i s else s

/-- A live session whose next sequence lies in the chosen block ends OVERTAKEN (R138). -/
def overtakeSession (first bound : Nat) (i : SessionId) (s : State) : State :=
  let x := s.session i
  if sessionOpen x = true ∧ x.source = 0 ∧ first ≤ x.nextSeq ∧ x.nextSeq ≤ bound then endSession i .overtaken s
  else s

/-- Both sessions hear of a log commit, Session 1 before Session 2 (R70, R136; DESIGN CHOICE, log 42). -/
def wakeSessions (s : State) : State := wakeSession .two (wakeSession .one s)

/-- Both sessions hear the announcement of a FILLED candidate, Session 1 before Session 2 (R74, R138; DESIGN CHOICE,
log 42). -/
def announceBlock (first bound : Nat) (s : State) : State :=
  overtakeSession first bound .two (overtakeSession first bound .one s)

/-! ### Opening (R127, R128) -/

/-- The FREE slot with the lower identifier (R128). -/
def freeSlot (s : State) : Option SessionId :=
  if s.ret.s1.state = .free then some .one else if s.ret.s2.state = .free then some .two else none

/-- The parameters of OPEN-RETRIEVAL (12.4). -/
structure OpenParams where
  source : Nat
  start : Nat
  limit : Nat
  follow : Nat
  credit : Nat
  deriving DecidableEq, Repr

def readOpen (ps : Bytes) : OpenParams :=
  { source := fieldAt 0 2 ps, start := fieldAt 2 6 ps, limit := fieldAt 8 4 ps, follow := fieldAt 12 1 ps,
    credit := fieldAt 13 1 ps }

/-- The first sequence of a session on the live ring, none when the start is not available (R127). -/
def liveFirst (l : LogManager) (start : Nat) (follow : Bool) : Option Nat :=
  if start = 0 then
    match oldestAvailable l with
    | some f => some f
    | none => if follow then some (l.lastCommitted + 1) else none
  else
    match locate l start with
    | .block _ _ => some start
    | .notAvailable => none
    | .beyond => if follow = true ∧ start = l.lastCommitted + 1 then some start else none

/-- The first sequence of a session on a recording, none when the start is not available (R127). -/
def recordingFirst (e : Entry) (start : Nat) : Option Nat :=
  if start = 0 then some e.first
  else if e.first ≤ start ∧ start ≤ e.last.getD 0 then some start else none

/-- The slot as an accepted OPEN-RETRIEVAL sets it, before its fetch step (R128, R129). -/
def openedSession (o : OpenParams) (src : Byte) (p : Port) (e : Option Entry) (first : Nat) : Session :=
  { Session.initial with
    state := .fetching, station := src, port := p, source := o.source, follow := decide (o.follow = 1),
    endPoint := match e with
      | none => none
      | some x => some (x.last.getD 0),
    limit := o.limit, credit := o.credit, point := first, nextSeq := first,
    block := match e with
      | none => none
      | some x => x.blocks.head?,
    idleTimer := decide (o.credit = 0) }

/-- The session opened in a slot, and its cursor placed by its fetch step (R128). -/
def openSession (i : SessionId) (o : OpenParams) (src : Byte) (p : Port) (e : Option Entry) (first : Nat)
    (s : State) : State :=
  let s1 := if o.source = 0 then s
    else s.setDir (changeEntry s.dir o.source (fun y => { y with sessions := y.sessions + 1 }))
  fetchStep i (s1.setSession i (openedSession o src p e first))

/-- The slot that a session identifier names (R134). -/
def slotNamed : Nat → Option SessionId
  | 1 => some .one
  | 2 => some .two
  | _ => none

end Sys2Proof.Machine
end

