-- ==== Sys2Proof/Machine/Requests.lean ====
section
/-! DEFINITION. The Management Unit (09): arrival, the duplicate check, the Reply Cache, selection and answers. -/

namespace Sys2Proof.Machine

/-! ### The Reply Cache (R158) -/

/-- A response stored for its station: its older entry goes, the least recently used of eight goes for a ninth, and
the new entry is the most recently used (R158). -/
def cacheStore (cache : List CacheEntry) (x : CacheEntry) : List CacheEntry :=
  let others := cache.filter (fun y => decide (y.station ≠ x.station))
  (if others.length < Config.cachePlaces then others else others.drop 1) ++ [x]

/-- The entry that answers a repeated request (R157). -/
def cacheMatch (cache : List CacheEntry) (r : Request) : Option CacheEntry :=
  cache.find? (fun y => decide (y.station = r.src) && decide (y.code = r.code) && decide (y.tag = r.tag))

/-- The answers that are stored: not DENIED, not MOUNTING, not to a broadcast, not to tag 0, not a copy (R158). -/
def storable (r : Request) (st : Status) : Bool :=
  decide (st ≠ .denied) && decide (st ≠ .mounting) && !r.broadcast && decide (r.tag ≠ 0) && r.cached.isNone

/-- The entry that a stored response makes. -/
def cacheEntryOf (r : Request) (bytes : Bytes) : CacheEntry :=
  { station := r.src, code := r.code, tag := r.tag, bytes := bytes }

/-! ### Answers (R161) -/

/-- The request being executed at another stage. -/
def setStage (c : Current) (st : ExecStage) (s : State) : State :=
  s.setMgmt { s.mgmt with current := some { c with stage := st } }

/-- The unit has finished with its request. -/
def clearCurrent (s : State) : State := s.setMgmt { s.mgmt with current := none }

/-- The response has entered its local queue: it is stored if it is to be, a session it opened has its reply seen,
and a RESTART goes on to wait for the ending (R158, R133, R169). The Boolean says that the unit has finished with
the request. The opened session's frames are placed here, before the next queued request is answered (R133, R161;
DESIGN CHOICE, log 38). -/
def responseEntered (c : Current) (serial : Nat) (bytes : Bytes) (store : Bool) (opened : Option SessionId)
    (restart : Bool) (s : State) : State × Bool :=
  let s1 := if store then s.setMgmt { s.mgmt with cache := cacheStore s.mgmt.cache (cacheEntryOf c.req bytes) } else s
  let s2 := match opened with
    | none => s1
    | some i => replySeen i s1
  if restart then (setStage c (.restartWait serial) s2, false) else (clearCurrent s2, true)

/-- The unit offers its response to the Local Queue of the request's port; until it enters or its discard is taken
the unit is REPLYING (R161; log 17). -/
def offerResponse (c : Current) (bytes : Bytes) (store : Bool) (opened : Option SessionId) (restart : Bool)
    (s : State) : State × Bool :=
  let r := offerLocal c.req.port .mgmt bytes s
  match r.2.1 with
  | .entered => responseEntered c r.2.2 bytes store opened restart r.1
  | .waits => (setStage c (.replying r.2.2 bytes store opened restart) r.1, false)
  | .discarded => (setStage c (.replying r.2.2 bytes store opened restart) r.1, false)

/-! ### Selection (R160) -/

/-- What the start of an execution chooses (R160). -/
inductive Selection where
  | copy (bytes : Bytes)
  | answer (st : Status)
  | owner
  deriving DecidableEq, Repr

/-- The first case of R160 that applies. -/
def selectRequest (s : State) (r : Request) : Selection :=
  match r.cached with
  | some bytes => .copy bytes
  | none =>
    match paramLength r.code with
    | none => .answer .unknownRequest
    | some n =>
      if s.mgmt.managers ≠ [] ∧ s.mgmt.managers.contains r.src = false ∧ r.code ≠ codeDiscover then .answer .denied
      else if s.seqr.part = .mounting ∧ r.code ≠ codeDiscover ∧ r.code ≠ codeReadStatus then .answer .mounting
      else if r.params.length ≠ n then .answer .badLength
      else .owner

/-- A DENIED answer is counted (R160, R172). -/
def countDenied (st : Status) (s : State) : State :=
  if st = .denied then s.setMgmt { s.mgmt with denied := bump s.mgmt.denied } else s

/-- The head of the Request Queue leaves it and its execution begins; answers that the selection gives at once are
offered, and when they have entered the next request begins (R159, R160, R162). `n` bounds the requests begun in
one happening. -/
def runRequests : Nat → State → State
  | 0, s => s
  | n + 1, s =>
    match s.mgmt.queue with
    | [] => s
    | r :: rest =>
      let c : Current := { req := r, stage := .handed }
      let s1 := s.setMgmt { s.mgmt with queue := rest, current := some c }
      match selectRequest s1 r with
      | .owner => s1
      | .copy bytes =>
        let x := offerResponse c bytes false none false
          (s1.setMgmt { s1.mgmt with duplicates := bump s1.mgmt.duplicates })
        if x.2 then runRequests n x.1 else x.1
      | .answer st =>
        let x := offerResponse c (responseFrame s.seqr.own r st []) (storable r st) none false (countDenied st s1)
        if x.2 then runRequests n x.1 else x.1

/-- The unit begins the next request, if it has one (R159). -/
def nextRequest (s : State) : State := runRequests (s.mgmt.queue.length + 1) s

/-- The unit goes on when it has finished with a request. -/
def thenNext (x : State × Bool) : State := if x.2 then nextRequest x.1 else x.1

/-- An answer of the request being executed (R161). -/
def answerWith (st : Status) (result : Bytes) (opened : Option SessionId) (restart : Bool) (s : State) : State :=
  match s.mgmt.current with
  | none => s
  | some c =>
    thenNext (offerResponse c (responseFrame s.seqr.own c.req st result) (storable c.req st) opened restart s)

/-- An answer without more. -/
def respond (st : Status) (result : Bytes) (s : State) : State := answerWith st result none false s

/-- The waiting response has entered its local queue (R161). A frame of another number changes nothing. -/
def mgmtEntered (serial : Nat) (s : State) : State :=
  match s.mgmt.current with
  | none => s
  | some c => match c.stage with
    | .replying k bytes store opened restart =>
      if k = serial then thenNext (responseEntered c serial bytes store opened restart s) else s
    | _ => s

/-- The request that the unit has handed to the owner of a code (R159). -/
def handedRequest (code : Byte) (s : State) : Option Request :=
  match s.mgmt.current with
  | none => none
  | some c => match c.stage with
    | .handed => if c.req.code = code ∧ s.seqr.part ≠ .reset then some c.req else none
    | _ => none

/-- The owner of a code takes the request handed to it, if one is (log 16). -/
def takeRequest (code : Byte) (f : Request → State → State) (s : State) : State :=
  match handedRequest code s with
  | none => s
  | some r => f r s

/-- The request being executed waits for the array (R163). -/
def awaitStore (s : State) : State :=
  match s.mgmt.current with
  | none => s
  | some c => setStage c .journal s

/-! ### Arrival (R156, R157) -/

/-- The request that a frame carries; its frame is a GOOD frame of Class 124 (R156, 12.3). -/
def readRequest (p : Port) (bytes : Bytes) : Request :=
  let payload := payloadOf bytes
  { src := byteAt bytes 1, port := p, code := byteAt payload 0, tag := fieldAt 1 2 payload, params := payload.drop 3,
    broadcast := decide (byteAt bytes 0 = 255), cached := none }

/-- Two requests are the same (R157). -/
def sameRequest (r q : Request) : Bool :=
  decide (q.src = r.src) && decide (q.tag = r.tag) && decide (q.code = r.code) && !q.broadcast

/-- The unit already holds the request, waiting or being executed (R157; broadcasts, log 28). -/
def alreadyHeld (m : Management) (r : Request) : Bool :=
  m.queue.any (sameRequest r) || (match m.current with
    | none => false
    | some c => sameRequest r c.req)

/-- An arrival is discarded and counted (R156). -/
def discardArrival (s : State) : State := s.setMgmt { s.mgmt with discarded := bump s.mgmt.discarded }

/-- A request joins the tail of the Request Queue; an IDLE unit begins it at once (R156, R159). -/
def joinQueue (r : Request) (s : State) : State :=
  if s.mgmt.queue.length < Config.requestPlaces then
    let s1 := s.setMgmt { s.mgmt with queue := s.mgmt.queue ++ [r] }
    if s.mgmt.current = none then nextRequest s1 else s1
  else discardArrival s

/-- A cached duplicate joins with its copy, and its entry becomes the most recently used; one that finds no room
leaves the cache as it was (R156, R157). -/
def joinCached (r : Request) (x : CacheEntry) (s : State) : State :=
  if s.mgmt.queue.length < Config.requestPlaces then
    joinQueue { r with cached := some x.bytes } (s.setMgmt { s.mgmt with cache := cacheStore s.mgmt.cache x })
  else discardArrival s

/-- The arrival of a request frame (R156). -/
def arrive (p : Port) (bytes : Bytes) (s : State) : State :=
  let r := readRequest p bytes
  if isStation r.src = false then discardArrival s
  else if (payloadOf bytes).length < 3 then discardArrival s
  else if r.broadcast = true ∧ r.code ≠ codeDiscover then discardArrival s
  else if r.broadcast = false ∧ r.tag ≠ 0 then
    if alreadyHeld s.mgmt r then discardArrival s
    else match cacheMatch s.mgmt.cache r with
      | some x => joinCached r x s
      | none => joinQueue r s
  else joinQueue r s

end Sys2Proof.Machine
end

