-- ==== Sys2Proof/Machine/Notices.lean ====
section
/-! DEFINITION. The Notice Unit (10): the Notice Queue, the head notice, its frames, retries and acknowledgement. -/

namespace Sys2Proof.Machine

/-- The link state of a port as the unit has taken it (R141, R179; log 19). -/
def noticeLinkUp (n : NoticeUnit) : Port → Bool
  | .a => n.linkA
  | .b => n.linkB

/-- The unit's view of a port's link state replaced. -/
def setNoticeLink (n : NoticeUnit) (up : Bool) : Port → NoticeUnit
  | .a => { n with linkA := up }
  | .b => { n with linkB := up }

/-- The head's frame is built and offered to the notify port's Local Queue, and the head is QUEUED (R176). A frame
given up that still stands in that port's waiting list goes first (R147; log 18). -/
def offerHead (s : State) : State :=
  match s.notice.queue with
  | [] => s
  | x :: _ =>
    let n := s.notice
    if isWaiting n.settings.port .notice s then s.setNotice { n with head := .queued, frame := none }
    else
      let r := offerLocal n.settings.port .notice (noticeFrame s.seqr.own n x) s
      r.1.setNotice { n with head := .queued, frame := some r.2.2, carried := n.overflow }

/-- The head is sent, or PARKED when its port is DOWN (R176). -/
def sendHead (s : State) : State :=
  match s.notice.queue with
  | [] => s
  | _ :: _ =>
    if noticeLinkUp s.notice s.notice.settings.port then offerHead s
    else s.setNotice { s.notice with head := .parked, frame := none }

/-- A notice has become the head, with attempt count 0 (R176). -/
def beginHead (s : State) : State := sendHead (s.setNotice { s.notice with attempts := 0, carried := 0 })

/-- The head leaves the queue, the retry timer stops, and the next notice becomes the head (R177, R178). -/
def popHead (s : State) : State :=
  beginHead (s.setNotice { s.notice with
    queue := s.notice.queue.drop 1, head := .parked, frame := none, attempts := 0, carried := 0, retry := none })

/-- The head is dropped after its fourth transmission (R177, R179). -/
def dropHead (s : State) : State := popHead (s.setNotice { s.notice with dropped := bump s.notice.dropped })

/-- A place in the waiting list that the unit had given up is free again: a head held back for it is offered
(log 18). -/
def noticeKick (s : State) : State :=
  if s.notice.queue ≠ [] ∧ s.notice.head = .queued ∧ s.notice.frame = none then offerHead s else s

/-- The bit of the enable set for an event's kind (12.4). -/
def kindEnabled (n : NotifySettings) (e : Event) : Bool := n.enable.getLsbD (eventCode e - 1)

/-- An event is taken: ignored, discarded, or queued (R175). -/
def takeEvent (e : Event) (s : State) : State :=
  let n := s.notice
  if n.settings.station = 0 ∨ kindEnabled n.settings e = false then s
  else if Config.noticePlaces ≤ n.queue.length then
    s.setNotice { n with
      discarded := bump n.discarded,
      overflow := if n.overflow < 65535 then n.overflow + 1 else 65535 }
  else
    let s1 := s.setNotice { n with
      queue := n.queue ++ [{ num := n.nextNumber, event := e }], nextNumber := nextNumber n.nextNumber }
    if n.queue = [] then beginHead s1 else s1

/-- The ending of a notice frame; one that is not the head's frame now with the Relay changes nothing (R176), but that a
head held back for a frame that LINK DOWN has discarded is now offered (R147, R179; log 18). -/
def noticeEnding (serial : Nat) (transmitted : Bool) (s : State) : State :=
  let n := s.notice
  if n.queue ≠ [] ∧ n.head = .queued ∧ n.frame = some serial then
    if transmitted then
      s.setNotice { n with attempts := n.attempts + 1, head := .inFlight, frame := none,
                           retry := some n.settings.retry }
    else s.setNotice { n with head := .parked, frame := none }
  else noticeKick s

/-- The retry timer runs out (R177). -/
def retryExpired (s : State) : State :=
  let n := s.notice
  if n.retry = none ∨ n.queue = [] then s
  else if n.attempts < 4 then offerHead (s.setNotice { n with retry := none })
  else dropHead s

/-- A notice frame in the waiting list of a port, which is the head's whatever the head's state, is withdrawn (R148,
R174, R178). -/
def withdrawHead (p : Port) (s : State) : State := withdraw p .notice s

/-- The head is acknowledged (R178). -/
def ackHead (s : State) : State :=
  let s1 := withdrawHead s.notice.settings.port s
  popHead (s1.setNotice { s1.notice with overflow := s1.notice.overflow - s1.notice.carried })

/-- The number is the head's (R178). -/
def isHead (n : NoticeUnit) (num : Nat) : Bool :=
  match n.queue with
  | [] => false
  | x :: _ => decide (x.num = num)

/-- New notify settings; a change of station or port empties the queue (R174). -/
def putNotify (x : NotifySettings) (s : State) : State :=
  let n := s.notice
  if x.station = n.settings.station ∧ x.port = n.settings.port then s.setNotice { n with settings := x }
  else
    let s1 := withdrawHead n.settings.port s
    s1.setNotice { s1.notice with
      settings := x, queue := [], overflow := 0, head := .parked, attempts := 0, carried := 0, frame := none,
      retry := none }

/-- LINK DOWN of a port taken at the unit (R179). -/
def noticeDown (p : Port) (s : State) : State :=
  let n := setNoticeLink s.notice false p
  if n.settings.port = p ∧ n.queue ≠ [] then s.setNotice { n with head := .parked, frame := none, retry := none }
  else s.setNotice n

/-- LINK UP of a port taken at the unit (R179). -/
def noticeUp (p : Port) (s : State) : State :=
  let n := setNoticeLink s.notice true p
  let s1 := s.setNotice n
  if n.settings.port = p ∧ n.queue ≠ [] ∧ n.head = .parked then
    if n.attempts < 4 then offerHead s1 else dropHead s1
  else s1

/-- A producer is told that its waiting frame has entered the local queue (R147). -/
def tellEntered (p : Port) (w : Waiter) (s : State) : State :=
  match w.frame.who with
  | .mgmt => mgmtEntered w.frame.serial s
  | .session i => sessionEntered p i w.withdrawn s
  | .notice => noticeKick s

end Sys2Proof.Machine
end

