-- ==== Sys2Proof/Machine/Journal.lean ====
section
/-! DEFINITION. The Journal Writer (06): jobs, journal pages, appends, compactions and profile jobs up to their
requests at the Array Controller. What their results do stands in JournalResults. -/

namespace Sys2Proof.Machine

/-! ### Pages (R108, R116) -/

/-- A SNAPSHOT page record of an entry in a journaled state; a CAPTURING snapshot has no last record sequence and
no close reason (R94, R108, R116). -/
def snapshotOf (e : Entry) (st : SnapState) (blocks : List Nat) : PageRecord :=
  .snapshot
    { num := e.num, state := st, source := e.source, trigTime := e.trigTime, trigSeq := e.trigSeq,
      trigLost := e.trigLost, first := e.first,
      last := if st = .capturing then none else e.last,
      reason := if st = .capturing then none else e.reason, blocks := blocks }

/-- The record of an entry that the directory should hold; without it a RELEASED page, which replay ignores. -/
def entryRecord (d : Directory) (num : Nat) (f : Entry → PageRecord) : PageRecord :=
  match findEntry d num with
  | some e => f e
  | none => .released num

/-- The page record of a journal job, from the entry as it stands at hand-in (R111; a CAPTURING job's block list
is the one at the trigger, R94, log 14). -/
def jobRecord (s : State) : Job → PageRecord
  | .capturing num blocks => entryRecord s.dir num (fun e => snapshotOf e .capturing blocks)
  | .kept num => entryRecord s.dir num (fun e => snapshotOf e .kept e.blocks)
  | .frozen num => entryRecord s.dir num (fun e => snapshotOf e .frozen e.blocks)
  | .released num => .released num
  | .retiredList _ => .retiredList s.log.retired
  | .saveProfile _ => .retiredList s.log.retired
  | .clearProfile => .retiredList s.log.retired

/-- The state of a SNAPSHOT page as a journaled state (R109). -/
def journaledOf : SnapState → Journaled
  | .capturing => .capturing
  | .kept => .kept
  | .frozen => .frozen

/-- The COPY SNAPSHOT record of an entry in its journaled state (R116). -/
def copyRecord (e : Entry) : PageRecord :=
  match e.journaled with
  | .none => .released e.num
  | .capturing => snapshotOf e .capturing e.blocks
  | .kept => snapshotOf e .kept e.blocks
  | .frozen => snapshotOf e .frozen e.blocks

/-- The recordings of a compaction set, in ascending number (R115). -/
def copySet (d : Directory) : List Nat :=
  ((sortedEntries d).filter (fun e => decide (e.journaled ≠ .none))).map Entry.num

/-- The page record at a position of a set: an entry's copy, or the RETIRED_LIST at the last position (R114). -/
def setRecord (s : State) (set : List Nat) (pos : Nat) : PageRecord :=
  match set[pos - 1]? with
  | some num => entryRecord s.dir num copyRecord
  | none => .retiredList s.log.retired

/-- The header of a JOURNAL or PROFILE page with its data (3.2); Used bytes is the number of data bytes (R44). -/
def ownHeader (kind : PageKind) (pageSeq : Nat) (d : PageData) : PageHeader :=
  { kind := kind, pageSeq := pageSeq, run := 0, capturing := 0, firstSeq := 0, count := 0,
    used := (pageBytes d).length }

/-- A journal page as handed in: it carries the directory's next recording number (R108). -/
def journalPage (s : State) (role : JournalRole) (record : PageRecord) : PageData :=
  .journal { role := role, nextNumber := s.dir.nextNumber, record := record }

/-- The other block of the Directory Area, or block 0 when none is current (R115). -/
def compactTarget : Option Nat → Nat
  | none => 0
  | some b => if b = 0 then 1 else 0

/-- The Profile Area block that is not the valid block, or block 2 when none is valid (R121, R123). -/
def profileTarget : Option Nat → Nat
  | none => 2
  | some b => if b = 2 then 3 else 2

/-! ### Requests at the Array Controller -/

/-- A RETIRED_LIST job has been asked before the page now handed in (R112). -/
def coverJob : Job → Job
  | .retiredList _ => .retiredList true
  | j => j

/-- The jobs after a RETIRED_LIST page has been handed in (R112). -/
def coverJobs (record : PageRecord) (jobs : List Job) : List Job :=
  match record with
  | .retiredList _ => jobs.map coverJob
  | _ => jobs

/-- A JOURNAL page handed in with a newly drawn page sequence (R112, R115). -/
def programJournal (block page : Nat) (role : JournalRole) (record : PageRecord) (s : State) : State :=
  let x := drawPageSeq s
  let s1 := x.2.setJrnl { x.2.jrnl with jobs := coverJobs record x.2.jrnl.jobs }
  let d := journalPage s1 role record
  (arrayAsk .journal (.program block page (ownHeader .journal x.1 d) d) s1).1

/-- A compaction begins: the other Directory Area block is to be erased (R115, step 1). -/
def beginCompaction (s : State) : State :=
  let target := compactTarget s.jrnl.cur
  (arrayAsk .journal (.erase target)
    (s.setJrnl { s.jrnl with
      state := .compacting,
      comp := { target := target, page := 0, set := [], pos := 0, begun := s.jrnl.comp.begun + 1 } })).1

/-- The COPY page of the set position in hand is handed in (R115, step 2). -/
def programCopy (s : State) : State :=
  let c := s.jrnl.comp
  programJournal c.target c.page (.copy (c.set.length + 1) c.pos) (setRecord s c.set c.pos) s

/-- A journal job at the head is appended, or compacts first (R112, R115). -/
def serveJournal (j : Job) (s : State) : State :=
  match s.jrnl.cur with
  | some b =>
    if s.jrnl.nextPage ≤ 15 then
      programJournal b s.jrnl.nextPage .append (jobRecord s j) (s.setJrnl { s.jrnl with state := .appending })
    else beginCompaction s
  | none => beginCompaction s

/-- A profile job at the head: its first erase is handed in (R121, R123). -/
def serveProfile (s : State) : State :=
  (arrayAsk .journal (.erase (profileTarget s.jrnl.validBlock))
    (s.setJrnl { s.jrnl with state := .profile, profStep := 0 })).1

/-- A profile job (R111). -/
def isProfileJob : Job → Bool
  | .capturing _ _ => false
  | .kept _ => false
  | .released _ => false
  | .frozen _ => false
  | .retiredList _ => false
  | .saveProfile _ => true
  | .clearProfile => true

/-- The head of the job list is served, or the writer becomes IDLE (R111, R112). -/
def serveJobs (s : State) : State :=
  match s.jrnl.jobs with
  | [] => s.setJrnl { s.jrnl with state := .idle, comp := Compaction.initial, profStep := 0 }
  | j :: _ => if isProfileJob j then serveProfile s else serveJournal j s

/-- The next job is served after one has left the list; its compactions are counted anew (R117). -/
def serveNext (s : State) : State := serveJobs (s.setJrnl { s.jrnl with comp := Compaction.initial, profStep := 0 })

/-! ### Asking (R111) -/

/-- A job ended with result FAULT, as its asker takes it (R118). -/
def endFaulted (j : Job) (s : State) : State :=
  match j with
  | .released _ => respond .storeFault [] s
  | .frozen _ => respond .storeFault [] s
  | .capturing _ _ => s
  | .kept _ => s
  | .retiredList _ => s
  | .saveProfile _ => s
  | .clearProfile => s

/-- A RETIRED_LIST job. -/
def isRetiredJob : Job → Bool
  | .retiredList _ => true
  | _ => false

/-- A RETIRED_LIST job waits unserved: behind the head of the list (R111; log 15). -/
def retiredWaits (jobs : List Job) : Bool := (jobs.drop 1).any isRetiredJob

/-- A job is asked of the Journal Writer (R111). While a RETIRED_LIST job is served at the head, a retirement adds another
behind it, so that the list can hold four jobs where R111 concludes three (DESIGN CHOICE, log 15). A retirement merged into
a waiting RETIRED_LIST job leaves the job as it is, covered or not (R112; DESIGN CHOICE, log 49). -/
def askJob (j : Job) (s : State) : State :=
  if isProfileJob j = false ∧ s.jrnl.usable = false then endFaulted j s
  else if isRetiredJob j = true ∧ retiredWaits s.jrnl.jobs = true then s
  else
    let s1 := s.setJrnl { s.jrnl with jobs := s.jrnl.jobs ++ [j] }
    if s.jrnl.state = .idle then serveJobs s1 else s1

end Sys2Proof.Machine
end

