-- ==== Sys2Proof/Machine/Capture.lean ====
section
/-! DEFINITION. The Capture Controller and the Recording Directory (05): runs, triggers, posting, closing, and what
the Packer's assignments and the log's commits tell the controller. -/

namespace Sys2Proof.Machine

/-! ### Stops (R36, R87, R88) -/

/-- The flush interval in force, which the Packer reads at each opening of a buffer (R38, R84). -/
def flushInterval (s : State) : Nat := s.ctl.settings.flush

/-- A RUN_STOP is offered to the Packer, which accepts every one (R36, R87). -/
def offerRunStop (reason : StopReason) (s : State) : State :=
  (s.setPacker (packRunStop (flushInterval s) s.ctl.lastRun reason s.packer)).setCtl
    { s.ctl with stopReason := some reason }

/-- The controller enters STOPPED from another state and raises CAPTURE_STOPPED (R88). -/
def enterStopped (s : State) : State :=
  raiseEvent .controller (.captureStopped s.ctl.lastRun s.ctl.stopReason)
    (s.setCtl { s.ctl with state := .stopped, target := none })

/-! ### Closing (R99, R100) -/

/-- The KEPT snapshot is asked for when the last record sequence and the CAPTURING snapshot have committed, once
(R100). -/
def keptCheck (s : State) : State :=
  match openEntry s.dir with
  | none => s
  | some e =>
    match e.last with
    | none => s
    | some last =>
      if s.ctl.state = .closing ∧ e.state = .closing ∧ s.ctl.keptAsked = false ∧ last ≤ s.log.lastCommitted
          ∧ e.journaled ≠ .none then
        askJob (.kept e.num) (s.setCtl { s.ctl with keptAsked := true })
      else s

/-- The last record sequence at the end of posting for a reason other than COUNT (R99). -/
def lastAssigned (s : State) (e : Entry) : Nat := max (s.packer.nextSeq - 1) (e.trigSeq - 1)

/-- The last record sequence that the end of posting fixes (R99). -/
def postingLast (s : State) (e : Entry) (why : CloseReason) : Nat :=
  if why = .count then s.ctl.postEnd else lastAssigned s e

/-- Posting ends for a reason other than FAULT (R99). -/
def endPosting (why : CloseReason) (s : State) : State :=
  if s.ctl.state ≠ .posting then s
  else match openEntry s.dir with
  | none => s
  | some e =>
    let last := postingLast s e why
    let s1 := s.setDir (changeEntry s.dir e.num
      (fun x => { x with state := .closing, last := some last, reason := some why }))
    let s2 := s1.setCtl { s1.ctl with
      state := .closing, target := some (if why = .stopped then .stopped else .running), postTimer := none,
      keptAsked := false }
    let s3 := if why = .stopped then s2
      else s2.setRaised { s2.raised with closures := s2.raised.closures + 1 }
    keptCheck s3

/-- Capture is stopped with a reason: STOP-CAPTURE, SEQUENCE_END, the orderly stop, or a store fault in RUNNING
(R87, R88). -/
def stopCapture (reason : StopReason) (s : State) : State :=
  match s.ctl.state with
  | .stopped => s
  | .running => enterStopped (offerRunStop reason (s.setCtl { s.ctl with holdoffTimer := none }))
  | .posting => offerRunStop reason (endPosting .stopped s)
  | .closing =>
    match s.ctl.target with
    | some .running => offerRunStop reason (s.setCtl { s.ctl with target := some .stopped })
    | some .stopped => s
    | none => s

/-- The recording is closed without a journal page on a store fault in POSTING or CLOSING (R101). -/
def faultClose (s : State) : State :=
  match openEntry s.dir with
  | none => s
  | some e =>
    let last := if s.ctl.state = .posting then some (lastAssigned s e) else e.last
    let reason := if s.ctl.state = .posting then some .fault else e.reason
    let s1 := s.setDir (changeEntry s.dir e.num (fun x => { x with state := .kept, last := last, reason := reason }))
    let s2 := (s1.setLog { s1.log with capturingRec := 0 }).setCtl { s1.ctl with postTimer := none, keptAsked := false }
    let s3 := raiseEvent .controller (.recordingKept e.num reason e.first (last.getD 0) e.blocks.length) s2
    enterStopped (if s3.ctl.stopReason = none then offerRunStop .fault s3 else s3)

/-- The controller hears that the log has entered FAULT (R80, R88, R101). -/
def captureFault (s : State) : State :=
  match s.ctl.state with
  | .stopped => s
  | .running => stopCapture .fault s
  | .posting => faultClose s
  | .closing => faultClose s

/-- The KEPT snapshot of a CLOSING entry has committed (R100). An entry that R101 has made KEPT changes nothing. -/
def keptCommitted (num : Nat) (s : State) : State :=
  match findEntry s.dir num with
  | none => s
  | some e =>
    if e.state = .closing then
      let s1 := s.setDir (changeEntry s.dir num (fun x => { x with state := .kept }))
      let s2 := (s1.setLog { s1.log with capturingRec := 0 }).setCtl { s1.ctl with keptAsked := false }
      let s3 := raiseEvent .controller (.recordingKept num e.reason e.first (e.last.getD 0) e.blocks.length) s2
      match s3.ctl.target with
      | some .running =>
        if s3.ctl.settings.rearm then
          s3.setCtl { s3.ctl with
            state := .running, target := none,
            holdoffTimer := if s3.ctl.settings.holdoff = 0 then none else some s3.ctl.settings.holdoff }
        else enterStopped (offerRunStop .singleShot s3)
      | some .stopped => enterStopped s3
      | none => enterStopped s3
    else s

/-- The CAPTURING snapshot has committed: TRIGGERED is raised while the recording is CAPTURING or CLOSING, and the
closing may go on (R94, R100). -/
def capturingCommitted (num : Nat) (s : State) : State :=
  match findEntry s.dir num with
  | none => s
  | some e =>
    if e.state = .capturing ∨ e.state = .closing then
      keptCheck (raiseEvent .controller (.triggered num e.source e.trigLost e.trigSeq e.trigTime e.first) s)
    else s

/-! ### Triggers (R89 to R93, R96) -/

/-- The first number from `num` on, with the wrap, that no entry holds (R96). -/
def freeNumber (d : Directory) : Nat → Nat → Nat
  | 0, num => num
  | n + 1, num => if (findEntry d num).isSome then freeNumber d n (nextNumber num) else num

/-- The History List blocks that the pre-trigger window takes, oldest first (R92). -/
def windowBlocks (l : LogManager) (origin window : Nat) : List Nat :=
  ((l.history.reverse.takeWhile (fun b => decide (origin ≤ upperBound l b))).take window).reverse

/-- The block list of a new recording (R92). -/
def triggerBlocks (s : State) : List Nat :=
  windowBlocks s.log s.ctl.runOrigin s.ctl.settings.window ++ s.log.active.toList

/-- The first record sequence of a new recording: the formula of R93, also for a mark taken so late that its own
sequence lies below it (DESIGN CHOICE, log 44). -/
def triggerFirst (s : State) (blocks : List Nat) : Nat :=
  max s.ctl.runOrigin (match blocks with
    | [] => oldestHeld s.packer
    | b :: _ => ((blockEntry s.log b).firstSeq).getD (oldestHeld s.packer))

/-- A trigger at the controller. -/
structure Trigger where
  source : TrigSource
  seq : Nat
  time : Time
  lost : Bool
  deriving DecidableEq, Repr

/-- Outcomes of a trigger (R89). -/
inductive TrigOutcome where
  | discarded
  | ignored
  | refused
  | taken
  deriving DecidableEq, Repr

/-- The outcome of a trigger, the first condition that applies (R89): the state at the taking alone decides, also for a
mark of a run that has been stopped and followed by another (DESIGN CHOICE, log 43). -/
def triggerOutcome (s : State) : TrigOutcome :=
  match s.ctl.state with
  | .stopped => .discarded
  | .posting => .ignored
  | .closing => .ignored
  | .running =>
    if s.ctl.holdoffTimer ≠ none then .ignored
    else if s.log.active = none then .ignored
    else if Config.directoryMax ≤ s.dir.entries.length then .refused
    else .taken

/-- The entry that a trigger creates (R91). -/
def triggerEntry (s : State) (t : Trigger) (num : Nat) (blocks : List Nat) : Entry :=
  { num := num, state := .capturing, source := t.source, trigTime := t.time, trigSeq := t.seq, trigLost := t.lost,
    first := triggerFirst s blocks, last := none, reason := none, blocks := blocks, sessions := 0,
    journaled := .none }

/-- The number that the next recording takes (R96). -/
def triggerNumber (s : State) : Nat := freeNumber s.dir (Config.directoryMax + 1) s.dir.nextNumber

/-- Taking a trigger (R91). -/
def takeTrigger (t : Trigger) (s : State) : State :=
  let num := triggerNumber s
  let blocks := triggerBlocks s
  let s1 := s.setDir
    { entries := s.dir.entries ++ [triggerEntry s t num blocks], nextNumber := nextNumber num }
  let s2 := s1.setLog { blocks.foldl raiseHold s1.log with capturingRec := num }
  let s3 := s2.setCtl { s2.ctl with
    state := .posting, postEnd := t.seq + s2.ctl.settings.postCount, keptAsked := false, taken := bump s2.ctl.taken,
    postTimer := if s2.ctl.settings.postTime = 0 then none else some s2.ctl.settings.postTime }
  askJob (.capturing num blocks) s3

/-- A trigger at the controller, with the outcome of R89 (R89, R107). -/
def takeMark (t : Trigger) (s : State) : State :=
  match triggerOutcome s with
  | .discarded => s
  | .ignored => s.setCtl { s.ctl with ignored := bump s.ctl.ignored }
  | .refused =>
    raiseEvent .controller (.triggerRefused t.source t.seq s.dir.entries.length)
      (s.setCtl { s.ctl with refused := bump s.ctl.refused })
  | .taken => takeTrigger t s

/-! ### What the Packer's assignments tell the controller (R25, R98; log 12, log 13) -/

/-- The post-end sequence was assigned between two values of Next Record Sequence (R98). -/
def assignedBetween (before after seq : Nat) : Bool := decide (before ≤ seq) && decide (seq < after)

/-- After the Packer has taken records, from `before` as Next Record Sequence: posting ends with COUNT when the
post-end sequence was assigned, and capture stops when only the last sequence is left (R25, R98). -/
def packed (before : Nat) (s : State) : State :=
  let s1 := if s.ctl.state = .posting ∧ assignedBetween before s.packer.nextSeq s.ctl.postEnd = true
    then endPosting .count s else s
  if before < sequenceMax ∧ s1.packer.nextSeq = sequenceMax then stopCapture .sequenceEnd s1 else s1

/-! ### Runs (R86) -/

/-- What START-CAPTURE answers (R86). -/
inductive StartAnswer where
  | storeFault
  | busy
  | started (run origin : Nat)
  deriving DecidableEq, Repr

/-- START-CAPTURE at the controller (R86). -/
def startCapture (s : State) : State × StartAnswer :=
  if inFault s.log then (s, .storeFault)
  else if s.ctl.state ≠ .stopped then (s, .busy)
  else if acceptsRunStart s.packer = false then (s, .busy)
  else
    let run := nextNumber s.ctl.lastRun
    let p := packRunStart (flushInterval s) run s.packer
    let origin := p.nextSeq - 1
    (packed s.packer.nextSeq ((s.setPacker p).setCtl { s.ctl with
        state := .running, lastRun := run, runOrigin := origin, holdoffTimer := none, stopReason := none }),
      .started run origin)

/-! ### Block entry (R64, R97) -/

/-- A block entry is accepted (R97). -/
def acceptsBlock (s : State) (e : Entry) (b : Nat) : Bool :=
  (decide (e.state = .capturing)
      || (decide (e.state = .closing) && !s.ctl.keptAsked && decide (s.log.lastCommitted < e.last.getD 0)))
    && decide (e.blocks.length < Config.listMax) && !e.blocks.contains b

/-- The block that the writer has made ACTIVE is offered to the controller; accepted, it joins the recording's list
and gains a hold, and the 79th block of a CAPTURING recording ends posting with LENGTH (R97, R99). -/
def offerBlock (b : Nat) (s : State) : State :=
  match findEntry s.dir s.log.capturingRec with
  | none => s
  | some e =>
    if s.log.capturingRec ≠ 0 ∧ acceptsBlock s e b = true then
      let s1 := (s.setDir (changeEntry s.dir e.num (fun x => { x with blocks := x.blocks ++ [b] }))).setLog
        (raiseHold s.log b)
      if e.state = .capturing ∧ e.blocks.length + 1 = Config.listMax - 1 then endPosting .length s1 else s1
    else s

end Sys2Proof.Machine
end

