-- ==== Sys2Proof/Machine/Log.lean ====
section
/-! DEFINITION. The Log Manager (04): writing pages, block changes, erase-ahead, retirement, the log condition. -/

namespace Sys2Proof.Machine

/-! ### FAULT and retirement (R77, R80) -/

/-- The log enters FAULT; a cause that arises while it is in FAULT leaves it as it is (R80). -/
def logFault (cause : FaultCause) (s : State) : State :=
  if inFault s.log then s
  else
    raiseEvent .log (.storeFault cause) (captureFault (s.setLog { s.log with condition := .fault cause }))

/-- A block that has become RETIRED is added to the Retired List, which is journaled and announced; the 32nd puts
the log in FAULT (R77). -/
def addRetired (b : Nat) (cause : RetireCause) (s : State) : State :=
  let retired := s.log.retired ++ [b]
  let s1 := askJob (.retiredList false) (s.setLog { s.log with retired := retired })
  let s2 := raiseEvent .log (.blockRetired b cause retired.length) s1
  if Config.retiredMax ≤ retired.length then logFault .retiredLimit s2 else s2

/-- A block's State changed in the Block Table. -/
def setBlockState (l : LogManager) (b : Nat) (st : BlockState) : LogManager :=
  setBlockEntry l b { blockEntry l b with state := st }

/-! ### The candidate search (R67, R72, R74) -/

/-- The block after a block in ring order (R67). -/
def ringNext (b : Nat) : Nat := if b < Config.lastLogBlock then b + 1 else Config.firstLogBlock

/-- A block may be chosen for erase (R72). -/
def isCandidate (l : LogManager) (b : Nat) : Bool :=
  decide (holdOf l b = 0) && (decide ((blockEntry l b).state = .filled) || decide ((blockEntry l b).state = .stale))
    && decide (l.active ≠ some b)

/-- The first candidate among the next `n` blocks in ring order, `b` the first of them (R67, R72). -/
def findCandidate (l : LogManager) : Nat → Nat → Option Nat
  | 0, _ => none
  | n + 1, b => if isCandidate l b then some b else findCandidate l n (ringNext b)

/-- The candidate after the ring position (R67, R72). -/
def candidate (l : LogManager) : Option Nat := findCandidate l Config.ringSearch (ringNext l.ringPos)

/-- A block chosen for erase: ERASING, out of the History List, without first sequences (R72). -/
def chooseBlock (l : LogManager) (b : Nat) : LogManager :=
  setBlockEntry { l with history := l.history.filter (fun c => decide (c ≠ b)) } b
    { blockEntry l b with state := .erasing, firstSeq := none, firstPage := none }

/-- The choice announced to the Retrieval Engine: a FILLED block's records, as they stood before the choice
(R74). -/
def announceChoice (before : LogManager) (b : Nat) (s : State) : State :=
  if (blockEntry before b).state = .filled then announceBlock (firstSeqOf before b) (upperBound before b) s else s

/-- The candidate search, and the erase of what it finds (R72). -/
def searchErase (s : State) : State :=
  if inFault s.log then s
  else match candidate s.log with
    | none => s.setLog { s.log with ahead := .none }
    | some b =>
      (arrayAsk .eraseAhead (.erase b)
        (announceChoice s.log b (s.setLog { chooseBlock s.log b with ahead := .underWay b }))).1

/-! ### Writing pages (R68, R69, R71) -/

/-- The buffer that waits for a page: a WRITING buffer whose program has failed, or the oldest FULL one while none
is WRITING (R68). -/
def waitingBuffer (s : State) : Option BufId :=
  match bufIn s.packer .writing with
  | some i => if logProgramOut s.arr then none else some i
  | none => s.packer.fullOrder.head?

/-- The Capturing recording field of a page written in a block (R64). -/
def capturingField (s : State) (b : Nat) : Nat :=
  match findEntry s.dir s.log.capturingRec with
  | none => 0
  | some e => if e.blocks.contains b then s.log.capturingRec else 0

/-- The header of a LOG page (R69). -/
def logHeader (s : State) (pageSeq b : Nat) (x : Buffer) : PageHeader :=
  { kind := .log, pageSeq := pageSeq, run := x.run, capturing := capturingField s b, firstSeq := firstRecord x,
    count := x.recs.length, used := usedBytes x }

/-- A buffer is handed in at the next page of the active block, and is WRITING (R41, R68, R69). -/
def handIn (i : BufId) (b : Nat) (s : State) : State :=
  let x := drawPageSeq s
  let buf := getBuf s.packer i
  let p := if buf.state = .full then takeBuf i s.packer else s.packer
  let s1 := (x.2.setPacker p).setLog { x.2.log with condition := if inFault x.2.log then x.2.log.condition else .normal }
  (arrayAsk .logWriter (.program b s.log.nextPage (logHeader s x.1 b buf) (.log buf.recs)) s1).1

/-- The active block is left: FILLED and at the tail of the History List, or RETIRED after a failed program
(R71 step 1, R75). -/
def leaveActive (s : State) : State :=
  match s.log.active with
  | none => s
  | some a =>
    if s.log.failing then
      addRetired a .program (s.setLog { setBlockState s.log a .retired with
        active := none, nextPage := 16, failing := false })
    else s.setLog { setBlockState s.log a .filled with
      active := none, nextPage := 16, history := s.log.history ++ [a] }

/-- The prepared block becomes ACTIVE (R71 step 2). -/
def makeActive (b : Nat) (s : State) : State :=
  s.setLog { setBlockState s.log b .active with
    active := some b, nextPage := 0, failing := false, ringPos := b, ahead := .none }

/-- A block change to the prepared block, up to the candidate search; when leaving the active block puts the log in
FAULT, the change ends there (R71; log 35). -/
def blockChange (b : Nat) (s : State) : State :=
  let s1 := leaveActive s
  if inFault s1.log then s1 else searchErase (offerBlock b (makeActive b s1))

/-- The condition while a buffer waits and no page is available (R78, R79). -/
def noPage (s : State) : State :=
  match s.log.ahead with
  | .underWay _ => s.setLog { s.log with condition := .waiting }
  | .prepared _ => s
  | .none =>
    if s.log.condition = .full then s
    else
      raiseEvent .log
        (.logFull (s.log.table.filter (fun x => decide (x.2.hold ≠ 0))).length s.log.retired.length)
        (s.setLog { s.log with condition := .full, resumedPending := true })

/-- A waiting buffer is handed in when the active block has a page (R68). -/
def handWaiting (i : BufId) (s : State) : State :=
  match s.log.active with
  | none => s
  | some b => if s.log.nextPage ≤ 15 ∧ inFault s.log = false then handIn i b s else s

/-- The check of the Log Writer, made in each happening that can satisfy it: a waiting buffer is handed in, after a
block change if it needs one, or the condition becomes WAITING or FULL (R68, R71, R78, R79). -/
def logKick (s : State) : State :=
  if s.seqr.part ≠ .ready ∨ inFault s.log = true ∨ logProgramOut s.arr = true then s
  else match waitingBuffer s with
    | none => s
    | some i =>
      if s.log.active ≠ none ∧ s.log.nextPage ≤ 15 then handWaiting i s
      else match s.log.ahead with
        | .prepared b => handWaiting i (blockChange b s)
        | .underWay _ => noPage s
        | .none => noPage s

/-! ### Results (R70, R73, R75, R76) -/

/-- The committed page's sequences become the block's first ones when it has none (R70). -/
def noteFirst (l : LogManager) (b : Nat) (h : PageHeader) : LogManager :=
  if (blockEntry l b).firstSeq = none then
    setBlockEntry l b { blockEntry l b with firstSeq := some h.firstSeq, firstPage := some h.pageSeq }
  else l

/-- The WRITING buffer is returned to the Packer (R41, R70). -/
def returnWriting (s : State) : State :=
  match bufIn s.packer .writing with
  | none => s
  | some i => packed s.packer.nextSeq (s.setPacker (returnBuf (flushInterval s) i s.packer))

/-- LOG_RESUMED is raised if it is pending (R70, R79). -/
def raiseResumed (seq : Nat) (s : State) : State :=
  if s.log.resumedPending then
    raiseEvent .log (.logResumed seq) (s.setLog { s.log with resumedPending := false })
  else s

/-- A Log Writer program has returned COMMITTED (R70). The sessions that it wakes hand in their reads before the closing
recording asks for its KEPT snapshot (DESIGN CHOICE, log 52). -/
def logCommitted (b : Nat) (h : PageHeader) (s : State) : State :=
  let s1 := s.setLog { noteFirst s.log b h with
    nextPage := s.log.nextPage + 1, lastCommitted := h.firstSeq + h.count - 1,
    pagesCommitted := bump s.log.pagesCommitted }
  logKick (raiseResumed h.firstSeq (keptCheck (wakeSessions (returnWriting s1))))

/-- A Log Writer program has returned FAILED (R75). -/
def logFailed (s : State) : State :=
  logKick (s.setLog { s.log with
    nextPage := s.log.nextPage + 1, failing := true, programFailures := bump s.log.programFailures })

/-- An Erase-ahead erase has returned ERASED (R73). -/
def eraseAheadErased (b : Nat) (s : State) : State :=
  logKick (s.setLog { setBlockState s.log b .erased with ahead := .prepared b })

/-- An Erase-ahead erase has returned FAILED (R76; in FAULT, R80). -/
def eraseAheadFailed (b : Nat) (s : State) : State :=
  let s1 := s.setLog { setBlockState s.log b .retired with
    ahead := .none, eraseFailures := bump s.log.eraseFailures }
  if inFault s.log then s1 else logKick (searchErase (addRetired b .erase s1))

/-! ### Release (R65) -/

/-- The release claim of a removed entry: holds fall, and erase-ahead searches when it has neither a prepared block
nor an erase (R65, R79). -/
def releaseClaim (blocks : List Nat) (s : State) : State :=
  let s1 := s.setLog (blocks.foldl lowerHold s.log)
  if s1.log.ahead = .none then logKick (searchErase s1) else s1

end Sys2Proof.Machine
end

