-- ==== Sys2Proof/Machine/JournalResults.lean ====
section
/-! DEFINITION. What the Journal Writer does with the results of its programs and erases (06). -/

namespace Sys2Proof.Machine

/-! ### Reports of journal commits (R109, R112) -/

/-- The journaled state of the entry that a SNAPSHOT page names (R109). -/
def noteJournaled (record : PageRecord) (s : State) : State :=
  match record with
  | .snapshot x => s.setDir (changeEntry s.dir x.num (fun e => { e with journaled := journaledOf x.state }))
  | .released _ => s
  | .retiredList _ => s

/-- A RETIRED_LIST job that the committed page covers. -/
def isCovered : Job → Bool
  | .retiredList c => c
  | _ => false

/-- Waiting RETIRED_LIST jobs that a committed RETIRED_LIST page covers leave the list (R112, R115). -/
def dropCovered (record : PageRecord) (waiting : List Job) : List Job :=
  match record with
  | .retiredList _ => waiting.filter (fun j => !isCovered j)
  | _ => waiting

/-- The RELEASED page has committed: the entry leaves, its holds fall, the release is answered (R105, R65). The claim's
candidate search, which can place a session's end frame, comes before the answer (DESIGN CHOICE, log 38). -/
def releaseCommitted (num : Nat) (s : State) : State :=
  match findEntry s.dir num with
  | none => respond .ok [] s
  | some e => respond .ok [] (releaseClaim e.blocks (s.setDir (removeEntry s.dir num)))

/-- The FROZEN snapshot has committed: the entry is FROZEN and the freeze is answered (R106). -/
def freezeCommitted (num : Nat) (s : State) : State :=
  respond .ok [] (s.setDir (changeEntry s.dir num (fun e => { e with state := .frozen })))

/-- A journal job's commit, reported to its asker (R112). -/
def reportCommit (j : Job) (s : State) : State :=
  match j with
  | .capturing num _ => capturingCommitted num s
  | .kept num => keptCommitted num s
  | .released num => releaseCommitted num s
  | .frozen num => freezeCommitted num s
  | .retiredList _ => s
  | .saveProfile _ => s
  | .clearProfile => s

/-! ### The Directory Area cannot be erased (R118) -/

/-- The journal jobs of a list, which end with FAULT, and the profile jobs, which stay (R118). -/
def journalJobs (jobs : List Job) : List Job := jobs.filter (fun j => !isProfileJob j)
def profileJobs (jobs : List Job) : List Job := jobs.filter isProfileJob

/-- The Journal Writer cannot erase a Directory Area block: the log enters FAULT, the directory-usable flag is
cleared, and every journal job ends with FAULT (R118). -/
def directoryFault (s : State) : State :=
  let s1 := logFault .directoryErase s
  let ended := journalJobs s1.jrnl.jobs
  let s2 := s1.setJrnl { s1.jrnl with usable := false, jobs := profileJobs s1.jrnl.jobs, comp := Compaction.initial }
  serveNext (ended.foldl (fun t j => endFaulted j t) s2)

/-- The job compacts again, or, when three compactions have begun for it, the area cannot be used (R117). -/
def compactAgain (s : State) : State :=
  if s.jrnl.comp.begun < Config.compactionMax then beginCompaction s else directoryFault s

/-- The head job is handed in again, or compacts again when no page is left (R113, R117). -/
def appendAgain (j : Job) (s : State) : State :=
  match s.jrnl.cur with
  | some b =>
    if s.jrnl.nextPage ≤ 15 then
      programJournal b s.jrnl.nextPage .append (jobRecord s j) (s.setJrnl { s.jrnl with state := .appending })
    else compactAgain s
  | none => compactAgain s

/-! ### Results of programs and erases in the Directory Area -/

/-- A failed program in the Directory Area is counted (R113, R117, R124). -/
def countDirFailure (w : JournalWriter) : JournalWriter := { w with dirFailures := bump w.dirFailures }

/-- An append has committed (R112). -/
def appendCommitted (record : PageRecord) (s : State) : State :=
  match s.jrnl.jobs with
  | [] => s
  | j :: rest =>
    let s1 := noteJournaled record
      (s.setJrnl { s.jrnl with nextPage := s.jrnl.nextPage + 1, jobs := dropCovered record rest })
    serveNext (reportCommit j s1)

/-- An append has failed (R113). -/
def appendFailed (s : State) : State :=
  match s.jrnl.jobs with
  | [] => s
  | j :: _ => appendAgain j (s.setJrnl (countDirFailure { s.jrnl with nextPage := s.jrnl.nextPage + 1 }))

/-- A COPY page has committed: the next position follows, or the set is complete, its block becomes current and the
job is appended (R115). -/
def copyCommitted (record : PageRecord) (s : State) : State :=
  match s.jrnl.jobs with
  | [] => s
  | j :: rest =>
    let c := s.jrnl.comp
    let s1 := noteJournaled record s
    if c.pos ≤ c.set.length then
      let s2 := s1.setJrnl { s1.jrnl with comp := { c with page := c.page + 1, pos := c.pos + 1 } }
      if c.page + 1 ≤ 15 then programCopy s2 else compactAgain s2
    else
      appendAgain j (s1.setJrnl { s1.jrnl with
        cur := some c.target, nextPage := c.page + 1, state := .appending, jobs := j :: dropCovered record rest })

/-- A COPY page has failed: the same position goes to the next page, or the compaction begins again (R117). -/
def copyFailed (s : State) : State :=
  let c := s.jrnl.comp
  let s1 := s.setJrnl (countDirFailure { s.jrnl with comp := { c with page := c.page + 1 } })
  if c.page + 1 ≤ 15 then programCopy s1 else compactAgain s1

/-- The target of a compaction is erased: the set is fixed and its first page is handed in (R115, step 2). -/
def compactErased (s : State) : State :=
  programCopy (s.setJrnl { s.jrnl with comp := { s.jrnl.comp with page := 0, set := copySet s.dir, pos := 1 } })

/-! ### Results of profile jobs (R121 to R123) -/

/-- A profile job leaves the list with an answer, and the next job is served. -/
def endProfile (st : Status) (result : Bytes) (s : State) : State :=
  serveNext (respond st result (s.setJrnl { s.jrnl with jobs := s.jrnl.jobs.drop 1 }))

/-- A profile job ends with STORE_FAULT, counted (R122, R123). -/
def profileFailed (s : State) : State :=
  endProfile .storeFault [] (s.setJrnl { s.jrnl with profFailures := bump s.jrnl.profFailures })

/-- The generation that a save writes (R121). -/
def newGeneration (w : JournalWriter) : Nat := w.generation + 1

/-- A profile page handed in with a newly drawn page sequence (R121). -/
def programProfile (page : Nat) (d : PageData) (s : State) : State :=
  let x := drawPageSeq s
  (arrayAsk .journal (.program (profileTarget s.jrnl.validBlock) page (ownHeader .profile x.1 d) d) x.2).1

/-- Page 0 of a profile (6.6). -/
def profilePage0 (g : Nat) (p : Profile) : PageData := .profile0 g p.settings p.dflt p.managers p.notify

/-- Page 1 of a profile (6.6). -/
def profilePage1 (g : Nat) (p : Profile) : PageData := .profile1 g p.rules

/-- An erase of a profile job has returned ERASED (R121, R123). -/
def profileErased (s : State) : State :=
  match s.jrnl.jobs with
  | .saveProfile p :: _ =>
    programProfile 0 (profilePage0 (newGeneration s.jrnl) p) (s.setJrnl { s.jrnl with profStep := 1 })
  | .clearProfile :: _ =>
    if s.jrnl.profStep = 0 then
      (arrayAsk .journal (.erase (5 - profileTarget s.jrnl.validBlock))
        (s.setJrnl { s.jrnl with profStep := 1 })).1
    else endProfile .ok [] (s.setJrnl { s.jrnl with validBlock := none, generation := 0 })
  | _ => s

/-- An erase of a profile job has returned FAILED; the second of CLEAR-PROFILE leaves no valid profile (R122,
R123). -/
def profileEraseFailed (s : State) : State :=
  match s.jrnl.jobs with
  | .saveProfile _ :: _ => profileFailed s
  | .clearProfile :: _ =>
    if s.jrnl.profStep = 0 then profileFailed s
    else profileFailed (s.setJrnl { s.jrnl with validBlock := none, generation := 0 })
  | _ => s

/-- A profile page has committed: page 1 follows page 0, and with page 1 the profile is switched (R121). -/
def profileCommitted (s : State) : State :=
  match s.jrnl.jobs with
  | .saveProfile p :: _ =>
    if s.jrnl.profStep = 1 then
      programProfile 1 (profilePage1 (newGeneration s.jrnl) p) (s.setJrnl { s.jrnl with profStep := 2 })
    else
      endProfile .ok (be 4 (newGeneration s.jrnl))
        (s.setJrnl { s.jrnl with
          validBlock := some (profileTarget s.jrnl.validBlock), generation := newGeneration s.jrnl })
  | _ => s

/-! ### Dispatch on the journal state (6.2) -/

/-- The page record of journal page data. -/
def recordOf : PageData → PageRecord
  | .journal j => j.record
  | _ => .retiredList []

/-- A program of the Journal Writer has returned its result. -/
def journalProgrammed (d : PageData) (ok : Bool) (s : State) : State :=
  match s.jrnl.state with
  | .idle => s
  | .appending => if ok then appendCommitted (recordOf d) s else appendFailed s
  | .compacting => if ok then copyCommitted (recordOf d) s else copyFailed s
  | .profile => if ok then profileCommitted s else profileFailed s

/-- An erase of the Journal Writer has returned its result. -/
def journalErased (ok : Bool) (s : State) : State :=
  match s.jrnl.state with
  | .idle => s
  | .appending => s
  | .compacting => if ok then compactErased s else directoryFault s
  | .profile => if ok then profileErased s else profileEraseFailed s

end Sys2Proof.Machine
end

