-- ==== Sys2Proof/Machine/Mount.lean ====
section
/-! DEFINITION. The mount scan of the Start-up Sequencer (11). One operation of the scan is outstanding at a time;
`scan` says which, and its result moves the scan on (R182). -/

namespace Sys2Proof.Machine

/-- The scan's next operation is handed in, and named by its step (R58, R182). -/
def scanAsk (step : ScanStep) (req : ArrayReq) (s : State) : State :=
  (arrayAsk .sequencer req (s.setSeqr { s.seqr with scan := step })).1

/-- A phase begins (R182). -/
def setPhase (k : Nat) (s : State) : State := s.setSeqr { s.seqr with phase := k }

/-! ### Phase 1: profile load (R183) -/

/-- The page that the k-th read of phase 1 names: pages 0 and 1 of block 2, then of block 3. -/
def profileRead (k : Nat) : ArrayReq := .read (2 + k / 2) (k % 2)

/-- The header that a read returned. -/
def headerOf : ReadResult → Option PageHeader
  | .committed h _ _ => some h
  | .corrupt h _ => some h
  | _ => none

/-- The highest page sequence seen, with a read's header taken in (R183, R184). -/
def seeSeq (m : Nat) (r : ReadResult) : Nat :=
  match headerOf r with
  | none => m
  | some h => max m h.pageSeq

/-- The profile that phase 1 takes: of the valid ones the one with the higher generation (R183), and block 2's of two of
one generation (DESIGN CHOICE, log 51). -/
def chooseProfile (p2 p3 : Option (Nat × Profile)) : Option (Nat × Nat × Profile) :=
  match p2, p3 with
  | none, none => none
  | some (g, p), none => some (2, g, p)
  | none, some (g, p) => some (3, g, p)
  | some (g2, q2), some (g3, q3) => if g2 < g3 then some (3, g3, q3) else some (2, g2, q2)

/-- A profile installed at the classifier, the Capture Controller, the Management Unit and the Notice Unit (R2,
R183). -/
def installProfile (b g : Nat) (p : Profile) (s : State) : State :=
  ((((s.setCls (installRules s.cls p)).setCtl { s.ctl with settings := p.settings }).setMgmt
      { s.mgmt with managers := p.managers }).setNotice { s.notice with settings := p.notify }).setJrnl
    { s.jrnl with validBlock := some b, generation := g }

/-- The end of phase 1: a valid profile is installed, and phase 2 begins (R183). -/
def endPhase1 (got : List ReadResult) (s : State) : State :=
  let s1 := match chooseProfile (readProfile (got.getD 0 .blank) (got.getD 1 .blank))
      (readProfile (got.getD 2 .blank) (got.getD 3 .blank)) with
    | none => s
    | some (b, g, p) => installProfile b g p s
  scanAsk (.journal 0) (.read 0 0) (setPhase 2 s1)

/-- A read of phase 1 has returned (R183). -/
def mountProfile (k : Nat) (r : ReadResult) (s : State) : State :=
  let got := s.seqr.profileGot ++ [r]
  let s1 := s.setSeqr { s.seqr with profileGot := got, maxSeq := seeSeq s.seqr.maxSeq r }
  if k < 3 then scanAsk (.profile (k + 1)) (profileRead (k + 1)) s1 else endPhase1 got s1

/-! ### Phase 2: journal replay (R184) -/

/-- A page that takes part in replay. -/
abbrev JPage := Nat × PageHeader × JournalPage

/-- The journal page that a read of a block gives, if it takes part (R184). -/
def journalPageOf (b : Nat) : ReadResult → Option JPage
  | .committed h _ (.journal j) => if h.kind = .journal then some (b, h, j) else none
  | _ => none

/-- The entry that a SNAPSHOT page gives (R184). -/
def entryOf (x : Snapshot) : Entry :=
  { num := x.num,
    state := match x.state with
      | .capturing => .capturing
      | .kept => .kept
      | .frozen => .frozen,
    source := x.source, trigTime := x.trigTime, trigSeq := x.trigSeq, trigLost := x.trigLost, first := x.first,
    last := x.last, reason := x.reason, blocks := x.blocks, sessions := 0, journaled := journaledOf x.state }

/-- One page replayed into the entries, pages taken oldest first: the newest page of a recording decides (R184). -/
def replayEntry (es : List Entry) (j : JournalPage) : List Entry :=
  match j.record with
  | .snapshot x => es.filter (fun e => decide (e.num ≠ x.num)) ++ [entryOf x]
  | .released num => es.filter (fun e => decide (e.num ≠ num))
  | .retiredList _ => es

/-- One page replayed into the Retired List (R184). -/
def replayRetired (bs : List Nat) (j : JournalPage) : List Nat :=
  match j.record with
  | .retiredList xs => xs
  | _ => bs

/-- A committed COPY page of a set of a size at a position stands among a block's pages (R114). -/
def hasCopy (pages : List JPage) (b size pos : Nat) : Bool :=
  pages.any (fun x => decide (x.1 = b) && (match x.2.2.role with
    | .copy n p => decide (n = size) && decide (p = pos)
    | .append => false))

/-- A committed COPY page at every position from 1 to `n` (R114). -/
def copiesUpTo (pages : List JPage) (b size : Nat) : Nat → Bool
  | 0 => true
  | n + 1 => copiesUpTo pages b size n && hasCopy pages b size (n + 1)

/-- The block's compaction set is complete (R114). -/
def setComplete (pages : List JPage) (b : Nat) : Bool :=
  pages.any (fun x => decide (x.1 = b) && (match x.2.2.role with
    | .copy n _ => decide (1 ≤ n) && copiesUpTo pages b n n
    | .append => false))

/-- Pages in order of page sequence, oldest first (R184). -/
def sortPages (pages : List JPage) : List JPage := sortBy (fun x => x.2.1.pageSeq) pages

/-- The current block: of those whose set is complete, the one that holds the newest page (R184). -/
def currentBlock (pages : List JPage) : Option Nat :=
  (((sortPages pages).filter (fun x => setComplete pages x.1)).getLast?).map (fun x => x.1)

/-- The next page of the Directory Area position (R184). -/
def currentNext (q : Sequencer) : Option Nat → Nat
  | none => 16
  | some b => if b = 0 then q.dirEnd0 else q.dirEnd1

/-- The end of phase 2: the directory, the Retired List, the next recording number and the position are formed, and
phase 3 begins (R184). -/
def endPhase2 (s : State) : State :=
  let pages := (sortPages s.seqr.jpages).map (fun x => x.2.2)
  let cur := currentBlock s.seqr.jpages
  let s1 := s.setDir
    { entries := pages.foldl replayEntry [], nextNumber := (pages.getLast?).elim 1 JournalPage.nextNumber }
  let s2 := s1.setLog { s1.log with retired := pages.foldl replayRetired [] }
  let s3 := s2.setSeqr { s2.seqr with dirCur := cur, dirNext := currentNext s2.seqr cur, jpages := [], profileGot := [] }
  scanAsk (.logHead Config.firstLogBlock) (.read Config.firstLogBlock 0) (setPhase 3 s3)

/-- Where the pages of a Directory Area block that do not read BLANK end, with one more read taken in (R184). -/
def noteEnd (q : Sequencer) (b page : Nat) (r : ReadResult) : Sequencer :=
  if r = .blank then q else if b = 0 then { q with dirEnd0 := page + 1 } else { q with dirEnd1 := page + 1 }

/-- A read of phase 2 has returned: a page that takes part in replay is kept, and the page sequence of every page with
a valid header, COMMITTED or CORRUPT, counts for Next Page Sequence (R69, R184). -/
def mountJournal (k : Nat) (r : ReadResult) (s : State) : State :=
  let q := noteEnd s.seqr (k / 16) (k % 16) r
  let s1 := s.setSeqr { q with
    jpages := q.jpages ++ (journalPageOf (k / 16) r).toList, maxSeq := seeSeq q.maxSeq r }
  if k < 31 then scanAsk (.journal (k + 1)) (.read ((k + 1) / 16) ((k + 1) % 16)) s1 else endPhase2 s1

/-! ### Phase 3: log scan (R185, R186) -/

/-- The header of a committed log page: COMMITTED or CORRUPT, with Kind LOG (R185). -/
def logPageOf (r : ReadResult) : Option PageHeader :=
  match headerOf r with
  | none => none
  | some h => if h.kind = .log then some h else none

/-- A committed log page noted for a block: the first one stays, the last one moves (R185). -/
def notePage (b : Nat) (h : PageHeader) (q : Sequencer) : Sequencer :=
  { q with heads := if (lookup q.heads b).isSome then q.heads else putAt q.heads b (some h),
           tails := putAt q.tails b (some h) }

/-- A read of an interrupted recording's last block noted: the block's first committed log page stays as the log scan
found it (R185, R187). -/
def noteTail (b : Nat) (r : ReadResult) (s : State) : State :=
  match logPageOf r with
  | none => s
  | some h => s.setSeqr { s.seqr with tails := putAt s.seqr.tails b (some h) }

/-- A read of a block noted, if it gave a committed log page. -/
def noteRead (b : Nat) (r : ReadResult) (s : State) : State :=
  match logPageOf r with
  | none => s
  | some h => s.setSeqr (notePage b h s.seqr)

/-- The Block Table entry of a block after the scan (R185). -/
def scannedEntry (s : State) (b : Nat) (page0 : Bool) : BlockEntry :=
  let head := lookup s.seqr.heads b
  if s.log.retired.contains b then
    { state := .retired, hold := 0, firstSeq := head.map PageHeader.firstSeq,
      firstPage := head.map PageHeader.pageSeq }
  else if page0 then
    { state := .filled, hold := 0, firstSeq := head.map PageHeader.firstSeq,
      firstPage := head.map PageHeader.pageSeq }
  else { state := .stale, hold := 0, firstSeq := none, firstPage := none }

/-- A block is entered in the Block Table (R185). -/
def enterBlock (b : Nat) (page0 : Bool) (s : State) : State :=
  s.setLog (setBlockEntry s.log b (scannedEntry s b page0))

/-- The FILLED or RETIRED block with the highest first record sequence (R186). -/
def topBlock (l : LogManager) : Option Nat :=
  l.table.foldl (fun acc x =>
    match x.2.firstSeq with
    | none => acc
    | some f => match acc with
      | none => some x.1
      | some b => if firstSeqOf l b ≤ f then some x.1 else some b) none

/-- The later of two noted pages, by first record sequence (R186). -/
def newerPage (acc : Option (Nat × PageHeader)) (x : Nat × PageHeader) : Option (Nat × PageHeader) :=
  match acc with
  | none => some x
  | some y => if y.2.firstSeq < x.2.firstSeq then some x else some y

/-- The newest committed log page, with its block (R186). -/
def newestPage (q : Sequencer) : Option (Nat × PageHeader) := q.tails.foldl newerPage (q.heads.foldl newerPage none)

/-- The last record sequence of a log page. -/
def lastOf (h : PageHeader) : Nat := h.firstSeq + h.count - 1

/-- The block of the newest page, when it came out STALE, becomes FILLED (R186). -/
def reviveBlock (b : Nat) (s : State) : State :=
  if (blockEntry s.log b).state = .stale then
    let head := lookup s.seqr.heads b
    s.setLog (setBlockEntry s.log b
      { blockEntry s.log b with
        state := .filled, firstSeq := head.map PageHeader.firstSeq, firstPage := head.map PageHeader.pageSeq })
  else s

/-- The FILLED blocks of the Block Table in ascending first record sequence (R186). -/
def filledBlocks (l : LogManager) : List Nat :=
  sortBy (firstSeqOf l) ((l.table.filter (fun x => decide (x.2.state = .filled))).map (fun x => x.1))

/-- The next page sequence after the highest one found (R69, R186). -/
def afterSeq (m : Nat) : Nat := if m < sequenceMax then m + 1 else sequenceMax

/-- The sequences set from the newest page, and the History List formed (R186). -/
def setSequences (s : State) : State :=
  match newestPage s.seqr with
  | none =>
    (s.setLog { s.log with lastCommitted := 0, ringPos := Config.lastLogBlock, nextPageSeq := afterSeq s.seqr.maxSeq,
                           history := filledBlocks s.log }).setPacker { s.packer with nextSeq := 1 }
  | some (b, h) =>
    let s1 := reviveBlock b s
    let s2 := s1.setLog { s1.log with
      lastCommitted := lastOf h, ringPos := b, nextPageSeq := afterSeq (max s1.seqr.maxSeq h.pageSeq),
      history := filledBlocks s1.log }
    (s2.setPacker { s2.packer with nextSeq := lastOf h + 1 }).setCtl { s2.ctl with lastRun := h.run }

/-! ### Phases 5 to 7 (R189 to R191) -/

/-- The log condition of a mount (R189). -/
def mountCondition (s : State) : LogCondition :=
  if Config.retiredMax ≤ s.log.retired.length then .fault .retiredLimit
  else if s.seqr.dirFault then .fault .directoryErase
  else .normal

/-- Hold counts from the block lists (R189). -/
def computeHolds (s : State) : State :=
  s.setLog ((s.dir.entries.map Entry.blocks).flatten.foldl raiseHold s.log)

/-- Phase 7: the part becomes READY, and the events of the mount are raised (R191; R110). The RETIRED_LIST job's request
is handed in ahead of the erase of the second candidate (DESIGN CHOICE, log 50). -/
def becomeReady (s : State) : State :=
  let q := s.seqr
  let s1 := s.setSeqr { q with
    part := .ready, phase := 0, scan := .none, dirEnd0 := 0, dirEnd1 := 0, dirCur := none, dirNext := 16, leftCur := none,
    leftNext := 16, maxSeq := 0, heads := [], tails := [], work := [], comp := Compaction.initial, dirFault := false,
    retiredNow := none }
  let s2 := s1.setJrnl { s1.jrnl with
    cur := q.dirCur, nextPage := q.dirNext, state := .idle, jobs := [], usable := !q.dirFault }
  let s3 := raiseEvent .sequencer (.started q.cause) s2
  let s4 := match q.retiredNow with
    | none => s3
    | some b => raiseEvent .log (.blockRetired b .erase s3.log.retired.length) (askJob (.retiredList false) s3)
  let s5 := match s4.log.condition with
    | .fault cause => raiseEvent .log (.storeFault cause) s4
    | _ => s4
  let s6 := match s5.log.ahead with
    | .underWay b => (arrayAsk .eraseAhead (.erase b) s5).1
    | _ => s5
  if s6.ctl.settings.autostart then (startCapture s6).1 else s6

/-- Phase 6: the search from the ring position, and the Sequencer's erase (R190). -/
def beginPhase6 (s : State) : State :=
  let s1 := setPhase 6 s
  if inFault s1.log then becomeReady (setPhase 7 s1)
  else match candidate s1.log with
    | none => becomeReady (setPhase 7 (s1.setLog { s1.log with ahead := .none }))
    | some b => scanAsk (.firstErase b) (.erase b) (s1.setLog { chooseBlock s1.log b with ahead := .underWay b })

/-- The Sequencer's erase of phase 6 has returned (R190). -/
def firstErased (b : Nat) (ok : Bool) (s : State) : State :=
  if ok then
    becomeReady (setPhase 7 (s.setLog { setBlockState s.log b .erased with ahead := .prepared b }))
  else
    let retired := s.log.retired ++ [b]
    let s1 := (s.setLog { setBlockState s.log b .retired with ahead := .none, retired := retired }).setSeqr
      { s.seqr with retiredNow := some b }
    if Config.retiredMax ≤ retired.length then
      becomeReady (setPhase 7 (s1.setLog { s1.log with condition := .fault .retiredLimit }))
    else match candidate s1.log with
      | none => becomeReady (setPhase 7 s1)
      | some c => becomeReady (setPhase 7 (s1.setLog { chooseBlock s1.log c with ahead := .underWay c }))

/-- Phase 5: hold counts and the log condition, then phase 6 (R189). -/
def beginPhase5 (s : State) : State :=
  let s1 := computeHolds (setPhase 5 s)
  beginPhase6 (s1.setLog { s1.log with condition := mountCondition s1 })

/-! ### Phase 4: interrupted recordings (R187, R188) -/

/-- The first committed log page of a block, as the log scan found it. -/
def headPage (s : State) (b : Nat) : Option PageHeader := lookup s.seqr.heads b

/-- The sequence below which an extension must lie above, and whether it may be equal (R187). -/
def extendsAbove (s : State) (e : Entry) (f : Nat) : Bool :=
  match e.blocks.getLast? with
  | none => decide (e.first ≤ f)
  | some b =>
    match (blockEntry s.log b).firstSeq with
    | some g => decide (g < f)
    | none => match headPage s b with
      | some h => decide (h.firstSeq < f)
      | none => decide (e.first ≤ f)

/-- The blocks that extend an interrupted recording's list, in ascending first record sequence (R187; for a STALE
block the sequence of its first committed page, log 33). -/
def extension (s : State) (e : Entry) : List Nat :=
  (sortBy (fun x : Nat × PageHeader => x.2.firstSeq)
    (s.seqr.heads.filter (fun x => decide (x.2.capturing = e.num) && extendsAbove s e x.2.firstSeq
      && !e.blocks.contains x.1))).map (fun x => x.1)

/-- The completed block list (R187). -/
def completedList (s : State) (e : Entry) : List Nat := (e.blocks ++ extension s e).take Config.listMax

/-- The last record sequence of an interrupted recording, from the last committed page of its last block (R187). -/
def interruptedLast (e : Entry) : Option PageHeader → Nat
  | none => e.first - 1
  | some h => if lastOf h < e.first then e.first - 1 else lastOf h

/-- The Directory Area compaction of the mount begins; the position it starts from is noted (R188, R115). -/
def mountCompact (num : Nat) (s : State) : State :=
  let target := compactTarget s.seqr.dirCur
  scanAsk (.compErase num) (.erase target)
    (s.setSeqr { s.seqr with
      leftCur := s.seqr.dirCur, leftNext := s.seqr.dirNext,
      comp := { target := target, page := 0, set := [], pos := 0, begun := s.seqr.comp.begun + 1 } })

/-- A page that the mount programs in the Directory Area, with a sequence drawn from Next Page Sequence (R188). -/
def mountProgram (step : ScanStep) (block page : Nat) (role : JournalRole) (record : PageRecord) (s : State) : State :=
  let x := drawPageSeq s
  let d := journalPage x.2 role record
  scanAsk step (.program block page (ownHeader .journal x.1 d) d) x.2

/-- The KEPT snapshot of a completed entry. -/
def keptRecord (s : State) (num : Nat) : PageRecord :=
  entryRecord s.dir num (fun e => snapshotOf e .kept e.blocks)

/-- The list of entries in state CAPTURING, in ascending number (R187). -/
def interruptedEntries (d : Directory) : List Nat :=
  ((sortedEntries d).filter (fun e => decide (e.state = .capturing))).map Entry.num

/-- What phase 4 does next for the entry at the head of its work. -/
inductive MountStep where
  | append (block page : Nat)
  | compact
  | fault
  deriving DecidableEq, Repr

/-- A completed entry is appended, compacts first, or finds the Directory Area unusable (R188, R117). -/
def mountStep (q : Sequencer) : MountStep :=
  match q.dirCur with
  | some b =>
    if q.dirNext ≤ 15 then .append b q.dirNext
    else if q.comp.begun < Config.compactionMax then .compact else .fault
  | none => if q.comp.begun < Config.compactionMax then .compact else .fault

/-- The last committed log page of a block, when the scan has found one above the first: pages 1 to 15 of the block
have then been read. For any other block they are read now, also where page 0 is BLANK, since a program that fails its
blank check leaves page 0 so and later pages of the block can be committed (R48, R185 to R187; log 22). -/
def tailKnown (s : State) (b : Nat) : Option PageHeader :=
  match lookup s.seqr.tails b with
  | none => none
  | some h => if (headPage s b).map PageHeader.pageSeq = some h.pageSeq then none else some h

/-- The last committed log page of an interrupted recording's last block, when it is known without a further read:
a completed list that is empty has none (R187). -/
def lastKnown (s : State) (blocks : List Nat) : Option (Option PageHeader) :=
  match blocks.getLast? with
  | none => some none
  | some b => (tailKnown s b).map some

/-- An interrupted entry completed in the directory (R187). -/
def completeEntry (num : Nat) (blocks : List Nat) (last : Nat) (s : State) : State :=
  s.setDir (changeEntry s.dir num (fun e =>
    { e with state := .kept, last := some last, reason := some .interrupted, blocks := blocks }))

/-- A completed entry goes to the journal, unless the Directory Area has failed (R188). Answers none when the entry
needs no page, so that the next entry follows. -/
def journalEntry (num : Nat) (s : State) : Option State :=
  if s.seqr.dirFault then none
  else match mountStep s.seqr with
    | .append b page => some (mountProgram (.append num) b page .append (keptRecord s num) s)
    | .compact => some (mountCompact num s)
    | .fault => none

/-- The Directory Area has failed the mount: no further entry is journaled, and the position is as it was before the
failed compaction, also where that compaction completed its set and found no page for the KEPT snapshot (R188;
log 37). -/
def mountDirFault (s : State) : State :=
  s.setSeqr { s.seqr with dirFault := true, dirCur := s.seqr.leftCur, dirNext := s.seqr.leftNext }

/-- The entries of phase 4 from the head of its work on; the last record sequence of an entry waits for the pages of
its last block when the scan has not read them. With no work left, phase 5 begins (R187, R188). -/
def workOn : Nat → State → State
  | 0, s => beginPhase5 s
  | n + 1, s =>
    match s.seqr.work with
    | [] => beginPhase5 s
    | num :: rest =>
      match findEntry s.dir num with
      | none => workOn n (s.setSeqr { s.seqr with work := rest })
      | some e =>
        let blocks := completedList s e
        let b := blocks.getLast?.getD 0
        match lastKnown s blocks with
        | none =>
          scanAsk (.lastBlock num b 1) (.read b 1)
            (s.setDir (changeEntry s.dir num (fun x => { x with blocks := blocks })))
        | some t =>
          let s1 := (completeEntry num blocks (interruptedLast e t) s).setSeqr
            { s.seqr with work := rest, comp := Compaction.initial }
          match journalEntry num s1 with
          | some s2 => s2
          | none => workOn n s1

/-- The next entry of phase 4. -/
def nextWork (s : State) : State := workOn (s.seqr.work.length + 1) s

/-- Phase 4 begins (R187). -/
def beginPhase4 (s : State) : State :=
  nextWork (setPhase 4 (s.setSeqr { s.seqr with work := interruptedEntries s.dir }))

/-- A completed entry is handed in again after a failed page, or the area has failed and the next entry follows
(R188). -/
def journalAgain (num : Nat) (s : State) : State :=
  match journalEntry num s with
  | some s1 => s1
  | none => nextWork (mountDirFault s)

/-- The last pages of an interrupted recording's last block are read; then it is completed (R187). -/
def mountLastBlock (num b page : Nat) (r : ReadResult) (s : State) : State :=
  let s1 := noteTail b r s
  if page < 15 then scanAsk (.lastBlock num b (page + 1)) (.read b (page + 1)) s1
  else match findEntry s1.dir num with
    | none => nextWork (s1.setSeqr { s1.seqr with work := s1.seqr.work.drop 1 })
    | some e =>
      let s2 := (completeEntry num e.blocks (interruptedLast e (lookup s1.seqr.tails b)) s1).setSeqr
        { s1.seqr with work := s1.seqr.work.drop 1, comp := Compaction.initial }
      match journalEntry num s2 with
      | some s3 => s3
      | none => nextWork s2

/-- The KEPT snapshot of the mount has returned (R188). -/
def mountAppended (num : Nat) (ok : Bool) (s : State) : State :=
  let s1 := s.setSeqr { s.seqr with dirNext := s.seqr.dirNext + 1 }
  if ok then nextWork (s1.setDir (changeEntry s1.dir num (fun e => { e with journaled := .kept })))
  else journalAgain num s1

/-- The mount's compaction begins again, or has failed for the third time (R188, R117). -/
def mountCompactAgain (num : Nat) (s : State) : State :=
  if s.seqr.comp.begun < Config.compactionMax then mountCompact num s else nextWork (mountDirFault s)

/-- The mount's COPY page of the position in hand (R188). -/
def mountCopy (num : Nat) (s : State) : State :=
  let c := s.seqr.comp
  mountProgram (.compCopy num) c.target c.page (.copy (c.set.length + 1) c.pos) (setRecord s c.set c.pos) s

/-- The erase of the mount's compaction has returned (R188). -/
def mountCompErased (num : Nat) (ok : Bool) (s : State) : State :=
  if ok then
    mountCopy num (s.setSeqr { s.seqr with comp := { s.seqr.comp with page := 0, set := copySet s.dir, pos := 1 } })
  else nextWork (mountDirFault s)

/-- A COPY page of the mount has returned (R188, R115, R117). -/
def mountCopied (num : Nat) (ok : Bool) (s : State) : State :=
  let c := s.seqr.comp
  if ok = false then
    let s1 := s.setSeqr { s.seqr with comp := { c with page := c.page + 1 } }
    if c.page + 1 ≤ 15 then mountCopy num s1 else mountCompactAgain num s1
  else if c.pos ≤ c.set.length then
    let s1 := s.setSeqr { s.seqr with comp := { c with page := c.page + 1, pos := c.pos + 1 } }
    if c.page + 1 ≤ 15 then mountCopy num s1 else mountCompactAgain num s1
  else journalAgain num (s.setSeqr { s.seqr with dirCur := some c.target, dirNext := c.page + 1 })

/-! ### Phase 3, its reads -/

/-- The end of phase 3: sequences are set, and phase 4 begins (R186). -/
def endPhase3 (s : State) : State := beginPhase4 (setSequences s)

/-- All blocks have been entered: the pages of the block with the highest first record sequence are read (R186). -/
def scanNewest (s : State) : State :=
  match topBlock s.log with
  | none => endPhase3 s
  | some b => scanAsk (.newest b 1) (.read b 1) s

/-- The next block of the log scan (R185). -/
def scanBlock (b : Nat) (s : State) : State :=
  if b < Config.lastLogBlock then scanAsk (.logHead (b + 1)) (.read (b + 1) 0) s else scanNewest s

/-- Page 0 of a log block has been read (R185). -/
def mountLogHead (b : Nat) (r : ReadResult) (s : State) : State :=
  match r with
  | .uncommitted => scanAsk (.logRest b 1) (.read b 1) s
  | _ => scanBlock b (enterBlock b (logPageOf r).isSome (noteRead b r s))

/-- A later page of a block whose page 0 reads UNCOMMITTED has been read (R185). -/
def mountLogRest (b page : Nat) (r : ReadResult) (s : State) : State :=
  let s1 := noteRead b r s
  if page < 15 then scanAsk (.logRest b (page + 1)) (.read b (page + 1)) s1 else scanBlock b (enterBlock b false s1)

/-- A page of the block with the highest first record sequence has been read (R186). -/
def mountNewest (b page : Nat) (r : ReadResult) (s : State) : State :=
  let s1 := noteRead b r s
  if page < 15 then scanAsk (.newest b (page + 1)) (.read b (page + 1)) s1 else endPhase3 s1

/-! ### Results of the Sequencer's operations -/

/-- A read of the mount scan has returned. -/
def mountReadDone (r : ReadResult) (s : State) : State :=
  match s.seqr.scan with
  | .none => s
  | .profile k => mountProfile k r s
  | .journal k => mountJournal k r s
  | .logHead b => mountLogHead b r s
  | .logRest b page => mountLogRest b page r s
  | .newest b page => mountNewest b page r s
  | .lastBlock num b page => mountLastBlock num b page r s
  | .append _ => s
  | .compErase _ => s
  | .compCopy _ => s
  | .firstErase _ => s

/-- A program of the mount scan has returned. -/
def mountProgramDone (ok : Bool) (s : State) : State :=
  match s.seqr.scan with
  | .append num => mountAppended num ok s
  | .compCopy num => mountCopied num ok s
  | .none => s
  | .profile _ => s
  | .journal _ => s
  | .logHead _ => s
  | .logRest _ _ => s
  | .newest _ _ => s
  | .lastBlock _ _ _ => s
  | .compErase _ => s
  | .firstErase _ => s

/-- An erase of the mount scan has returned. -/
def mountEraseDone (ok : Bool) (s : State) : State :=
  match s.seqr.scan with
  | .compErase num => mountCompErased num ok s
  | .firstErase b => firstErased b ok s
  | .none => s
  | .profile _ => s
  | .journal _ => s
  | .logHead _ => s
  | .logRest _ _ => s
  | .newest _ _ => s
  | .lastBlock _ _ _ => s
  | .append _ => s
  | .compCopy _ => s

/-- The mount scan begins at phase 1 (R181, R183). -/
def beginMount (s : State) : State := scanAsk (.profile 0) (profileRead 0) (setPhase 1 s)

end Sys2Proof.Machine
end

