-- ==== Sys2Proof/Machine/OrderlyStop.lean ====
section
/-! DEFINITION. RESTART and the orderly stop (09, R169, R170), and what ends every happening that can move the log
or the orderly stop on. -/

namespace Sys2Proof.Machine

/-- Nothing is left to drain (R170, step 3). -/
def drained (s : State) : Bool :=
  decide (s.packer.sb0.state = .empty) && decide (s.packer.sb1.state = .empty) && decide (s.packer.slot = [])
    && decide (s.jrnl.jobs = [])

/-- The log condition ends the orderly stop: FULL or FAULT (R170). -/
def stopHopeless (l : LogManager) : Bool := decide (l.condition = .full) || inFault l

/-- The part resets with cause RESTART; the own address is kept (R170, R181). -/
def restartReset (s : State) : State := beginReset .restart s.seqr.own s

/-- The drain of the orderly stop is tested (R170, step 3). -/
def drainTest (s : State) : State := if stopHopeless s.log || drained s then restartReset s else s

/-- The flush of the orderly stop, and the drain (R170, steps 2 and 3). -/
def flushAndDrain (c : Current) (s : State) : State :=
  drainTest (logKick (setStage c .draining (s.setPacker (closeFilling s.packer))))

/-- The orderly stop moves on: from the capture stop to the flush when the controller is STOPPED, and to the reset
when nothing is left to drain or the log is FULL or in FAULT (R170). -/
def settleRestart (s : State) : State :=
  match s.mgmt.current with
  | none => s
  | some c =>
    match c.stage with
    | .stopping =>
      if stopHopeless s.log then restartReset s
      else if s.ctl.state = .stopped then flushAndDrain c s
      else s
    | .draining => drainTest s
    | .handed => s
    | .journal => s
    | .replying _ _ _ _ _ => s
    | .restartWait _ => s

/-- The end of a happening: the Log Writer makes its check, and an orderly stop moves on (R68, R170; log 12). -/
def settle (s : State) : State := settleRestart (logKick s)

/-- The orderly stop begins: the Capture Controller is asked to stop with reason RESTART (R88, R170, step 1). -/
def beginStop (c : Current) (s : State) : State := stopCapture .restart (setStage c .stopping s)

/-- The unit takes the ending of its response: a discarded response is dropped, with the session it opened, and a
RESTART goes on to its orderly stop (R140, R161, R169). -/
def mgmtEnding (serial : Nat) (transmitted : Bool) (s : State) : State :=
  match s.mgmt.current with
  | none => s
  | some c =>
    match c.stage with
    | .replying k _ _ opened restart =>
      if k = serial ∧ transmitted = false then
        let s1 := match opened with
          | none => s
          | some i => loseSession i s
        if restart then beginStop c s1 else nextRequest (clearCurrent s1)
      else s
    | .restartWait k => if k = serial then beginStop c s else s
    | .handed => s
    | .journal => s
    | .stopping => s
    | .draining => s

end Sys2Proof.Machine
end

