-- ==== Sys2Proof/Machine/ArrayEnds.lean ====
section
/-! DEFINITION. The ends of array operations (03): the result, the next choice, and what the requester does
(log 9). -/

namespace Sys2Proof.Machine

/-- The requester of a READ PAGE takes its result (R43, R131, R182). -/
def readDone (who : Requester) (r : ReadResult) (s : State) : State :=
  match who with
  | .session i => sessionRead i r s
  | .sequencer => mountReadDone r s
  | .journal => s
  | .logWriter => s
  | .eraseAhead => s

/-- READ_PAGE_END (R45). -/
def execReadPageEnd (s : State) : Host.Outcome State Fault Refusal :=
  match s.arr.running with
  | none => .next s
  | some x => match x.req with
    | .read b p => .next (settle (readDone x.who (readPage s.store b p) (arrayFree s)))
    | .program _ _ _ _ => .next s
    | .erase _ => .next s

/-- The requester of a PROGRAM PAGE takes its result (R70, R75, R112, R182). -/
def programDone (who : Requester) (b : Nat) (h : PageHeader) (d : PageData) (ok : Bool) (s : State) : State :=
  match who with
  | .journal => journalProgrammed d ok s
  | .logWriter => if ok then logCommitted b h s else logFailed s
  | .sequencer => mountProgramDone ok s
  | .eraseAhead => s
  | .session _ => s

/-- PROGRAM_PAGE_END (R47, R48). -/
def execProgramPageEnd (r : ProgramEnd) (s : State) : Host.Outcome State Fault Refusal :=
  match s.arr.running with
  | none => .next s
  | some x => match x.req with
    | .program b p h d =>
      let w := programPage s.store b p h d r
      .next (settle (programDone x.who b h d w.2 (arrayFree (s.setStore w.1))))
    | .read _ _ => .next s
    | .erase _ => .next s

/-- The requester of an ERASE BLOCK takes its result (R73, R76, R115, R118, R182). -/
def eraseDone (who : Requester) (b : Nat) (ok : Bool) (s : State) : State :=
  match who with
  | .journal => journalErased ok s
  | .eraseAhead => if ok then eraseAheadErased b s else eraseAheadFailed b s
  | .sequencer => mountEraseDone ok s
  | .logWriter => s
  | .session _ => s

/-- ERASE_BLOCK_END (R49, R50). -/
def execEraseBlockEnd (r : EraseEnd) (s : State) : Host.Outcome State Fault Refusal :=
  match s.arr.running with
  | none => .next s
  | some x => match x.req with
    | .erase b =>
      let w := eraseBlock s.store b r
      .next (settle (eraseDone x.who b w.2 (arrayFree (s.setStore w.1))))
    | .read _ _ => .next s
    | .program _ _ _ _ => .next s

end Sys2Proof.Machine
end

