-- ==== Sys2Proof/Machine/CaptureRequests.lean ====
section
/-! DEFINITION. The requests executed by the Packer and the Capture Controller (02, 05). -/

namespace Sys2Proof.Machine

/-- FLUSH (R39). The answer is offered before the Log Writer makes its check (DESIGN CHOICE, log 38). -/
def execFlush (s : State) : Host.Outcome State Fault Refusal :=
  .next (takeRequest codeFlush (fun _ t =>
    settle (respond .ok (be6 t.packer.lastPlaced) (t.setPacker (closeFilling t.packer)))) s)

/-- The Time Base moved with no record written (R27). -/
def moveTime (new : Time) (s : State) : State := s.setPacker { s.packer with timeBase := new }

/-- SET_TIME (R27). The answer is offered before the Log Writer makes its check (DESIGN CHOICE, log 38). -/
def execSetTime (s : State) : Host.Outcome State Fault Refusal :=
  .next (takeRequest codeSetTime (fun r t =>
    let new : Time := BitVec.ofNat 32 (fieldAt 0 4 r.params)
    if t.packer.gateOpen = false then respond .ok (beTime t.packer.timeBase) (moveTime new t)
    else if timeSetFits t.packer then
      settle (respond .ok (beTime t.packer.timeBase)
        (packed t.packer.nextSeq (t.setPacker (packTimeSet (flushInterval t) new t.packer))))
    else respond .busy [] t) s)

/-- SET_CAPTURE (R85). -/
def execSetCapture (s : State) : Host.Outcome State Fault Refusal :=
  .next (takeRequest codeSetCapture (fun r t =>
    if t.ctl.state ≠ .stopped then respond .busy [] t
    else match readSettings r.params with
      | none => respond .badValue [] t
      | some x => respond .ok [] (t.setCtl { t.ctl with settings := x })) s)

/-- START_CAPTURE (R86). The answer is offered before the Log Writer makes its check (DESIGN CHOICE, log 38). -/
def execStartCapture (s : State) : Host.Outcome State Fault Refusal :=
  .next (takeRequest codeStartCapture (fun _ t =>
    let x := startCapture t
    match x.2 with
    | .storeFault => respond .storeFault [] x.1
    | .busy => respond .busy [] x.1
    | .started run origin => settle (respond .ok (be 2 run ++ be6 origin) x.1)) s)

/-- STOP_CAPTURE (R87): OK, with the capture state after it. The answer is offered before the Log Writer makes its
check, whose candidate choice can place a session's end frame (DESIGN CHOICE, log 38). -/
def execStopCapture (s : State) : Host.Outcome State Fault Refusal :=
  .next (takeRequest codeStopCapture (fun _ t =>
    let t1 := stopCapture .request t
    settle (respond .ok (b1 (captureStateCode t1.ctl.state)) t1)) s)

/-- The trigger that FORCE-TRIGGER is (R90). -/
def forcedTrigger (s : State) : Trigger :=
  { source := .forced, seq := s.packer.nextSeq, time := s.packer.timeBase, lost := false }

/-- FORCE_TRIGGER (R90). -/
def execForceTrigger (s : State) : Host.Outcome State Fault Refusal :=
  .next (takeRequest codeForceTrigger (fun _ t =>
    let t1 := takeMark (forcedTrigger t) t
    match triggerOutcome t with
    | .taken => respond .ok (be 2 (triggerNumber t) ++ be6 t.packer.nextSeq) t1
    | .ignored => respond .busy [] t1
    | .refused => respond .noRoom [] t1
    | .discarded => respond .busy [] t1) s)

end Sys2Proof.Machine
end

