-- ==== Sys2Proof/Machine/Links.lean ====
section
/-! DEFINITION. The happenings of the link ports, the Relay and the producers of local frames (08). -/

namespace Sys2Proof.Machine

/-! ### Link state (R141, R151, R153) -/

/-- The blocks that take a change of a port's line (R151, R153). -/
inductive LinkTaker where
  | port
  | retrieval
  | notice
  deriving DecidableEq, Repr

/-- The changes of a line that have been raised at a block; the Retrieval Engine takes no LINK UP (R140, R153). -/
def linkRaised (x : Raised) : LinkTaker → List (Port × Bool)
  | .port => x.portLink
  | .retrieval => x.retDown.map (fun p => (p, false))
  | .notice => x.noticeLink

/-- The changes raised at a block, replaced. -/
def setLinkRaised (x : Raised) (l : List (Port × Bool)) : LinkTaker → Raised
  | .port => { x with portLink := l }
  | .retrieval => { x with retDown := l.map Prod.fst }
  | .notice => { x with noticeLink := l }

/-- A new change of a line, taken first by one block, is on its way to the others (R151, R153; log 2). -/
def raiseLink (p : Port) (up : Bool) (x : Raised) (first : LinkTaker) : Raised :=
  { x with
    portLink := if first = .port then x.portLink else x.portLink ++ [(p, up)],
    retDown := if first = .retrieval ∨ up = true then x.retDown else x.retDown ++ [p],
    noticeLink := if first = .notice then x.noticeLink else x.noticeLink ++ [(p, up)] }

/-- A change of a port's line taken at one of the blocks, in any order against the others (R151): the oldest one raised
at the block, if it is the change named; with none raised there, a new change of the line, outside RESET (R141, R154).
Otherwise there is no such change, and the answer is none (log 39). -/
def takeLink (who : LinkTaker) (p : Port) (up : Bool) (s : State) : Option State :=
  match takeFirst (fun x : Port × Bool => decide (x.1 = p)) (linkRaised s.raised who) with
  | some (x, rest) => if x.2 = up then some (s.setRaised (setLinkRaised s.raised rest who)) else none
  | none =>
    if s.live = true ∧ (s.port p).line ≠ up then
      some ((s.setPort p { s.port p with line := up }).setRaised (raiseLink p up s.raised who))
    else none

/-- The endings of the local frames that a LINK DOWN discards (R151, R152). -/
def cutEndings (p : Port) (fs : List LocalFrame) : List Ending :=
  fs.map (fun f => { port := p, who := f.who, serial := f.serial, transmitted := false })

/-- LINK DOWN at the port and the Relay (R151). -/
def linkDownAt (p : Port) (s : State) : State :=
  (s.setPort p (portDown (s.port p))).setRaised { s.raised with
    endings := s.raised.endings ++ cutEndings p (cutFrames (s.port p)) }

/-- LINK_DOWN (R141, R151): the port and the Relay take a fall of the line. -/
def execLinkDown (p : Port) (s : State) : Host.Outcome State Fault Refusal :=
  match takeLink .port p false s with
  | none => .next s
  | some t => .next (linkDownAt p t)

/-- LINK UP at the port and the Relay (R153). -/
def linkUpAt (p : Port) (s : State) : State := s.setPort p (portUp (s.port p))

/-- LINK_UP (R141, R153): the port and the Relay take a rise of the line. -/
def execLinkUp (p : Port) (s : State) : Host.Outcome State Fault Refusal :=
  match takeLink .port p true s with
  | none => .next s
  | some t => .next (linkUpAt p t)

/-- A session whose requester port it is ends silently (R140). -/
def loseOnPort (p : Port) (i : SessionId) (s : State) : State :=
  if (s.session i).port = p then loseSession i s else s

/-- SESSION_LINK_LOST (R140, R151): the Retrieval Engine takes a fall of the line, before or after the Relay. A session
opened on the port after it, before the Relay takes the fall, goes on (DESIGN CHOICE, log 48). -/
def execSessionLinkLost (p : Port) (s : State) : Host.Outcome State Fault Refusal :=
  match takeLink .retrieval p false s with
  | none => .next s
  | some t => .next (loseOnPort p .two (loseOnPort p .one t))

/-- NOTICE_LINK_DOWN (R151, R179): the Notice Unit takes a fall of the line, before or after the Relay. -/
def execNoticeLinkDown (p : Port) (s : State) : Host.Outcome State Fault Refusal :=
  match takeLink .notice p false s with
  | none => .next s
  | some t => .next (noticeDown p t)

/-- NOTICE_LINK_UP (R153, R179): the Notice Unit takes a rise of the line, before or after the Relay. -/
def execNoticeLinkUp (p : Port) (s : State) : Host.Outcome State Fault Refusal :=
  match takeLink .notice p true s with
  | none => .next s
  | some t => .next (noticeUp p t)

/-! ### Reception (R142 to R145) -/

/-- FRAME_START (R142): the receiver of an UP port starts to receive; a start seen while a frame is under reception
leaves it under reception (log 31). -/
def execFrameStart (p : Port) (s : State) : Host.Outcome State Fault Refusal :=
  .next (if s.live = true ∧ (s.port p).up = true then s.setPort p { s.port p with receiving := true } else s)

/-- What a delivered frame raises at the Relay, the Management Unit and the classifier (R144). -/
def raiseFrame (p : Port) (own : Byte) (d : Delivered) (x : Raised) : Raised :=
  { x with
    relay := if goesToRelay own d.outcome d.bytes then x.relay ++ [(p, d.bytes)] else x.relay,
    requests := if goesToManagement own d.outcome d.bytes then x.requests ++ [(p, d.bytes)] else x.requests,
    classify := if goesToClassifier own d.outcome d.bytes then x.classify ++ [(p, d)] else x.classify }

/-- The frame that the receiver delivers: at most 247 bytes kept (R142, R143), with whether the part is MOUNTING
(R29; log 46). -/
def deliveredFrame (mounting : Bool) (bytes : Bytes) : Delivered :=
  { outcome := receiveOutcome bytes, bytes := bytes.take Config.frameKept, count := bytes.length,
    mounting := mounting }

/-- The end of a frame under reception: a frame of no bytes is not delivered (R142). -/
def frameEndAt (p : Port) (bytes : Bytes) (s : State) : State :=
  let port := { s.port p with receiving := false }
  if bytes = [] then s.setPort p port
  else
    let d := deliveredFrame (decide (s.seqr.part = .mounting)) bytes
    (s.setPort p { port with counters := countReceived port.counters d.outcome }).setRaised
      (raiseFrame p s.seqr.own d s.raised)

/-- FRAME_END (R142): acts on a frame whose start was seen. -/
def execFrameEnd (p : Port) (bytes : Bytes) (s : State) : Host.Outcome State Fault Refusal :=
  .next (if s.live = true ∧ (s.port p).up = true ∧ (s.port p).receiving = true then frameEndAt p bytes s else s)

/-! ### Relay queues and the transmitter (R146, R149, R150) -/

/-- RELAY_OFFER (R146): the relay queue toward the far port takes a frame delivered at the port. -/
def execRelayOffer (p : Port) (s : State) : Host.Outcome State Fault Refusal :=
  match takeFirst (fun x : Port × Bytes => decide (x.1 = p)) s.raised.relay with
  | none => .next s
  | some (x, rest) =>
    .next ((s.setRaised { s.raised with relay := rest }).setPort (farPort p)
      (relayTake (s.port (farPort p)) x.2))

/-- The producer of a frame that has been sent is told TRANSMITTED (R150, R152). -/
def raiseSent (p : Port) (t : Transmission) (s : State) : State :=
  match t.origin with
  | none => s
  | some f => raiseEnding p f true s

/-- The end of a transmission: the arbiter chooses again, and a freed local place goes to the head of the waiting
list, which is told (R147, R149, R150). -/
def transmissionEndAt (p : Port) (t : Transmission) (s : State) : State :=
  let r := refill (startFrame (finishFrame (s.port p)))
  let s1 := raiseSent p t (s.setPort p r.1)
  match r.2 with
  | none => s1
  | some w => tellEntered p w s1

/-- TRANSMISSION_END (R150). -/
def execTransmissionEnd (p : Port) (s : State) : Host.Outcome State Fault Refusal :=
  match (s.port p).tx with
  | none => .next s
  | some t => .next (transmissionEndAt p t s)

/-! ### Withdrawals and endings (R148, R152) -/

/-- The producer whose withdrawal has been taken may use the port again (R147, R133). -/
def tellWithdrawn (p : Port) (who : Producer) (s : State) : State :=
  match who with
  | .mgmt => s
  | .session i => sessionWithdrawn p i s
  | .notice => noticeKick s

/-- FRAME_WITHDRAWAL (R148): one that finds nothing to withdraw changes nothing. -/
def execFrameWithdrawal (p : Port) (who : Producer) (s : State) : Host.Outcome State Fault Refusal :=
  match takeWithdrawal (s.port p) who with
  | none => .next s
  | some x => .next (tellWithdrawn p who (s.setPort p x))

/-- A producer takes an ending: the Management Unit, the Notice Unit, and a session, which takes no action
(R152). -/
def takeEnding (e : Ending) (s : State) : State :=
  match e.who with
  | .mgmt => mgmtEnding e.serial e.transmitted s
  | .session _ => s
  | .notice => noticeEnding e.serial e.transmitted s

/-- LOCAL_FRAME_ENDING (R152). -/
def execLocalFrameEnding (p : Port) (who : Producer) (s : State) : Host.Outcome State Fault Refusal :=
  match takeFirst (fun e : Ending => decide (e.port = p) && decide (e.who = who)) s.raised.endings with
  | none => .next s
  | some (e, rest) => .next (settle (takeEnding e (s.setRaised { s.raised with endings := rest })))

end Sys2Proof.Machine
end

