-- ==== Sys2Proof/Machine/RecordingRequests.lean ====
section
/-! DEFINITION. The requests of the Recording Directory and of the saved profile (05, 06). -/

namespace Sys2Proof.Machine

/-- The recording number that a request carries (12.4). -/
def recordingNumber (r : Request) : Nat := fieldAt 0 2 r.params

/-- LIST_RECORDINGS (R103). -/
def execListRecordings (s : State) : Host.Outcome State Fault Refusal :=
  .next (takeRequest codeListRecordings (fun _ t => respond .ok (listResult t.dir) t) s)

/-- The entry that a request names; number 0 names no recording (5.8). -/
def namedEntry (d : Directory) (num : Nat) : Option Entry := if num = 0 then none else findEntry d num

/-- READ_RECORDING (R104). -/
def execReadRecording (s : State) : Host.Outcome State Fault Refusal :=
  .next (takeRequest codeReadRecording (fun r t =>
    match namedEntry t.dir (recordingNumber r) with
    | none => respond .notFound [] t
    | some e => respond .ok (entryResult e) t) s)

/-- Why a release is refused, if it is: the first case of R105 that applies. -/
def releaseRefusal (l : LogManager) (e : Entry) : Option Status :=
  if e.state = .frozen then some .frozen
  else if e.state = .capturing ∨ e.state = .closing then some .busy
  else if 0 < e.sessions then some .inUse
  else if inFault l then some .storeFault
  else none

/-- RELEASE_RECORDING (R105): a release that proceeds waits for its RELEASED page. -/
def execReleaseRecording (s : State) : Host.Outcome State Fault Refusal :=
  .next (takeRequest codeReleaseRecording (fun r t =>
    match namedEntry t.dir (recordingNumber r) with
    | none => respond .notFound [] t
    | some e => match releaseRefusal t.log e with
      | some st => respond st [] t
      | none => settle (askJob (.released e.num) (awaitStore t))) s)

/-- Why a freeze is refused, if it is: the first case of R106 that applies. -/
def freezeRefusal (l : LogManager) (e : Entry) : Option Status :=
  if e.state = .frozen then some .frozen
  else if e.state = .capturing ∨ e.state = .closing then some .busy
  else if inFault l then some .storeFault
  else none

/-- FREEZE_RECORDING (R106): a freeze that proceeds waits for its FROZEN snapshot. -/
def execFreezeRecording (s : State) : Host.Outcome State Fault Refusal :=
  .next (takeRequest codeFreezeRecording (fun r t =>
    match namedEntry t.dir (recordingNumber r) with
    | none => respond .notFound [] t
    | some e => match freezeRefusal t.log e with
      | some st => respond st [] t
      | none => settle (askJob (.frozen e.num) (awaitStore t))) s)

/-- What SAVE-PROFILE saves: the values in force when it is executed, without hit counts (R121). -/
def presentProfile (s : State) : Profile :=
  { settings := s.ctl.settings, dflt := s.cls.dflt, managers := s.mgmt.managers, notify := s.notice.settings,
    rules := s.cls.rules.map clearHit }

/-- SAVE_PROFILE (R121): NO_ROOM when the valid generation is the last; otherwise a job that is answered when its
pages have committed. -/
def execSaveProfile (s : State) : Host.Outcome State Fault Refusal :=
  .next (takeRequest codeSaveProfile (fun _ t =>
    if t.jrnl.generation = counterMax then respond .noRoom [] t
    else settle (askJob (.saveProfile (presentProfile t)) (awaitStore t))) s)

/-- CLEAR_PROFILE (R123): a job that is answered when its erases have ended. -/
def execClearProfile (s : State) : Host.Outcome State Fault Refusal :=
  .next (takeRequest codeClearProfile (fun _ t => settle (askJob .clearProfile (awaitStore t))) s)

end Sys2Proof.Machine
end

