-- ==== Sys2Proof/Machine/RetrievalRequests.lean ====
section
/-! DEFINITION. The requests of the Retrieval Engine and the Notice Unit (07, 10). -/

namespace Sys2Proof.Machine

/-- The parameters of OPEN-RETRIEVAL lie in their ranges (R127). -/
def openValid (o : OpenParams) : Bool :=
  decide (o.credit ≤ Config.openCreditMax) && decide (o.follow ≤ 1) && (decide (o.follow = 0) || decide (o.source = 0))

/-- The first sequence of the session that OPEN-RETRIEVAL would open, or the refusal (R127). -/
def openFirst (s : State) (o : OpenParams) : Except Status (Option Entry × Nat) :=
  if o.source = 0 then
    match liveFirst s.log o.start (decide (o.follow = 1)) with
    | none => .error .notFound
    | some f => .ok (none, f)
  else match findEntry s.dir o.source with
    | none => .error .notFound
    | some e =>
      if e.state = .capturing ∨ e.state = .closing then .error .busy
      else match recordingFirst e o.start with
        | none => .error .notFound
        | some f => .ok (some e, f)

/-- OPEN_RETRIEVAL (R127, R128). -/
def execOpenRetrieval (s : State) : Host.Outcome State Fault Refusal :=
  .next (takeRequest codeOpenRetrieval (fun r t =>
    let o := readOpen r.params
    if openValid o = false then respond .badValue [] t
    else match freeSlot t with
      | none => respond .noRoom [] t
      | some i => match openFirst t o with
        | .error st => respond st [] t
        | .ok (e, f) =>
          answerWith .ok (b1 (sessionNumber i) ++ be6 f) (some i) false (openSession i o r.src r.port e f t)) s)

/-- The slot that a request names, when its session is the requester's and has not ended (R134, R139). -/
def ownSession (s : State) (r : Request) (i : SessionId) : Bool :=
  sessionOpen (s.session i) && decide ((s.session i).station = r.src)

/-- The credit after a grant (R134). -/
def grantedCredit (x : Session) (amount : Nat) : Nat := min Config.creditMax (x.credit + amount)

/-- A session with a grant taken in: the timer stops and a STALLED session delivers (R134). -/
def grantSession (amount : Nat) (x : Session) : Session :=
  { x with credit := grantedCredit x amount, idleTimer := false,
           state := if x.state = .stalled then .delivering else x.state }

/-- GRANT_CREDIT (R134). -/
def execGrantCredit (s : State) : Host.Outcome State Fault Refusal :=
  .next (takeRequest codeGrantCredit (fun r t =>
    let amount := fieldAt 1 1 r.params
    match slotNamed (fieldAt 0 1 r.params) with
    | none => respond .badValue [] t
    | some i =>
      if amount = 0 ∨ Config.creditMax < amount then respond .badValue [] t
      else if ownSession t r i then
        sessionPlace i
          (respond .ok (b1 (grantedCredit (t.session i) amount)) (sessionChange i (grantSession amount) t))
      else respond .notFound [] t) s)

/-- CLOSE_RETRIEVAL (R139). -/
def execCloseRetrieval (s : State) : Host.Outcome State Fault Refusal :=
  .next (takeRequest codeCloseRetrieval (fun r t =>
    match slotNamed (fieldAt 0 1 r.params) with
    | none => respond .badValue [] t
    | some i =>
      if ownSession t r i then endSession i .closed (respond .ok (be 4 (t.session i).delivered) t)
      else respond .notFound [] t) s)

/-- SET_NOTIFY (R174): the notify port is the port that the request arrived on. -/
def execSetNotify (s : State) : Host.Outcome State Fault Refusal :=
  .next (takeRequest codeSetNotify (fun r t =>
    match readNotify r.params r.port with
    | none => respond .badValue [] t
    | some x => respond .ok [] (putNotify x t)) s)

/-- ACK_NOTICE (R178). The next notice's frame is offered before the answer (R161; DESIGN CHOICE, log 38). -/
def execAckNotice (s : State) : Host.Outcome State Fault Refusal :=
  .next (takeRequest codeAckNotice (fun r t =>
    if isHead t.notice (fieldAt 0 2 r.params) then respond .ok [] (ackHead t) else respond .notFound [] t) s)

end Sys2Proof.Machine
end

