-- ==== Sys2Proof/Machine/RuleRequests.lean ====
section
/-! DEFINITION. The seven rule requests (01, 1.6). -/

namespace Sys2Proof.Machine

/-- The index parameter, the first byte of the parameters (12.4, 12.6). -/
def ruleIndex (ps : Bytes) : Nat := fieldAt 0 1 ps

/-- WRITE_RULE (R15, R16). -/
def execWriteRule (s : State) : Host.Outcome State Fault Refusal :=
  .next (takeRequest codeWriteRule (fun r t =>
    match readRuleEntry r.params with
    | none => respond .badValue [] t
    | some e =>
      if ruleIndex r.params < Config.ruleCount then
        respond .ok [] (t.setCls (setRule t.cls (ruleIndex r.params) e))
      else respond .badValue [] t) s)

/-- READ_RULE (R17). -/
def execReadRule (s : State) : Host.Outcome State Fault Refusal :=
  .next (takeRequest codeReadRule (fun r t =>
    if ruleIndex r.params < Config.ruleCount then
      let e := ruleAt t.cls (ruleIndex r.params)
      respond .ok (ruleBytes (ruleIndex r.params) e ++ be 4 e.hits) t
    else respond .badValue [] t) s)

/-- An entry moved to another State, or NOT_FOUND for an UNUSED one (R18, R19). -/
def moveRule (st : RuleState) (r : Request) (t : State) : State :=
  if ruleIndex r.params < Config.ruleCount then
    let e := ruleAt t.cls (ruleIndex r.params)
    if e.state = .unused then respond .notFound [] t
    else respond .ok [] (t.setCls (setRule t.cls (ruleIndex r.params) { e with state := st }))
  else respond .badValue [] t

/-- ENABLE_RULE (R18). -/
def execEnableRule (s : State) : Host.Outcome State Fault Refusal :=
  .next (takeRequest codeEnableRule (moveRule .enabled) s)

/-- DISABLE_RULE (R19). -/
def execDisableRule (s : State) : Host.Outcome State Fault Refusal :=
  .next (takeRequest codeDisableRule (moveRule .disabled) s)

/-- One entry changed, or all 48 with index 255 (R20, R21). -/
def changeRules (f : Rule → Rule) (r : Request) (t : State) : State :=
  if ruleIndex r.params = 255 then
    respond .ok [] (t.setCls { t.cls with rules := t.cls.rules.map f })
  else if ruleIndex r.params < Config.ruleCount then
    respond .ok [] (t.setCls (setRule t.cls (ruleIndex r.params) (f (ruleAt t.cls (ruleIndex r.params)))))
  else respond .badValue [] t

/-- CLEAR_RULE (R20). -/
def execClearRule (s : State) : Host.Outcome State Fault Refusal :=
  .next (takeRequest codeClearRule (changeRules (fun _ => Rule.cleared)) s)

/-- CLEAR_HITS (R21). -/
def execClearHits (s : State) : Host.Outcome State Fault Refusal :=
  .next (takeRequest codeClearHits (changeRules clearHit) s)

/-- SET_DEFAULT_ACTION (R22). -/
def execSetDefaultAction (s : State) : Host.Outcome State Fault Refusal :=
  .next (takeRequest codeSetDefaultAction (fun r t =>
    match actionOf (fieldAt 0 1 r.params) with
    | none => respond .badValue [] t
    | some a =>
      if defaultValid a then respond .ok [] (t.setCls { t.cls with dflt := a }) else respond .badValue [] t) s)

end Sys2Proof.Machine
end

