-- ==== Sys2Proof/Machine/Start.lean ====
section
/-! DEFINITION. POWER_ON, LINE_RESET and LEAVE_RESET (11, R181). -/

namespace Sys2Proof.Machine

/-- POWER_ON (R181): a reset with cause POWER_ON begins; the straps are sampled. -/
def execPowerOn (straps : Byte) (s : State) : Host.Outcome State Fault Refusal :=
  .next (beginReset .powerOn (strapAddress straps) s)

/-- RESET_N taken low while the part is in RESET: a RESTART's reset becomes a LINE reset, and the straps are sampled
(R181; log 27). -/
def lineInReset (straps : Byte) (s : State) : State :=
  s.setSeqr { s.seqr with
    own := strapAddress straps, cause := if s.seqr.cause = .restart then .line else s.seqr.cause }

/-- LINE_RESET (R181). -/
def execLineReset (straps : Byte) (s : State) : Host.Outcome State Fault Refusal :=
  .next (if s.seqr.part = .reset then lineInReset straps s else beginReset .line (strapAddress straps) s)

/-- The part leaves RESET: BYPASS_N is released, the Time Base starts from 0, each port takes its link state, and
the part is MOUNTING (R181, R141). -/
def leftReset (aPresent bPresent : Bool) (s : State) : State :=
  ((((s.setPortA { s.portA with line := aPresent, up := aPresent }).setPortB
      { s.portB with line := bPresent, up := bPresent }).setNotice
      { s.notice with linkA := aPresent, linkB := bPresent }).setPacker { s.packer with timeBase := 0 }).setSeqr
    { s.seqr with part := .mounting, bypass := false }

/-- LEAVE_RESET (R181): the mount scan begins at phase 1. -/
def execLeaveReset (aPresent bPresent : Bool) (s : State) : Host.Outcome State Fault Refusal :=
  .next (if s.seqr.part = .reset then beginMount (leftReset aPresent bPresent s) else s)

end Sys2Proof.Machine
end

