-- ==== Sys2Proof/Machine/Timers.lean ====
section
/-! DEFINITION. The expiries of the part's timers; an expiry acts while its timer runs (log 3). -/

namespace Sys2Proof.Machine

/-- FLUSH_TIMER_EXPIRY (R38). -/
def execFlushTimerExpiry (s : State) : Host.Outcome State Fault Refusal :=
  .next (if s.packer.flushTimer = none then s
    else settle (s.setPacker (closeFilling { s.packer with flushTimer := none })))

/-- POST_TIME_EXPIRY (R98). -/
def execPostTimeExpiry (s : State) : Host.Outcome State Fault Refusal :=
  .next (if s.ctl.postTimer = none then s
    else settle (endPosting .time (s.setCtl { s.ctl with postTimer := none })))

/-- HOLDOFF_EXPIRY (R102). -/
def execHoldoffExpiry (s : State) : Host.Outcome State Fault Refusal :=
  .next (s.setCtl { s.ctl with holdoffTimer := none })

/-- IDLE_TIMER_EXPIRY (R135). -/
def execIdleTimerExpiry (i : SessionId) (s : State) : Host.Outcome State Fault Refusal :=
  .next (if (s.session i).idleTimer then
      endSession i .timeout (sessionChange i (fun x => { x with idleTimer := false }) s)
    else s)

/-- RETRY_TIMER_EXPIRY (R177). -/
def execRetryTimerExpiry (s : State) : Host.Outcome State Fault Refusal := .next (retryExpired s)

end Sys2Proof.Machine
end

