-- ==== Sys2Proof/Machine/Traffic.lean ====
section
/-! DEFINITION. The path of a captured frame: classifier, Packer, Capture Controller (01, 02, 05), and the events
taken at the Notice Unit (10). -/

namespace Sys2Proof.Machine

/-- A result with a capture request or a trigger mark goes to the Packer; any other goes no further (R11). -/
def handResult (r : Result) (xs : List Result) : List Result :=
  if r.capture.isSome || r.mark then xs ++ [r] else xs

/-- FRAME_RECEIVED (R4, R5, R6, R11). -/
def execFrameReceived (p : Port) (s : State) : Host.Outcome State Fault Refusal :=
  match takeFirst (fun x : Port × Delivered => decide (x.1 = p)) s.raised.classify with
  | none => .next s
  | some (x, rest) =>
    let c := classify s.cls p x.2 s.packer.timeBase
    .next ((s.setCls c.1).setRaised { s.raised with
      classify := rest, results := handResult c.2 s.raised.results })

/-- CAPTURE_LOSS is raised on the first loss of a loss-free period (R34). -/
def noteLoss (t : Time) (s : State) : State :=
  if s.packer.lossFlag then s
  else raiseEvent .packer (.captureLoss t s.packer.nextSeq) (s.setPacker { s.packer with lossFlag := true })

/-- A result's trigger mark is passed to the Capture Controller (R35). -/
def passMark (r : Result) (placed : Bool) (s : State) : State :=
  if r.mark then s.setRaised { s.raised with marks := s.raised.marks ++ [markOf r placed s.packer] } else s

/-- A result taken while the gate is OPEN (R30, R32, R35). -/
def takeResult (r : Result) (s : State) : State :=
  match r.capture with
  | none => passMark r false s
  | some c =>
    let x := packCapture (flushInterval s) r c s.packer
    let s1 := s.setPacker x.1
    packed s.packer.nextSeq (passMark r x.2 (if x.2 then s1 else noteLoss r.time s1))

/-- The result is discarded whole: the gate is CLOSED, or its frame was forwarded while the part was MOUNTING, which
is never packed (R29; log 46). -/
def discardedWhole (gateOpen : Bool) (r : Result) : Bool := !gateOpen || r.mounting

/-- CLASSIFICATION_RESULT (R29, R30): a result that is not discarded whole is packed, and its mark passed on. -/
def execClassificationResult (s : State) : Host.Outcome State Fault Refusal :=
  match s.raised.results with
  | [] => .next s
  | r :: rest =>
    let s1 := s.setRaised { s.raised with results := rest }
    .next (if discardedWhole s.packer.gateOpen r then s1 else settle (takeResult r s1))

/-- TRIGGER_MARK (R89). -/
def execTriggerMark (s : State) : Host.Outcome State Fault Refusal :=
  match s.raised.marks with
  | [] => .next s
  | m :: rest =>
    .next (takeMark { source := .rule m.rule, seq := m.seq, time := m.time, lost := m.lost }
      (s.setRaised { s.raised with marks := rest }))

/-- POSTING_CLOSURE (R40): has the effect of FLUSH. -/
def execPostingClosure (s : State) : Host.Outcome State Fault Refusal :=
  .next (if s.raised.closures = 0 then s
    else settle ((s.setRaised { s.raised with closures := s.raised.closures - 1 }).setPacker (closeFilling s.packer)))

/-- NOTICE_EVENT (R175): the Notice Unit takes the oldest event that the named block has raised. -/
def execNoticeEvent (src : EventSource) (s : State) : Host.Outcome State Fault Refusal :=
  match takeFirst (fun x : EventSource × Event => decide (x.1 = src)) s.raised.events with
  | none => .next s
  | some (x, rest) => .next (takeEvent x.2 (s.setRaised { s.raised with events := rest }))

end Sys2Proof.Machine
end

