-- ==== Sys2Proof/Machine/UnitRequests.lean ====
section
/-! DEFINITION. The arrival of requests and the requests of the Management Unit itself (09). -/

namespace Sys2Proof.Machine

/-- REQUEST_ARRIVAL (R156). -/
def execRequestArrival (p : Port) (s : State) : Host.Outcome State Fault Refusal :=
  match takeFirst (fun x : Port × Bytes => decide (x.1 = p)) s.raised.requests with
  | none => .next s
  | some (x, rest) => .next (arrive p x.2 (s.setRaised { s.raised with requests := rest }))

/-- DISCOVER (R165). -/
def execDiscover (s : State) : Host.Outcome State Fault Refusal :=
  .next (takeRequest codeDiscover (fun r t => respond .ok (discoverResult t r.src) t) s)

/-- READ_STATUS (R166). -/
def execReadStatus (s : State) : Host.Outcome State Fault Refusal :=
  .next (takeRequest codeReadStatus (fun _ t => respond .ok (statusResult t) t) s)

/-- READ_COUNTERS (R167). -/
def execReadCounters (s : State) : Host.Outcome State Fault Refusal :=
  .next (takeRequest codeReadCounters (fun _ t => respond .ok (countersResult t) t) s)

/-- Every counter of R167 set to 0 at its owner (R168). -/
def clearedCounters (s : State) : State :=
  { s with
    portA := { s.portA with counters := PortCounters.initial },
    portB := { s.portB with counters := PortCounters.initial },
    cls := { s.cls with defaultHits := 0 },
    packer := { s.packer with recordsPacked := 0, capturesLost := 0 },
    log := { s.log with pagesCommitted := 0, programFailures := 0, eraseFailures := 0 },
    ctl := { s.ctl with taken := 0, ignored := 0, refused := 0 },
    jrnl := { s.jrnl with dirFailures := 0, profFailures := 0 },
    mgmt := { s.mgmt with discarded := 0, denied := 0, duplicates := 0 },
    notice := { s.notice with dropped := 0, discarded := 0 } }

/-- CLEAR_COUNTERS (R168): the values that the clear reports are those before it (log 16). -/
def execClearCounters (s : State) : Host.Outcome State Fault Refusal :=
  .next (takeRequest codeClearCounters (fun _ t => respond .ok (countersResult t) (clearedCounters t)) s)

/-- The Manager List replaced. -/
def putManagers (ms : List Byte) (s : State) : State := s.setMgmt { s.mgmt with managers := ms }

/-- SET_MANAGERS (R164). -/
def execSetManagers (s : State) : Host.Outcome State Fault Refusal :=
  .next (takeRequest codeSetManagers (fun r t =>
    if setManagersValid r.params r.src then respond .ok [] (putManagers (usedStations r.params) t)
    else respond .badValue [] t) s)

/-- RESTART (R169): OK is answered at once, and the unit waits for the ending of that frame. -/
def execRestart (s : State) : Host.Outcome State Fault Refusal :=
  .next (takeRequest codeRestart (fun _ t => answerWith .ok [] none true t) s)

end Sys2Proof.Machine
end

