-- ==== Sys2Proof/Machine/Dispatch.lean ====
section
/-! DEFINITION. The meaning of every command, one arm per row of spec/opcode_table.json. -/

namespace Sys2Proof.Machine

def exec (i : Instr) (s : State) : Host.Outcome State Fault Refusal :=
  match i with
  | .powerOn straps => Sys2Proof.Machine.execPowerOn straps s
  | .lineReset straps => Sys2Proof.Machine.execLineReset straps s
  | .leaveReset aPresent bPresent => Sys2Proof.Machine.execLeaveReset aPresent bPresent s
  | .linkDown p => Sys2Proof.Machine.execLinkDown p s
  | .linkUp p => Sys2Proof.Machine.execLinkUp p s
  | .sessionLinkLost p => Sys2Proof.Machine.execSessionLinkLost p s
  | .noticeLinkDown p => Sys2Proof.Machine.execNoticeLinkDown p s
  | .noticeLinkUp p => Sys2Proof.Machine.execNoticeLinkUp p s
  | .frameEnd p bytes => Sys2Proof.Machine.execFrameEnd p bytes s
  | .relayOffer p => Sys2Proof.Machine.execRelayOffer p s
  | .frameReceived p => Sys2Proof.Machine.execFrameReceived p s
  | .classificationResult => Sys2Proof.Machine.execClassificationResult s
  | .triggerMark => Sys2Proof.Machine.execTriggerMark s
  | .postingClosure => Sys2Proof.Machine.execPostingClosure s
  | .flushTimerExpiry => Sys2Proof.Machine.execFlushTimerExpiry s
  | .postTimeExpiry => Sys2Proof.Machine.execPostTimeExpiry s
  | .holdoffExpiry => Sys2Proof.Machine.execHoldoffExpiry s
  | .idleTimerExpiry j => Sys2Proof.Machine.execIdleTimerExpiry j s
  | .retryTimerExpiry => Sys2Proof.Machine.execRetryTimerExpiry s
  | .readPageEnd => Sys2Proof.Machine.execReadPageEnd s
  | .programPageEnd r => Sys2Proof.Machine.execProgramPageEnd r s
  | .eraseBlockEnd r => Sys2Proof.Machine.execEraseBlockEnd r s
  | .frameWithdrawal p who => Sys2Proof.Machine.execFrameWithdrawal p who s
  | .transmissionEnd p => Sys2Proof.Machine.execTransmissionEnd p s
  | .localFrameEnding p who => Sys2Proof.Machine.execLocalFrameEnding p who s
  | .requestArrival p => Sys2Proof.Machine.execRequestArrival p s
  | .discover => Sys2Proof.Machine.execDiscover s
  | .readStatus => Sys2Proof.Machine.execReadStatus s
  | .readCounters => Sys2Proof.Machine.execReadCounters s
  | .clearCounters => Sys2Proof.Machine.execClearCounters s
  | .setManagers => Sys2Proof.Machine.execSetManagers s
  | .restart => Sys2Proof.Machine.execRestart s
  | .writeRule => Sys2Proof.Machine.execWriteRule s
  | .readRule => Sys2Proof.Machine.execReadRule s
  | .enableRule => Sys2Proof.Machine.execEnableRule s
  | .disableRule => Sys2Proof.Machine.execDisableRule s
  | .clearRule => Sys2Proof.Machine.execClearRule s
  | .clearHits => Sys2Proof.Machine.execClearHits s
  | .setDefaultAction => Sys2Proof.Machine.execSetDefaultAction s
  | .flush => Sys2Proof.Machine.execFlush s
  | .setTime => Sys2Proof.Machine.execSetTime s
  | .setCapture => Sys2Proof.Machine.execSetCapture s
  | .startCapture => Sys2Proof.Machine.execStartCapture s
  | .stopCapture => Sys2Proof.Machine.execStopCapture s
  | .forceTrigger => Sys2Proof.Machine.execForceTrigger s
  | .listRecordings => Sys2Proof.Machine.execListRecordings s
  | .readRecording => Sys2Proof.Machine.execReadRecording s
  | .releaseRecording => Sys2Proof.Machine.execReleaseRecording s
  | .freezeRecording => Sys2Proof.Machine.execFreezeRecording s
  | .saveProfile => Sys2Proof.Machine.execSaveProfile s
  | .clearProfile => Sys2Proof.Machine.execClearProfile s
  | .openRetrieval => Sys2Proof.Machine.execOpenRetrieval s
  | .grantCredit => Sys2Proof.Machine.execGrantCredit s
  | .closeRetrieval => Sys2Proof.Machine.execCloseRetrieval s
  | .setNotify => Sys2Proof.Machine.execSetNotify s
  | .ackNotice => Sys2Proof.Machine.execAckNotice s
  | .noticeEvent src => Sys2Proof.Machine.execNoticeEvent src s
  | .frameStart p => Sys2Proof.Machine.execFrameStart p s

end Sys2Proof.Machine
end

