-- ==== Sys2Proof/Machine/Step.lean ====
section
/-! DEFINITION. One step: the command at the front of the queue is taken; on an empty queue a microsecond of the
Time Base passes (log 1). -/

namespace Sys2Proof.Machine

/-- A microsecond passes: the Time Base counts while the part is not in RESET, and wraps (R26; log 1). -/
def tick (s : State) : State :=
  if s.seqr.part = .reset then s else s.setPacker { s.packer with timeBase := s.packer.timeBase + 1 }

/-- One step. -/
def step (s : State) : Host.Outcome State Fault Refusal :=
  match s.pending with
  | [] => .next (tick s)
  | c :: rest => exec c (s.setPending rest)

/-- The state with the command that a word spells at the front of its queue; no word spells one (log 41). -/
def State.withFetchWord (s : State) (nbits w : Nat) : State :=
  match decodeTableWord nbits w with
  | none => s
  | some c => s.setPending (c :: s.pending)

end Sys2Proof.Machine
end

