-- ==== Sys2Proof/Safety.lean ====
section
/-! DEFINITION. What a safe run keeps, and the terms in which the claims speak. A safe run of the part is one in
which every state has the properties below; State.reset has them, and every step keeps them. -/

namespace Sys2Proof.Machine

/-! ### The Page Array -/

/-- The Page Array is in its canonical form: keys strictly rising. -/
abbrev StoreWf (s : State) : Prop := sparseWf s.store = true

/-- An operation is an ERASE BLOCK. -/
def isErase : Option Running → Bool
  | some r => match r.req with
    | .erase _ => true
    | .read _ _ => false
    | .program _ _ _ _ => false
  | none => false

/-- An erase of the block runs or is suspended. -/
def eraseOut (a : ArrayCtl) (b : Nat) : Bool := runningErase a b || suspendedErase a b

/-- While an erase is suspended the part is READY and no other erase runs (R53, R58). -/
abbrev ArrayWf (s : State) : Prop :=
  s.arr.suspended ≠ none → s.seqr.part = .ready ∧ isErase s.arr.running = false

/-- An operation that is under way may change the page: a program of it, or an erase of its block. -/
def opCovers (b p : Nat) : ArrayReq → Bool
  | .read _ _ => false
  | .program c q _ _ => decide (pageKey c q = pageKey b p)
  | .erase c => decide (c = b)

/-- No operation under way may change the page. -/
def pageAtRest (a : ArrayCtl) (b p : Nat) : Bool :=
  (match a.running with
    | none => true
    | some r => !opCovers b p r.req)
  && !suspendedErase a b

/-- How far the first stage of an erase of a block has reached, for the one that runs or is suspended with nothing else
under way that may change a page of the block (R49, R59). -/
abbrev ErasedTo (a : ArrayCtl) (b reached : Nat) : Prop :=
  (∃ x, a.running = some x ∧ x.req = .erase b ∧ x.reached = reached ∧ suspendedErase a b = false)
    ∨ ∃ e, a.suspended = some e ∧ e.block = b ∧ e.reached = reached
      ∧ ∀ x ∈ a.running, ∀ p, p ≤ 15 → opCovers b p x.req = false

/-- `store` is what a reset leaves of the Page Array (the table of R59): pages at rest stay; the page of an abandoned
program is as it was, or reads UNCOMMITTED, or reads COMMITTED with what was to be written; a page of a block under erase
reads BLANK or UNCOMMITTED, or is as it was above the reach of the first stage. -/
abbrev CutByReset (s : State) (store : List (Nat × Page)) : Prop :=
  (∀ b p, p ≤ 15 → pageAtRest s.arr b p = true → pageAt store b p = pageAt s.store b p)
    ∧ (∀ x b q h d, s.arr.running = some x → x.req = .program b q h d → q ≤ 15 → suspendedErase s.arr b = false →
        StoreWf s → pageAt store b q = pageAt s.store b q
          ∨ pageAt s.store b q = none
            ∧ (readPage store b q = .uncommitted ∨ readPage store b q = .committed h (computedChecks h d) d))
    ∧ ∀ b q reached, ErasedTo s.arr b reached → q ≤ 15 → StoreWf s →
        readPage store b q = .blank ∨ readPage store b q = .uncommitted
          ∨ reached ≤ q ∧ pageAt store b q = pageAt s.store b q

/-! ### Places and ranges -/

/-- A port's queues keep to their places, and its fairness count to 4 (R146, R149). -/
abbrev PortBounded (x : PortState) : Prop :=
  x.relayQ.length ≤ 8 ∧ x.localQ.length ≤ 4 ∧ x.fair ≤ 4

/-- Every queue keeps to its places: relay and local queues, Request Queue, Reply Cache with one entry for a station,
Notice Queue (R146, R156, R158, R175). -/
abbrev QueuesBounded (s : State) : Prop :=
  PortBounded s.portA ∧ PortBounded s.portB ∧ s.mgmt.queue.length ≤ 4 ∧ s.mgmt.cache.length ≤ 8
    ∧ noRepeats (s.mgmt.cache.map CacheEntry.station) = true ∧ s.notice.queue.length ≤ 8

/-- The part's settings lie in the ranges that the requests allow: 48 rule entries, default action, Manager List,
capture settings, notify settings (R15, R22, R84, R164, R173). -/
abbrev SettingsInRange (s : State) : Prop :=
  s.cls.rules.length = 48 ∧ s.cls.rules.all ruleValid = true ∧ defaultValid s.cls.dflt = true
    ∧ managersValid s.mgmt.managers = true ∧ settingsValid s.ctl.settings = true
    ∧ notifyValid s.notice.settings = true

/-- No counter of the part is above its maximum (00_scope, Counters). -/
abbrev CountersInRange (s : State) : Prop :=
  (counterList s).all (fun n => decide (n ≤ counterMax)) = true
    ∧ s.cls.rules.all (fun r => decide (r.hits ≤ counterMax)) = true

/-- A notice has had at most four transmissions, and one whose frame is on its way fewer than four (R177). -/
abbrev AttemptsBounded (s : State) : Prop :=
  s.notice.attempts ≤ 4 ∧ (s.notice.queue ≠ [] → s.notice.head = .queued → s.notice.attempts < 4)

/-- The credit of both sessions is at most 64 (R132). -/
abbrev CreditBounded (s : State) : Prop := s.ret.s1.credit ≤ 64 ∧ s.ret.s2.credit ≤ 64

/-- The part answers at a station address (R181). -/
abbrev OwnIsStation (s : State) : Prop := isStation s.seqr.own = true

/-! ### The staging buffers -/

/-- The staging buffers and the Control Slot (2.3, 2.6, 2.7): at most one buffer is FILLING and at most one WRITING; a
buffer is EMPTY exactly when it holds no record; the FULL buffers stand in their order once each; the Control Slot holds
records only while both buffers are FULL or WRITING; the flush timer runs only while a buffer is FILLING. -/
structure StagingWf (p : Packer) : Prop where
  filling : ∀ i j, (getBuf p i).state = .filling → (getBuf p j).state = .filling → i = j
  writing : ∀ i j, (getBuf p i).state = .writing → (getBuf p j).state = .writing → i = j
  empty : ∀ i, (getBuf p i).state = .empty ↔ (getBuf p i).recs = []
  full : ∀ i, (getBuf p i).state = .full ↔ i ∈ p.fullOrder
  order : p.fullOrder.Nodup
  slot : p.slot ≠ [] → ∀ i, (getBuf p i).state = .full ∨ (getBuf p i).state = .writing
  timer : p.flushTimer ≠ none → ∃ i, (getBuf p i).state = .filling

/-! ### The log, its requests and the directory while READY -/

/-- The first page sequence of a block, 0 where it has none. -/
def firstPageOf (l : LogManager) (b : Nat) : Nat := ((blockEntry l b).firstPage).getD 0

/-- The Block Table, canonical, the History List, the write position and erase-ahead agree (R61, R62, R66, R67, R70):
the FILLED blocks are the History List, without repeats and in the order of their first page sequences; the ACTIVE block is
the active block, the ERASED one the prepared block and the ERASING one the block under erase; they and the ring position
lie in the Log Area; and no page sequence in use is above the next one. -/
structure RingWf (l : LogManager) : Prop where
  table : sparseWf l.table = true
  filled : ∀ b, b ∈ l.history ↔ (blockEntry l b).state = .filled
  once : l.history.Nodup
  rising : l.history.Pairwise (fun b c => firstPageOf l b ≤ firstPageOf l c)
  active : ∀ b, l.active = some b ↔ (blockEntry l b).state = .active
  erased : ∀ b, l.ahead = .prepared b ↔ (blockEntry l b).state = .erased
  erasing : ∀ b, l.ahead = .underWay b ↔ (blockEntry l b).state = .erasing
  area : ∀ b, (blockEntry l b).state ≠ .stale → (blockEntry l b).state ≠ .retired → isLogBlock b = true
  ring : isLogBlock l.ringPos = true
  begun : ∀ b, (blockEntry l b).firstPage = none ↔ (blockEntry l b).firstSeq = none
  clear : ∀ b, (blockEntry l b).state = .erased ∨ (blockEntry l b).state = .erasing → (blockEntry l b).firstSeq = none
  written : ∀ b, (blockEntry l b).state = .filled ∨ l.active = some b ∧ l.failing = false ∧ l.nextPage ≠ 0 →
    (blockEntry l b).firstSeq ≠ none
  newest : ∀ a, l.active = some a → (blockEntry l a).firstSeq ≠ none → ∀ b ∈ l.history, firstPageOf l b ≤ firstPageOf l a
  drawn : ∀ b, (blockEntry l b).state = .filled ∨ l.active = some b → firstPageOf l b ≤ l.nextPageSeq
  limit : l.nextPageSeq ≤ sequenceMax

/-- The Log Writer's program of a page waits or runs. -/
def LogProgramOut (a : ArrayCtl) (b : Nat) (h : PageHeader) : Prop :=
  (∃ p d, a.logWriter = some (.program b p h d))
    ∨ ∃ x p d, a.running = some x ∧ x.who = .logWriter ∧ x.req = .program b p h d

/-- Erase-ahead's erase of a block runs. -/
def EraseAheadRuns (a : ArrayCtl) (b : Nat) : Prop :=
  ∃ x, a.running = some x ∧ x.who = .eraseAhead ∧ x.req = .erase b

/-- Erase-ahead's erase of a block is suspended. -/
def EraseAheadStands (a : ArrayCtl) (b : Nat) : Prop := ∃ e, a.suspended = some e ∧ e.who = .eraseAhead ∧ e.block = b

/-- The requests of the Log Manager at the Array Controller (R68, R69, R72): a program is of the active block, with a page
sequence that no later one precedes; an erase of erase-ahead is of the block under way, and there is one of them at most. -/
structure LogRequestsWf (l : LogManager) (a : ArrayCtl) : Prop where
  program : ∀ b h, LogProgramOut a b h → l.active = some b ∧ h.pageSeq ≤ l.nextPageSeq
    ∧ ∀ c ∈ l.history, firstPageOf l c ≤ h.pageSeq
  waits : ∀ b, a.eraseAhead = some (.erase b) → l.ahead = .underWay b
  runs : ∀ b, EraseAheadRuns a b → l.ahead = .underWay b
  stands : ∀ b, EraseAheadStands a b → l.ahead = .underWay b
  waitsAlone : ∀ b c, a.eraseAhead = some (.erase b) → ¬ EraseAheadRuns a c ∧ ¬ EraseAheadStands a c
  runsAlone : ∀ b c, EraseAheadRuns a b → ¬ EraseAheadStands a c

/-- An entry that is CAPTURING or CLOSING. -/
def isOpen (e : Entry) : Bool := decide (e.state = .capturing) || decide (e.state = .closing)

/-- The Recording Directory and the holds (R63, R64, R83, 5.3): at most 12 entries with distinct numbers; at most one is
open, it is the capturing recording, and none is open in STOPPED or RUNNING; no block list names a block twice or a block
outside the Log Area; and the hold count of every block is the number of entries whose list names it. -/
structure DirectoryWf (l : LogManager) (d : Directory) (c : CaptureState) : Prop where
  room : d.entries.length ≤ 12
  numbers : (d.entries.map Entry.num).Nodup
  one : (d.entries.filter isOpen).length ≤ 1
  closed : c = .stopped ∨ c = .running → ∀ e ∈ d.entries, isOpen e = false
  named : ∀ e ∈ d.entries, isOpen e = true → l.capturingRec = e.num
  lists : ∀ e ∈ d.entries, e.blocks.Nodup ∧ ∀ b ∈ e.blocks, isLogBlock b = true
  holds : ∀ b, holdOf l b = (d.entries.filter (fun e => decide (b ∈ e.blocks))).length

/-- The part is READY with its mount scan ended, and the log, its requests at the array and the directory agree. -/
structure ReadyWf (s : State) : Prop where
  ready : s.seqr.part = .ready
  scanned : s.seqr.scan = .none
  ring : RingWf s.log
  requests : LogRequestsWf s.log s.arr
  directory : DirectoryWf s.log s.dir s.ctl.state

/-! ### Happenings and frames -/

/-- `x` is the oldest of the raised happenings `xs` of its kind: `pre` stands before it, `post` behind it (log 2). -/
abbrev Oldest {α : Type} (kind : α → Prop) (xs pre : List α) (x : α) (post : List α) : Prop :=
  xs = pre ++ x :: post ∧ kind x ∧ ∀ y ∈ pre, ¬ kind y

/-- `u` is `s` after a block has been the first to take a new change of a port's line, to `up`, outside RESET, with the
change on its way to the other blocks as `raised` has it (R141, R151, R153; log 2). -/
abbrev FirstTakes (p : Port) (up : Bool) (raised : Raised) (s u : State) : Prop :=
  s.seqr.part ≠ .reset ∧ (s.port p).line = !up
    ∧ u = (s.setPort p { s.port p with line := up }).setRaised raised

/-- The Notice Unit takes a change of a port's line: the oldest one raised at it and not yet taken, or a new one
(R151, R153; log 2). -/
abbrev NoticeTakes (p : Port) (up : Bool) (s u : State) : Prop :=
  (∃ pre post, Oldest (fun y => y.1 = p) s.raised.noticeLink pre (p, up) post
      ∧ u = s.setRaised { s.raised with noticeLink := pre ++ post })
    ∨ (∀ y ∈ s.raised.noticeLink, y.1 ≠ p) ∧ FirstTakes p up { s.raised with
        portLink := s.raised.portLink ++ [(p, up)],
        retDown := s.raised.retDown ++ (if up = true then [] else [p]) } s u

/-- A frame offered to the port enters its local queue at once (R147). -/
abbrev LocalRoom (p : Port) (s : State) : Prop := (s.port p).up = true ∧ (s.port p).localQ.length < 4

/-- The state after a frame has entered the local queue of a port with room: it is at the tail, or on the line when the
transmitter was free (R147, R149). -/
def enqueued (p : Port) (who : Producer) (bytes : Bytes) (s : State) : State :=
  let x := s.port p
  let f : LocalFrame := { who := who, serial := s.serial, bytes := bytes }
  (s.setPort p (startFrame { x with localQ := x.localQ ++ [f] })).setSerial (s.serial + 1)

/-- A session has a frame of its own nowhere: none waits for room, no read is outstanding, and the OPEN-RETRIEVAL's
answer has been seen. -/
abbrev SessionClear (i : SessionId) (s : State) : Prop :=
  (s.session i).offered = .none ∧ (s.session i).reading = false ∧ (s.session i).replySeen = true
    ∧ isWaiting (s.session i).port (.session i) s = false

/-! ### Records in the staging buffers -/

/-- A RUN_STOP record (2.1). -/
def isRunStop (x : Record) : Bool :=
  match x.body with
  | .runStop _ _ => true
  | _ => false

/-- A GAP record (2.1). -/
def isGap (x : Record) : Bool :=
  match x.body with
  | .gap _ _ _ => true
  | _ => false

/-- The GAP record that goes ahead of the next record placed, when captures have been lost (R31, R33). -/
def lossGap (p : Packer) : List Record :=
  if p.tallyCount = 0 then []
  else [{ seq := p.nextSeq, time := p.timeBase, body := .gap p.tallyCount p.tallyFirst p.tallyLast }]

/-- A buffer closed: it is FULL, behind those that were FULL before it, and the flush timer is stopped (R38, R41). -/
def madeFull (i : BufId) (p : Packer) : Packer :=
  { setBuf p { getBuf p i with state := .full } i with fullOrder := p.fullOrder ++ [i], flushTimer := none }

/-- `q` is the Packer once no FILLING buffer stands in the way of a record of a size: there was none, or the one without
room for the record has been closed (R30, R38, R41). -/
abbrev NoRoomFor (p : Packer) (size : Nat) (q : Packer) : Prop :=
  (bufIn p .filling = none ∧ q = p)
    ∨ ∃ i, bufIn p .filling = some i ∧ 1024 < usedBytes (getBuf p i) + size
        ∧ q = madeFull i p

/-- The Packer after records that take the next sequences have opened an EMPTY buffer: ahead of them stand the Control
Slot's records and the GAP record of a lost tally, and the flush timer starts (R31, R33, R34, R38, R42). -/
def openedWith (flush : Nat) (j : BufId) (recs : List Record) (q : Packer) : Packer :=
  let all := q.slot ++ lossGap q ++ recs
  { setBuf q { state := .filling, recs := all, run := q.run } j with
    slot := [], nextSeq := q.nextSeq + (lossGap q).length + recs.length,
    lastPlaced := (all.getLast?).elim q.lastPlaced Record.seq, tallyCount := 0,
    tallyFirst := if q.tallyCount = 0 then q.tallyFirst else 0,
    tallyLast := if q.tallyCount = 0 then q.tallyLast else 0,
    recordsPacked := min counterMax (q.recordsPacked + all.length),
    lossFlag := q.lossFlag && !all.any isGap,
    flushTimer := if flush = 0 then none else some flush }

/-- `u` is the Packer once it has done what FLUSH does: the FILLING buffer is closed, if there is one (R39). -/
abbrev FlushedTo (p u : Packer) : Prop :=
  (bufIn p .filling = none ∧ u = p) ∨ ∃ i, bufIn p .filling = some i ∧ u = madeFull i p

/-- `u` is the Packer once it has taken a RUN_STOP of the run in hand: behind the GAP record of a lost tally it goes into
the FILLING buffer with room, or opens an EMPTY one, and the buffer is closed, or it waits in the Control Slot; the gate is
CLOSED (R31, R33, R36, R37). -/
abbrev StopPlaced (why : StopReason) (s : State) (u : Packer) : Prop :=
  let p := s.packer
  let next := p.nextSeq + (lossGap p).length
  let stop : Record := { seq := next, time := p.timeBase, body := .runStop s.ctl.lastRun why }
  let size := recordsSize (lossGap p ++ [stop])
  let noTally (q : Packer) : Packer := { q with
    tallyCount := 0, tallyFirst := if p.tallyCount = 0 then p.tallyFirst else 0,
    tallyLast := if p.tallyCount = 0 then p.tallyLast else 0 }
  (∃ i, bufIn p .filling = some i ∧ usedBytes (getBuf p i) + size ≤ 1024
      ∧ u = madeFull i (noTally
        { setBuf p { getBuf p i with recs := (getBuf p i).recs ++ lossGap p ++ [stop] } i with
          gateOpen := false, nextSeq := next + 1, lastPlaced := next,
          recordsPacked := min counterMax (p.recordsPacked + (lossGap p).length + 1),
          lossFlag := p.lossFlag && decide (p.tallyCount = 0) }))
    ∨ ∃ q, NoRoomFor p size q ∧ p.slot.any isRunStop = false
      ∧ ((∃ j, bufIn q .empty = some j
            ∧ u = madeFull j (openedWith s.ctl.settings.flush j [stop] { q with gateOpen := false }))
        ∨ (bufIn q .empty = none ∧ u = noTally { q with
            gateOpen := false, nextSeq := next + 1, slot := p.slot ++ lossGap p ++ [stop] }))

/-! ### Requests and answers -/

/-- The Management Unit has handed the request to the owner of the code, and the part is not in RESET (R159). -/
abbrev Handed (code : Byte) (r : Request) (s : State) : Prop :=
  s.mgmt.current = some { req := r, stage := .handed } ∧ r.code = code ∧ s.seqr.part ≠ .reset

/-- The answer can enter the local queue of the request's port at once, and no further request waits. -/
abbrev ReplyRoom (r : Request) (s : State) : Prop :=
  (s.port r.port).up = true ∧ (s.port r.port).localQ.length < 4 ∧ s.mgmt.queue = []

/-- The local frame that an answer is. -/
def replyFrame (r : Request) (st : Status) (result : Bytes) (s : State) : LocalFrame :=
  { who := .mgmt, serial := s.serial, bytes := responseFrame s.seqr.own r st result }

/-- The state after an answer that entered its local queue at once, with no further request waiting: the frame is at
the tail of that queue, or on the line when the transmitter was free; the answer is in the Reply Cache when its status,
its tag and its addressing allow that; the unit is IDLE (R158, R159, R161). -/
def replied (r : Request) (st : Status) (result : Bytes) (s : State) : State :=
  let x := s.port r.port
  let s1 := s.setPort r.port (startFrame { x with localQ := x.localQ ++ [replyFrame r st result s] })
  let cache := if st ≠ .denied ∧ st ≠ .mounting ∧ r.broadcast = false ∧ r.tag ≠ 0 ∧ r.cached = none
    then cacheStore s.mgmt.cache
      { station := r.src, code := r.code, tag := r.tag, bytes := responseFrame s.seqr.own r st result }
    else s.mgmt.cache
  (s1.setSerial (s.serial + 1)).setMgmt { s.mgmt with current := none, cache := cache }

/-- No orderly stop is under way that the end of a happening could move on (R170). -/
abbrev NoStop (s : State) : Prop :=
  ∀ c ∈ s.mgmt.current, c.stage ≠ .stopping ∧ c.stage ≠ .draining

/-- The log condition ends an orderly stop: FAULT, or FULL with no page to come (R79, R170). -/
abbrev StopHopeless (l : LogManager) : Prop :=
  inFault l = true ∨ (l.condition = .full ∧ l.ahead = .none ∧ (l.active = none ∨ 15 < l.nextPage))

/-- Nothing is left to drain: both buffers, the Control Slot and the Journal Writer's job list are empty (R170). -/
abbrev Drained (p : Packer) (j : JournalWriter) : Prop :=
  p.sb0.state = .empty ∧ p.sb1.state = .empty ∧ p.slot = [] ∧ j.jobs = []

/-- The Log Writer's check finds nothing to do: a page is being written, or no buffer waits for one, or the log is in
FAULT, or the part is not READY (R68). -/
abbrev LogQuiet (s : State) : Prop :=
  s.seqr.part ≠ .ready ∨ inFault s.log = true ∨ logProgramOut s.arr = true ∨ waitingBuffer s = none

/-- No request waits at the Array Controller and no erase is suspended. -/
abbrev ArrayAlone (a : ArrayCtl) : Prop :=
  a.suspended = none ∧ a.journal = none ∧ a.logWriter = none ∧ a.eraseAhead = none ∧ a.session1 = none
    ∧ a.session2 = none ∧ a.sequencer = none

/-- A requester's read runs. -/
def readHanded (who : Requester) (b p : Nat) (s : State) : State :=
  { s with arr := { s.arr with running := some { who := who, req := .read b p, count := 0, reached := 0 } } }

/-- A requester's erase runs: the mark of page 0 is cancelled (R49). -/
def eraseHanded (who : Requester) (b : Nat) (s : State) : State :=
  { s with
    store := cancelMark s.store b 0,
    arr := { s.arr with running := some { who := who, req := .erase b, count := 0, reached := 1 } } }

/-- A requester's program of a JOURNAL or PROFILE page runs, with a page sequence drawn for it (3.2, R69). -/
def pageHanded (who : Requester) (kind : PageKind) (b p : Nat) (d : PageData) (s : State) : State :=
  { s with
    log := { s.log with nextPageSeq := s.log.nextPageSeq + 1 },
    arr := { s.arr with running := some {
      who := who,
      req := .program b p
        { kind := kind, pageSeq := s.log.nextPageSeq, run := 0, capturing := 0, firstSeq := 0, count := 0,
          used := (pageBytes d).length } d,
      count := 0, reached := 0 } } }

/-! ### Pages of the Directory Area -/

/-- The SNAPSHOT record of an entry, in a state: a CAPTURING one carries no last sequence and no reason (R94, R108). -/
def snapshotRecord (e : Entry) (st : SnapState) (blocks : List Nat) : PageRecord :=
  .snapshot
    { num := e.num, state := st, source := e.source, trigTime := e.trigTime, trigSeq := e.trigSeq,
      trigLost := e.trigLost, first := e.first, last := if st = .capturing then none else e.last,
      reason := if st = .capturing then none else e.reason, blocks := blocks }

/-- The journaled state of an entry, as a SNAPSHOT carries it (R109, R116). -/
def snapState : Journaled → Option SnapState
  | .none => none
  | .capturing => some .capturing
  | .kept => some .kept
  | .frozen => some .frozen

/-- The record at a position of a compaction set: a snapshot of each entry in its journaled state, and the Retired List
behind them (R114, R116). -/
def SetRecord (s : State) (set : List Nat) (pos : Nat) (r : PageRecord) : Prop :=
  (pos = set.length + 1 ∧ r = .retiredList s.log.retired)
    ∨ ∃ e st, 1 ≤ pos ∧ set[pos - 1]? = some e.num ∧ findEntry s.dir e.num = some e ∧ snapState e.journaled = some st
        ∧ r = snapshotRecord e st e.blocks

/-- The numbers of the entries that have a journaled state, ascending (R115). -/
abbrev CompactionSet (d : Directory) (set : List Nat) : Prop :=
  set.Pairwise (· < ·) ∧ set.Perm ((d.entries.filter (fun e => decide (e.journaled ≠ .none))).map Entry.num)

/-- The record of the page that a journal job asks for (R111, R112). -/
def JobRecord (s : State) (j : Job) (r : PageRecord) : Prop :=
  (∃ n, j = .released n ∧ r = .released n) ∨ (∃ c, j = .retiredList c ∧ r = .retiredList s.log.retired)
    ∨ ∃ e st blocks, findEntry s.dir e.num = some e ∧ r = snapshotRecord e st blocks
        ∧ ((st = .capturing ∧ j = .capturing e.num blocks) ∨ (st = .kept ∧ j = .kept e.num ∧ blocks = e.blocks)
          ∨ (st = .frozen ∧ j = .frozen e.num ∧ blocks = e.blocks))

/-- Jobs once a RETIRED_LIST page has been handed in: it covers the RETIRED_LIST jobs asked before it (R112). -/
def coveredBy (r : PageRecord) (jobs : List Job) : List Job :=
  match r with
  | .retiredList _ => jobs.map (fun j => match j with
    | .retiredList _ => .retiredList true
    | _ => j)
  | _ => jobs

/-- A compaction of the Directory Area begins: the other block is under erase (R115). -/
def compactionBegun (s : State) : State :=
  let target := if s.jrnl.cur = some 0 then 1 else 0
  eraseHanded .journal target { s with jrnl := { s.jrnl with
    state := .compacting,
    comp := { target := target, page := 0, set := [], pos := 0, begun := s.jrnl.comp.begun + 1 } } }

/-- `u` is `s` with the Journal Writer serving its head job, a journal job, and the array to itself: the job's page is
handed in at the next page, or a compaction begins when there is none (R112, R115). -/
abbrev HeadServed (s u : State) : Prop :=
  s.seqr.part = .ready ∧ s.arr.running = none ∧ ArrayAlone s.arr ∧ s.log.nextPageSeq < 281474976710655
    ∧ ∃ j rest, s.jrnl.jobs = j :: rest ∧ (∀ f, j ≠ .saveProfile f) ∧ j ≠ .clearProfile
      ∧ ((∃ d r, s.jrnl.cur = some d ∧ d ≤ 1 ∧ s.jrnl.nextPage ≤ 15 ∧ JobRecord s j r
          ∧ u = pageHanded .journal .journal d s.jrnl.nextPage
            (.journal { role := .append, nextNumber := s.dir.nextNumber, record := r })
            { s with jrnl := { s.jrnl with state := .appending, jobs := coveredBy r (j :: rest) } })
        ∨ (s.jrnl.cur = none ∨ (∃ d, s.jrnl.cur = some d ∧ d ≤ 1) ∧ 15 < s.jrnl.nextPage) ∧ u = compactionBegun s)

/-- `u` is `s` with a job asked that no waiting job covers: it is the last of the list, and an IDLE writer serves the
list (R111). -/
abbrev JobAsked (j : Job) (s u : State) : Prop :=
  let t : State := { s with jrnl := { s.jrnl with jobs := s.jrnl.jobs ++ [j] } }
  s.jrnl.usable = true
    ∧ (∀ k, j = .retiredList k → ∀ x ∈ s.jrnl.jobs.drop 1, ∀ m, x ≠ .retiredList m)
    ∧ ((s.jrnl.state ≠ .idle ∧ u = t) ∨ s.jrnl.state = .idle ∧ HeadServed t u)

/-! ### The ends of posting and of a run (05) -/

/-- `e` is the open recording, and the only entry of its number. -/
abbrev OpenAlone (d : Directory) (e : Entry) : Prop :=
  openEntry d = some e ∧ ∀ x ∈ d.entries, x.num = e.num → x = e

/-- `v` is `u` once the Capture Controller has looked whether the KEPT snapshot of the closing recording is due: it is
asked for, once, when the last record sequence and the CAPTURING snapshot have committed (R100, step 1). -/
abbrev KeptLooked (u v : State) : Prop :=
  ((∀ e, openEntry u.dir = some e → u.ctl.state = .closing → e.state = .closing → u.ctl.keptAsked = false →
      e.journaled = .none ∨ ∀ last, e.last = some last → u.log.lastCommitted < last) ∧ v = u)
    ∨ ∃ e last, openEntry u.dir = some e ∧ u.ctl.state = .closing ∧ e.state = .closing ∧ u.ctl.keptAsked = false
      ∧ e.journaled ≠ .none ∧ e.last = some last ∧ last ≤ u.log.lastCommitted
      ∧ JobAsked (.kept e.num) { u with ctl := { u.ctl with keptAsked := true } } v

/-- The state in which posting has ended for a reason other than FAULT: the entry is CLOSING with its last record
sequence and its reason, the controller CLOSING with its target, and the closure is asked of the Packer unless a RUN_STOP
makes it (R99, items 1 to 5). -/
def postingClosed (why : CloseReason) (e : Entry) (last : Nat) (s : State) : State := { s with
  dir := { s.dir with entries := s.dir.entries.map (fun x => if x = e then { e with
    state := .closing, last := some last, reason := some why } else x) },
  ctl := { s.ctl with
    state := .closing, target := some (if why = .stopped then .stopped else .running), postTimer := none,
    keptAsked := false },
  raised := { s.raised with closures := if why = .stopped then s.raised.closures else s.raised.closures + 1 } }

/-- `v` is `s` with posting ended, and the KEPT snapshot asked for when it is due at once (R99). -/
abbrev PostingEnded (why : CloseReason) (e : Entry) (last : Nat) (s v : State) : Prop :=
  KeptLooked (postingClosed why e last s) v

/-- The last record sequence for a reason other than COUNT (R99, item 1). -/
def lastAtEnd (s : State) (e : Entry) : Nat := max (s.packer.nextSeq - 1) (e.trigSeq - 1)

/-- `v` is `u`, in which the Packer has just assigned the sequences from `first` on: posting ends with COUNT when the
post-end sequence is one of them (R98). -/
abbrev CountTaken (first : Nat) (u v : State) : Prop :=
  ((u.ctl.state = .posting → u.ctl.postEnd < first ∨ u.packer.nextSeq ≤ u.ctl.postEnd) ∧ v = u)
    ∨ u.ctl.state = .posting ∧ first ≤ u.ctl.postEnd ∧ u.ctl.postEnd < u.packer.nextSeq
      ∧ ∃ e, OpenAlone u.dir e ∧ PostingEnded .count e u.ctl.postEnd u v

/-- The Capture Controller has come to STOPPED, with CAPTURE_STOPPED raised (R88). -/
def captureEnded (s : State) : State := { s with
  ctl := { s.ctl with state := .stopped, target := none },
  raised := { s.raised with events := s.raised.events
    ++ [(.controller, .captureStopped s.ctl.lastRun s.ctl.stopReason)] } }

/-- `v` is `u` once the Capture Controller has heard that the log is in FAULT. STOPPED: nothing. RUNNING: the run stops
with a RUN_STOP of reason FAULT (R88). POSTING and CLOSING: the recording is KEPT without a page, with reason FAULT in
POSTING, and the run stops, with that RUN_STOP when it has had none (R101). -/
abbrev FaultTaken (u v : State) : Prop :=
  (u.ctl.state = .stopped ∧ v = u)
    ∨ (u.ctl.state = .running ∧ ∃ p, StopPlaced .fault u p ∧ v = captureEnded { u with
        packer := p, ctl := { u.ctl with holdoffTimer := none, stopReason := some .fault } })
    ∨ (u.ctl.state = .posting ∨ u.ctl.state = .closing) ∧ ∃ e, OpenAlone u.dir e
      ∧ let last := if u.ctl.state = .posting then some (lastAtEnd u e) else e.last
        let reason := if u.ctl.state = .posting then some .fault else e.reason
        let kept : State := { u with
          dir := { u.dir with entries := u.dir.entries.map (fun x => if x = e then { e with
            state := .kept, last := last, reason := reason } else x) },
          log := { u.log with capturingRec := 0 },
          ctl := { u.ctl with postTimer := none, keptAsked := false },
          raised := { u.raised with events := u.raised.events
            ++ [(.controller, .recordingKept e.num reason e.first (last.getD 0) e.blocks.length)] } }
        (u.ctl.stopReason ≠ none ∧ v = captureEnded kept)
          ∨ u.ctl.stopReason = none ∧ ∃ p, StopPlaced .fault u p ∧ v = captureEnded { kept with
            packer := p, ctl := { kept.ctl with stopReason := some .fault } }

/-- `v` is `s` with a run begun at `origin`: the RUN_START goes into the FILLING buffer with room, or opens an EMPTY one
or waits in the Control Slot behind the GAP record of a lost tally; the gate is OPEN and the controller RUNNING (R36,
R86). -/
abbrev RunBegun (origin : Nat) (s v : State) : Prop :=
  let p := s.packer
  let run := if s.ctl.lastRun < 65535 then s.ctl.lastRun + 1 else 1
  let next := p.nextSeq + (lossGap p).length
  let start : Record := { seq := origin, time := p.timeBase, body := .runStart run }
  let begun (u : Packer) : State := { s with
    packer := u,
    ctl := { s.ctl with
      state := .running, lastRun := run, runOrigin := origin, holdoffTimer := none, stopReason := none } }
  inFault s.log = false ∧ s.ctl.state = .stopped ∧ p.slot = [] ∧ next ≤ 281474976710653
    ∧ ((∃ i, bufIn p .filling = some i ∧ usedBytes (getBuf p i) + 16 ≤ 1024 ∧ origin = p.nextSeq
        ∧ v = begun { setBuf p { getBuf p i with recs := (getBuf p i).recs ++ [start] } i with
          run := run, gateOpen := true, nextSeq := origin + 1, lastPlaced := origin,
          recordsPacked := min counterMax (p.recordsPacked + 1) })
      ∨ ∃ q, NoRoomFor p 16 q ∧ origin = next
        ∧ ((∃ j, bufIn q .empty = some j
            ∧ v = begun (openedWith s.ctl.settings.flush j [start] { q with run := run, gateOpen := true }))
          ∨ bufIn q .empty = none ∧ v = begun { q with
            tallyCount := 0, tallyFirst := if p.tallyCount = 0 then p.tallyFirst else 0,
            tallyLast := if p.tallyCount = 0 then p.tallyLast else 0,
            run := run, gateOpen := true, nextSeq := origin + 1, slot := lossGap p ++ [start] }))

/-! ### Fetch steps of sessions (07) -/

/-- Step 2 of the fetch step leaves the cursor of session `x` at position `pos` of the list, in block `c`: at the last
usable block at or after its position whose first sequence is at or below the next sequence, or where it stands, in a
usable block, when there is none (R129). -/
abbrev CursorAt (l : LogManager) (blocks : List Nat) (x : Session) (pos c : Nat) : Prop :=
  cursorBlock l blocks x.listPos x.nextSeq = some (pos, c)
    ∨ cursorBlock l blocks x.listPos x.nextSeq = none ∧ pos = x.listPos ∧ x.block = some c
      ∧ (blockEntry l c).firstSeq ≠ none

/-- The fetch step of session `x` hands in a read of page `p` of block `b`, with the session then `y` (R129 and R130): in
the list block that the cursor moves to, or the next usable one behind its page 16; in the block of the live ring where
Locate places the next sequence, or the one above that block's bound when its pages have all been read. -/
abbrev FetchReads (s : State) (x y : Session) (b p : Nat) : Prop :=
  (x.limit = 0 ∨ x.delivered < x.limit) ∧ 4 ≤ b ∧ b ≤ 1023 ∧ p ≤ 15
    ∧ ((x.source ≠ 0 ∧ x.nextSeq ≤ x.endPoint.getD 0 ∧ ∃ e pos, findEntry s.dir x.source = some e
        ∧ ((CursorAt s.log e.blocks x pos b ∧ p = (if x.block = some b then x.page else 0)
            ∧ y = { x with listPos := pos, block := some b, page := p })
          ∨ ∃ q c, CursorAt s.log e.blocks x q c ∧ x.block = some c ∧ 16 ≤ x.page
            ∧ nextUsable s.log e.blocks q = some (pos, b) ∧ p = 0
            ∧ y = { x with listPos := pos, block := some b, page := 0 }))
      ∨ x.source = 0 ∧ x.nextSeq ≤ s.log.lastCommitted ∧ ∃ bound,
        ((locate s.log x.nextSeq = .block b bound ∧ p = (if x.block = some b then x.page else 0)
            ∧ y = { x with block := some b, page := p, bound := bound })
          ∨ ∃ c k, locate s.log x.nextSeq = .block c k ∧ x.block = some c ∧ 16 ≤ x.page ∧ k < s.log.lastCommitted
            ∧ locate s.log (k + 1) = .block b bound ∧ b ≠ c ∧ p = 0
            ∧ y = { x with nextSeq := k + 1, block := some b, page := 0, bound := bound }))

/-- The fetch step of session `x` ends it (R129, R130). -/
abbrev FetchEnds (s : State) (x : Session) (why : EndReason) : Prop :=
  (why = .complete ∧ (x.source = 0 ∨ (findEntry s.dir x.source).isSome = true)
      ∧ (x.limit ≠ 0 ∧ x.limit ≤ x.delivered ∨ x.source ≠ 0 ∧ x.endPoint.getD 0 < x.nextSeq))
    ∨ (x.limit = 0 ∨ x.delivered < x.limit)
      ∧ ((why = .endOfData ∧ x.source = 0 ∧ x.follow = false ∧ s.log.lastCommitted < x.nextSeq)
        ∨ (why = .overtaken ∧ x.source = 0 ∧ locate s.log x.nextSeq = .notAvailable)
        ∨ why = .endOfData ∧ x.source ≠ 0 ∧ x.nextSeq ≤ x.endPoint.getD 0 ∧ 16 ≤ x.page
          ∧ ∃ e c, findEntry s.dir x.source = some e ∧ CursorAt s.log e.blocks x x.listPos c
            ∧ x.block = some c ∧ nextUsable s.log e.blocks x.listPos = none)

/-- A session that its fetch step has left as `y`, FETCHING, its read of a page running. -/
def readOut (i : SessionId) (y : Session) (b p : Nat) (s : State) : State :=
  ({ s with arr := { s.arr with
    running := some { who := .session i, req := .read b p, count := 0, reached := 0 },
    lastSession := i } }).setSession i { y with state := .fetching, reading := true }

/-- A session, at its end as `y`, that has nothing outstanding: its end frame has entered a local queue with room, its
slot is FREE, and the open-session count of its recording has fallen (R126, R137). -/
def sessionEnded (i : SessionId) (y : Session) (why : EndReason) (s : State) : State :=
  ((enqueued y.port (.session i) (endFrame s.seqr.own i y why) s).setDir { s.dir with
    entries := s.dir.entries.map
      (fun e => if y.source ≠ 0 ∧ e.num = y.source then { e with sessions := e.sessions - 1 } else e) }).setSession i
    Session.initial

/-! ### Offers without room (08) -/

/-- A frame offered to a full local queue: it is the last of the port's waiting list (R147). -/
def joinedWaiting (p : Port) (who : Producer) (bytes : Bytes) (s : State) : State :=
  let x := s.port p
  (s.setPort p { x with waiting := x.waiting
    ++ [{ frame := { who := who, serial := s.serial, bytes := bytes }, withdrawn := false }] }).setSerial (s.serial + 1)

/-- A frame offered to the local queue of a DOWN port: it is discarded and counted, and its producer is to be told
(R147, R152). -/
def offerDropped (p : Port) (who : Producer) (s : State) : State :=
  let x := s.port p
  ((s.setPort p { x with counters := { x.counters with
      localDown := min counterMax (x.counters.localDown + 1) } }).setSerial (s.serial + 1)).setRaised { s.raised with
    endings := s.raised.endings ++ [{ port := p, who := who, serial := s.serial, transmitted := false }] }

/-- `u` is `t` after a frame has been offered to the port: it has entered the local queue, or waits for room behind a full
one, or is discarded by a port that is DOWN (R147, R152). -/
abbrev LocalOffered (p : Port) (who : Producer) (bytes : Bytes) (t u : State) : Prop :=
  (LocalRoom p t ∧ u = enqueued p who bytes t)
    ∨ ((t.port p).up = true ∧ 4 ≤ (t.port p).localQ.length ∧ u = joinedWaiting p who bytes t)
    ∨ (t.port p).up = false ∧ u = offerDropped p who t

/-- `v` is `t` after the Notice Unit, as `n`, has sent its head to the notify port: the frame is offered and the head
QUEUED, but that a notice frame which still waits at that port holds it back (R176; log 18). -/
abbrev HeadOffered (n : NoticeUnit) (t v : State) : Prop :=
  (n.queue ≠ [] ∧ isWaiting n.settings.port .notice t = true ∧ v = t.setNotice { n with head := .queued, frame := none })
    ∨ isWaiting n.settings.port .notice t = false ∧ ∃ y more u, n.queue = y :: more
      ∧ LocalOffered n.settings.port .notice (noticeFrame t.seqr.own n y) t u
      ∧ v = u.setNotice { n with head := .queued, frame := some t.serial, carried := n.overflow }

/-- `v` is `t` after the head notice has left the queue of the Notice Unit `n`, with `rest` behind it: the next notice is
the head with attempt count 0, offered, or PARKED while its port is DOWN (R176, R177, R178). -/
abbrev HeadLeft (n : NoticeUnit) (rest : List Notice) (t v : State) : Prop :=
  let left : NoticeUnit := { n with
    queue := rest, head := .parked, attempts := 0, carried := 0, frame := none, retry := none }
  ((rest = [] ∨ noticeLinkUp n n.settings.port = false) ∧ v = t.setNotice left)
    ∨ noticeLinkUp n n.settings.port = true ∧ HeadOffered left t v

/-- The unit waits for what becomes of its answer (REPLYING): `u` is the state after the offer that `s` made (R161). -/
def replying (r : Request) (st : Status) (result : Bytes) (s u : State) : State :=
  let store := decide (st ≠ .denied ∧ st ≠ .mounting ∧ r.broadcast = false ∧ r.tag ≠ 0 ∧ r.cached = none)
  let stage : ExecStage := .replying s.serial (responseFrame s.seqr.own r st result) store none false
  u.setMgmt { u.mgmt with current := some { req := r, stage := stage } }

/-- The other slot. -/
def otherSession : SessionId → SessionId
  | .one => .two
  | .two => .one

end Sys2Proof.Machine
end

