-- ==== Sys2Proof/Certificates/Slice0/Obligations.lean ====
section
/-! DEFINITION. The statements for the provers. Each says which rule or section of spec/ it formalises; where it rests
on a choice of the model it names the log entry. -/

section Statements

open Sys2Proof Sys2Proof.Machine

/-! ### Steps -/

/-- A step takes the command at the front of the queue and is that command's effect over the rest of the queue (the
row's cut, log 1). -/
def Obligations.StepRunsTheFrontCommand : Prop :=
  ∀ (c : Instr) (rest : List Instr) (s : State), s.pending = c :: rest → step s = exec c { s with pending := rest }

/-- With no command waiting a microsecond passes: the Time Base counts while the part is not in RESET, and nothing
else changes (R26; that an idle step is a microsecond is the model's choice, log 1). -/
def Obligations.IdleStepCountsTheTimeBase : Prop :=
  ∀ s : State, s.pending = [] →
    (s.seqr.part ≠ .reset → step s = .next { s with packer := { s.packer with timeBase := s.packer.timeBase + 1 } })
      ∧ (s.seqr.part = .reset → step s = .next s)

/-- Every command, in every state, answers a next state, and leaves the queue of waiting commands as it is: the spec
gives every failure an effect, so nothing faults and nothing is refused (log 29). -/
def Obligations.EveryCommandGoesOnAndKeepsTheQueue : Prop :=
  ∀ (c : Instr) (s : State), ∃ t, exec c s = .next t ∧ t.pending = s.pending

/-! ### Properties that every step keeps -/

/-- The part right after reset has every property that the following statements carry from step to step. -/
def Obligations.ResetStateIsSafe : Prop :=
  StoreWf State.reset ∧ ArrayWf State.reset ∧ QueuesBounded State.reset ∧ SettingsInRange State.reset
    ∧ CountersInRange State.reset ∧ AttemptsBounded State.reset ∧ CreditBounded State.reset
    ∧ OwnIsStation State.reset ∧ StagingWf State.reset.packer

/-- Every step keeps the Page Array in its canonical form, and keeps a suspended erase alone: while it stands, no other
erase runs and the part is READY (R53, R58). -/
def Obligations.PageArrayAndSuspendedEraseStaySound : Prop :=
  ∀ s t : State, step s = .next t → (StoreWf s → StoreWf t) ∧ (ArrayWf s → ArrayWf t)

/-- A page that is not erased stays as it is, header, data and mark, through every step that does not begin a reset,
unless an erase of its block was out before the step or is out after it (3.3 to 3.7). -/
def Obligations.WrittenPagesLastUntilTheirBlockIsErased : Prop :=
  ∀ s t : State, ArrayWf s → step s = .next t → t.seqr.part ≠ .reset →
    ∀ (b p : Nat) (x : Page), p ≤ 15 → pageAt s.store b p = some x →
      pageAt t.store b p = some x ∨ eraseOut s.arr b = true ∨ eraseOut t.arr b = true

/-- Every step keeps every queue within its places, the Reply Cache to one entry for a station (8.4, 8.5, 9.2, 10.2),
every counter at or below its maximum (00_scope, Counters), the head notice to four transmissions (10.3) and the
credit of a session at 64 or less (7.5). -/
def Obligations.QueuesCountersAndCreditKeepTheirBounds : Prop :=
  ∀ s t : State, step s = .next t →
    (QueuesBounded s → QueuesBounded t) ∧ (CountersInRange s → CountersInRange t)
      ∧ (AttemptsBounded s → AttemptsBounded t) ∧ (CreditBounded s → CreditBounded t)

/-- Every step keeps all settings in the ranges that their requests allow (1.6, 5.1, 9.5, 10.1) and the own address a
station address, which only a reset that samples the straps changes: a step that leaves the part out of RESET keeps it
(11.1). -/
def Obligations.SettingsAndOwnAddressStayInRange : Prop :=
  ∀ s t : State, step s = .next t →
    (SettingsInRange s → SettingsInRange t) ∧ (OwnIsStation s → OwnIsStation t)
      ∧ (t.seqr.part ≠ .reset → t.seqr.own = s.seqr.own)

/-- Every step, from every state, keeps the staging buffers and the Control Slot in order: at most one buffer FILLING
and one WRITING, EMPTY exactly without records, the FULL ones in their order once each, the Control Slot in use only
while neither buffer can take a record, the flush timer running only while a buffer is FILLING (R28, R36, R38, R41). -/
def Obligations.StagingBuffersStayInOrder : Prop :=
  ∀ s t : State, StagingWf s.packer → step s = .next t → StagingWf t.packer

/-- Every step from a READY part begins a reset or keeps Block Table, History List, write position, erase-ahead and
their requests at the array in agreement (R61, R62, R66 to R70, R72), the directory at 12 entries or fewer with
distinct numbers and one open entry at most, and the hold count of every block equal to the number of entries whose
list names it (R63, R64, R83, 5.3). -/
def Obligations.TheReadyPartStaysConsistent : Prop :=
  ∀ s t : State, ReadyWf s → step s = .next t → t.seqr.part = .reset ∨ ReadyWf t

/-! ### Reset and start-up (11) -/

/-- The values that a reset of any cause leaves, block by block, whatever the state before it (R2, R26, R28, R29, R59,
R61, R64, R68, R78, R83, R84, R95, R110, R125, R154, R158, R159, R173, R181; the values that the spec does not give are
those of logs 5 and 6). -/
def Obligations.ResetValuesOfEveryBlock : Prop :=
  ∀ (pending : List Instr) (store : List (Nat × Page)) (cause : ResetCause) (own : Byte) (serial free : Nat),
    let s := State.inReset pending store cause own serial free
    s.seqr.part = .reset ∧ s.seqr.cause = cause ∧ s.seqr.own = own ∧ s.seqr.bypass = true
    ∧ s.cls.rules = List.replicate 48
        { state := .unused, dir := .either, kind := .any, destValue := 0, destMask := 0, srcValue := 0, srcMask := 0,
          classLow := 0, classHigh := 255, lenMin := 0, lenMax := 240, test := none, action := .pass, snap := 0,
          hits := 0 }
    ∧ s.cls.dflt = .pass ∧ s.cls.defaultHits = 0
    ∧ s.packer.sb0.state = .empty ∧ s.packer.sb1.state = .empty ∧ s.packer.slot = [] ∧ s.packer.gateOpen = false
    ∧ s.packer.flushTimer = none ∧ s.packer.tallyCount = 0 ∧ s.packer.lossFlag = false ∧ s.packer.timeBase = 0
    ∧ s.packer.lastPlaced = 0
    ∧ s.arr = ArrayCtl.initial ∧ s.arr.running = none ∧ s.arr.suspended = none ∧ s.arr.lastSession = .two
    ∧ s.log.active = none ∧ s.log.nextPage = 16 ∧ s.log.failing = false ∧ s.log.condition = .normal
    ∧ s.log.capturingRec = 0 ∧ s.log.resumedPending = false
    ∧ s.ctl.state = .stopped ∧ s.ctl.target = none ∧ s.ctl.runOrigin = 0 ∧ s.ctl.postTimer = none
    ∧ s.ctl.holdoffTimer = none
    ∧ s.ctl.settings
        = { window := 4, postCount := 1000, postTime := 0, holdoff := 1000, rearm := true, flush := 100,
            autostart := false }
    ∧ s.dir.entries = [] ∧ s.jrnl.state = .idle ∧ s.jrnl.jobs = []
    ∧ s.ret.s1.state = .free ∧ s.ret.s2.state = .free
    ∧ s.mgmt.queue = [] ∧ s.mgmt.current = none ∧ s.mgmt.cache = [] ∧ s.mgmt.managers = []
    ∧ s.notice.settings = { station := 0, port := .a, enable := 1023, retry := 500 } ∧ s.notice.queue = []
    ∧ s.notice.nextNumber = 1 ∧ s.notice.overflow = 0
    ∧ (∀ p, (s.port p).relayQ = [] ∧ (s.port p).localQ = [] ∧ (s.port p).waiting = [] ∧ (s.port p).tx = none
        ∧ (s.port p).fair = 0 ∧ (s.port p).receiving = false)
    ∧ s.raised = Raised.initial ∧ counterList s = List.replicate 34 0

/-- POWER_ON in every state, and LINE_RESET outside RESET, begin a reset: every block's volatile state is discarded,
the straps are sampled, and of the Page Array only pages that an operation in progress or a suspended erase may change
can differ, and those only as the table of R59 says (R59, R181; how far such an operation had got is free, log 8).
LINE_RESET within a reset samples the straps, and makes a RESTART's reset a LINE reset (11.1; that the other causes
stay is the model's, log 27). -/
def Obligations.ResetsDiscardVolatileStateAndKeepPages : Prop :=
  ∀ (straps : Byte) (s : State),
    let own : Byte := if straps.toNat = 0 ∨ 251 ≤ straps.toNat then 250 else straps
    ∃ store, CutByReset s store
      ∧ exec (.powerOn straps) s = .next (State.inReset s.pending store .powerOn own s.serial (s.free + 2))
      ∧ (s.seqr.part ≠ .reset →
          exec (.lineReset straps) s = .next (State.inReset s.pending store .line own s.serial (s.free + 2)))
      ∧ (s.seqr.part = .reset → exec (.lineReset straps) s = .next { s with
          seqr := { s.seqr with own := own, cause := if s.seqr.cause = .restart then .line else s.seqr.cause } })

/-- LEAVE_RESET: BYPASS_N is released, the Time Base starts at 0, each port and the Notice Unit take the line levels,
the part is MOUNTING in phase 1, and the Sequencer's read of page 0 of block 2, the model's first (log 22), runs;
nothing else changes (11.1, 11.2, 8.1). Outside RESET the command changes nothing (log 39). -/
def Obligations.LeavingResetBeginsTheMountScan : Prop :=
  ∀ (a b : Bool) (s : State),
    (s.seqr.part = .reset → s.arr = ArrayCtl.initial →
      exec (.leaveReset a b) s = .next { s with
        portA := { s.portA with line := a, up := a }, portB := { s.portB with line := b, up := b },
        notice := { s.notice with linkA := a, linkB := b },
        packer := { s.packer with timeBase := 0 },
        seqr := { s.seqr with part := .mounting, bypass := false, phase := 1, scan := .profile 0 },
        arr := { s.arr with
          running := some { who := .sequencer, req := .read 2 0, count := 0, reached := 0 } } })
    ∧ (s.seqr.part ≠ .reset → exec (.leaveReset a b) s = .next s)

/-- In RESET no other command has an effect: ports deliver and send nothing, no timer runs, no operation is out and no
request is held (8.8, 11.1). That a change of a line, an expiry and the end of an operation, which the part in RESET
does not have, change nothing is the model's choice (logs 6 and 39). -/
def Obligations.NothingElseActsInReset : Prop :=
  ∀ (c : Instr) (pending : List Instr) (store : List (Nat × Page)) (cause : ResetCause) (own : Byte)
    (serial free : Nat),
    (∀ x, c ≠ .powerOn x) → (∀ x, c ≠ .lineReset x) → (∀ x y, c ≠ .leaveReset x y) →
      exec c (State.inReset pending store cause own serial free)
        = .next (State.inReset pending store cause own serial free)

/-- The Sequencer's erase of phase 6 returns. ERASED: the block is ERASED and prepared. FAILED: the block is RETIRED and
joins the Retired List; the 32nd puts the log in FAULT, and otherwise the search is made once more. Then the part is READY
with the directory position of the scan, and STARTED is raised with the reset cause; after a retirement a RETIRED_LIST job
is asked and BLOCK_RETIRED raised, then STORE_FAULT in FAULT, and the erase of a second candidate is handed in, here
behind the job's operation (log 50). With autostart ON a run then begins, but in FAULT (R86, R190, R191). -/
def Obligations.PhaseSixEraseMakesThePartReady : Prop :=
  ∀ (b : Nat) (x : Running) (s : State), s.arr.running = some x → x.who = .sequencer → x.req = .erase b →
    ArrayAlone s.arr → StoreWf s → s.seqr.part = .mounting → s.seqr.scan = .firstErase b → s.seqr.retiredNow = none →
    s.log.condition = .normal → s.mgmt.current = none → waitingBuffer s = none →
    let becomes (u : State) (l : LogManager) (events : List (EventSource × Event)) (store : List (Nat × Page)) : Prop :=
      u.seqr.part = .ready ∧ u.seqr.phase = 0 ∧ u.seqr.scan = .none ∧ u.seqr.cause = s.seqr.cause
        ∧ u.seqr.own = s.seqr.own
        ∧ u = { s with
          seqr := u.seqr, log := l, store := store, arr := { s.arr with running := none },
          jrnl := { s.jrnl with
            cur := s.seqr.dirCur, nextPage := s.seqr.dirNext, state := .idle, jobs := [], usable := !s.seqr.dirFault },
          raised := { s.raised with events := s.raised.events ++ (.sequencer, .started s.seqr.cause) :: events } }
    let started (u v : State) : Prop :=
      (s.ctl.settings.autostart = false ∧ v = u)
        ∨ (s.ctl.settings.autostart = true ∧ (inFault u.log = true ∨ 281474976710654 < s.packer.nextSeq) ∧ v = u)
        ∨ s.ctl.settings.autostart = true ∧ ∃ origin, RunBegun origin u v
    (∃ store, (∀ c p, p ≤ 15 → pageAt store c p = if c = b then none else pageAt s.store c p)
      ∧ ∃ u, becomes u { setBlockEntry s.log b { blockEntry s.log b with state := .erased } with ahead := .prepared b } []
          store
        ∧ ∀ v, started u v → waitingBuffer v = none → exec (.eraseBlockEnd .erased) s = .next v)
    ∧ (∀ q, q ≠ .erased → s.seqr.dirFault = false →
      let retired : LogManager := { setBlockEntry s.log b { blockEntry s.log b with state := .retired } with
        ahead := .none, retired := s.log.retired ++ [b] }
      let size := s.log.retired.length + 1
      let gone : EventSource × Event := (.log, .blockRetired b .erase size)
      let raise (es : List (EventSource × Event)) (u : State) : State :=
        u.setRaised { u.raised with events := u.raised.events ++ es }
      ∃ store, (∀ c p, p ≤ 15 → c ≠ b → pageAt store c p = pageAt s.store c p)
        ∧ (32 ≤ size → ∃ u, becomes u { retired with condition := .fault .retiredLimit } [] store
          ∧ ∀ v, JobAsked (.retiredList false) u v →
            exec (.eraseBlockEnd q) s = .next (raise [gone, (.log, .storeFault .retiredLimit)] v))
        ∧ (size < 32 → candidate retired = none → ∃ u, becomes u retired [] store
          ∧ ∀ w v, JobAsked (.retiredList false) u w → started (raise [gone] w) v → waitingBuffer v = none →
            exec (.eraseBlockEnd q) s = .next v)
        ∧ (∀ c, size < 32 → candidate retired = some c → 4 ≤ c → c ≤ 1023 → ∃ u,
          becomes u { setBlockEntry { retired with history := s.log.history.filter (fun d => decide (d ≠ c)) } c
              { blockEntry retired c with state := .erasing, firstSeq := none, firstPage := none } with
            ahead := .underWay c } [] store
          ∧ ∀ w v, JobAsked (.retiredList false) u w →
            started (let z := raise [gone] w
              z.setArr { z.arr with eraseAhead := some (.erase c) }) v →
            waitingBuffer v = none → exec (.eraseBlockEnd q) s = .next v))

/-! ### Link ports and the Relay (08) -/

/-- LINK_DOWN takes a fall of the line that another block has taken first, or a new one: the frame in transmission is
cut short, both queues and the waiting list are emptied, the discards are counted by kind, each local frame's producer
is told DISCARDED, and a new change is on its way to the Retrieval Engine and the Notice Unit. LINK_UP takes a rise:
UP, fairness count 0 (8.1, 8.2, 8.6, 8.7; the order against the other blocks, log 2). Otherwise, and in RESET, each
changes nothing (logs 6 and 39). -/
def Obligations.LinkChangesAtThePort : Prop :=
  ∀ (p : Port) (s : State),
    let sending (x : PortState) : List LocalFrame := match x.tx with
      | some { origin := some f, .. } => [f]
      | _ => []
    let down (u : State) : State :=
      let x := u.port p
      let cut := sending x ++ x.localQ ++ x.waiting.map Waiter.frame
      let relayed := (if x.tx ≠ none ∧ sending x = [] then 1 else 0) + x.relayQ.length
      (u.setPort p
        { line := x.line, up := false, receiving := false, relayQ := [], localQ := [], waiting := [], tx := none, fair := 0,
          counters := { x.counters with
            relayDown := min counterMax (x.counters.relayDown + relayed),
            localDown := min counterMax (x.counters.localDown + cut.length) } }).setRaised { u.raised with
          endings := u.raised.endings
            ++ cut.map (fun f => { port := p, who := f.who, serial := f.serial, transmitted := false }) }
    let up (u : State) : State := u.setPort p { u.port p with up := true, fair := 0 }
    (∀ pre post, Oldest (fun y => y.1 = p) s.raised.portLink pre (p, false) post →
      exec (.linkDown p) s = .next (down (s.setRaised { s.raised with portLink := pre ++ post }))
        ∧ exec (.linkUp p) s = .next s)
    ∧ (∀ pre post, Oldest (fun y => y.1 = p) s.raised.portLink pre (p, true) post →
      exec (.linkUp p) s = .next (up (s.setRaised { s.raised with portLink := pre ++ post }))
        ∧ exec (.linkDown p) s = .next s)
    ∧ ((∀ y ∈ s.raised.portLink, y.1 ≠ p) →
      (∀ u, FirstTakes p false { s.raised with
          retDown := s.raised.retDown ++ [p], noticeLink := s.raised.noticeLink ++ [(p, false)] } s u →
        exec (.linkDown p) s = .next (down u))
      ∧ (∀ u, FirstTakes p true { s.raised with noticeLink := s.raised.noticeLink ++ [(p, true)] } s u →
        exec (.linkUp p) s = .next (up u))
      ∧ (s.seqr.part = .reset ∨ (s.port p).line = false → exec (.linkDown p) s = .next s)
      ∧ (s.seqr.part = .reset ∨ (s.port p).line = true → exec (.linkUp p) s = .next s))

/-- FRAME_START at an UP port outside RESET begins a reception (R142; at a port that is receiving already, log 31).
FRAME_END of a frame under reception delivers it: the receive outcome is that of R143, its counter rises by 1, 247
bytes are kept (R142), and the frame is offered to the relay queue, the Management Unit and the classifier as R144 and
R145 say; with it goes to the classifier whether the part was MOUNTING (log 46). A frame of no bytes is not delivered
(R142); an end without a start changes nothing (log 39). -/
def Obligations.FramesAreDeliveredByTheirOutcome : Prop :=
  ∀ (p : Port) (bytes : Bytes) (s : State), s.seqr.part ≠ .reset → (s.port p).up = true →
    let x := s.port p
    let n := bytes.length
    let outcome : RxOutcome :=
      if n < 7 then .runt
      else if 247 < n then .overlong
      else if (crc16 (bytes.take (n - 2))).toNat ≠ (byteAt bytes (n - 2)).toNat * 256 + (byteAt bytes (n - 1)).toNat
        then .check
      else if n ≠ 7 + (byteAt bytes 4).toNat then .length
      else .good
    let mine : Bool := decide (byteAt bytes 0 = s.seqr.own ∧ byteAt bytes 2 = 124)
    let broadcast : Bool := decide (byteAt bytes 0 = 255 ∧ byteAt bytes 2 = 124)
    let counters : PortCounters := match outcome with
      | .good => { x.counters with rxGood := bump x.counters.rxGood }
      | .check => { x.counters with rxCheck := bump x.counters.rxCheck }
      | .length => { x.counters with rxLength := bump x.counters.rxLength }
      | .runt => { x.counters with rxRunt := bump x.counters.rxRunt }
      | .overlong => { x.counters with rxOverlong := bump x.counters.rxOverlong }
    let kept := bytes.take 247
    exec (.frameStart p) s = .next (s.setPort p { x with receiving := true })
    ∧ (x.receiving = true → bytes ≠ [] →
      exec (.frameEnd p bytes) s = .next ((s.setPort p { x with receiving := false, counters := counters }).setRaised
        { s.raised with
          relay := s.raised.relay
            ++ (if outcome ≠ .runt ∧ outcome ≠ .overlong ∧ mine = false then [(p, kept)] else []),
          requests := s.raised.requests
            ++ (if outcome = .good ∧ (mine = true ∨ broadcast = true) then [(p, kept)] else []),
          classify := s.raised.classify
            ++ (if outcome = .good ∧ mine = true then []
              else [(p, { outcome := outcome, bytes := kept, count := n,
                          mounting := decide (s.seqr.part = .mounting) })]) }))
    ∧ (x.receiving = true → exec (.frameEnd p []) s = .next (s.setPort p { x with receiving := false }))
    ∧ (x.receiving = false → exec (.frameEnd p bytes) s = .next s)

/-- RELAY_OFFER takes the oldest frame delivered at the port to the queue of the far port: joined while that port is UP
and holds fewer than 8, discarded and counted by its cause otherwise (8.4).
TRANSMISSION_END: the frame sent is counted, its producer is told TRANSMITTED when it was a local frame, and the
arbiter chooses again; when that takes the fourth local frame out of its queue, the frame that has waited longest joins
the queue's tail and its producer is told (8.5, 8.6): a REPLYING unit stores its answer when that is to be stored and is
IDLE, here with no further request, or awaits the ending of a RESTART's answer, and a session that the answer opened has
its reply seen; a session's data frame is spent, here its last credit with records left, with records delivered at most at
their maximum (log 26), and a session whose end frame it is is FREE (R126, R132, R133, R158, R161, R169). With nothing
under transmission it changes nothing (log 39). -/
def Obligations.RelayQueuesAndTheTransmitterMove : Prop :=
    (∀ (p : Port) (pre post : List (Port × Bytes)) (bytes : Bytes) (s : State),
      Oldest (fun y => y.1 = p) s.raised.relay pre (p, bytes) post →
      let far := farPort p
      let x := s.port far
      let t := s.setRaised { s.raised with relay := pre ++ post }
      (x.up = false → exec (.relayOffer p) s
        = .next (t.setPort far { x with counters := { x.counters with relayDown := bump x.counters.relayDown } }))
      ∧ (x.up = true → 8 ≤ x.relayQ.length → exec (.relayOffer p) s
        = .next (t.setPort far { x with counters := { x.counters with queueFull := bump x.counters.queueFull } }))
      ∧ (x.up = true → x.relayQ.length < 8 → exec (.relayOffer p) s
        = .next (t.setPort far (startFrame { x with relayQ := x.relayQ ++ [bytes] }))))
  ∧ (∀ (p : Port) (s : State),
      let x := s.port p
      (x.tx = none → exec (.transmissionEnd p) s = .next s)
      ∧ ∀ sent : Transmission, x.tx = some sent →
        let free : PortState := { x with tx := none, counters := { x.counters with sent := bump x.counters.sent } }
        let t := s.setRaised { s.raised with
          endings := s.raised.endings ++ (match sent.origin with
            | none => []
            | some f => [{ port := p, who := f.who, serial := f.serial, transmitted := true }]) }
        (x.waiting = [] → exec (.transmissionEnd p) s = .next (t.setPort p (startFrame free)))
        ∧ (∀ (f : LocalFrame) (fs : List LocalFrame) (w : Waiter) (ws : List Waiter),
            x.up = true → x.waiting = w :: ws → x.localQ = f :: fs → fs.length = 3 → x.relayQ = [] →
            let moved := t.setPort p { free with
              tx := some { bytes := f.bytes ++ be 2 (crc16 f.bytes).toNat, origin := some f },
              localQ := fs ++ [w.frame], waiting := ws, fair := 0 }
            exec (.transmissionEnd p) s = .next (tellEntered p w moved)
            ∧ (∀ r bytes store opened restart, w.frame.who = .mgmt → s.mgmt.current
                = some { req := r, stage := .replying w.frame.serial bytes store opened restart } → s.mgmt.queue = [] →
              (∀ i, opened = some i → (s.session i).state = .fetching ∨ (s.session i).state = .following) →
              let seen := match opened with
                | none => moved
                | some i => moved.setSession i { s.session i with replySeen := true }
              exec (.transmissionEnd p) s = .next (seen.setMgmt { s.mgmt with
                current := if restart = true then some { req := r, stage := .restartWait w.frame.serial } else none,
                cache := if store = true
                  then cacheStore s.mgmt.cache { station := r.src, code := r.code, tag := r.tag, bytes := bytes }
                  else s.mgmt.cache }))
            ∧ (∀ i, w.frame.who = .session i → w.withdrawn = false → (s.session i).port = p →
              let y := s.session i
              (∀ n last, y.offered = .data n last → y.credit = 1 → y.buffer.drop n ≠ [] →
                exec (.transmissionEnd p) s = .next (moved.setSession i { y with
                  state := .stalled, idleTimer := true, credit := 0, delivered := min counterMax (y.delivered + n),
                  point := last + 1, buffer := y.buffer.drop n, offered := .none }))
              ∧ (y.offered = .endFrame → y.state = .ending → y.reading = false → y.endReason = none →
                exec (.transmissionEnd p) s = .next (moved.setSession i Session.initial)))))

/-- The transmit arbiter (R149): with the transmitter free and the port UP it chooses by the two queues and the fairness
count, and the frame leaves its queue; with both queues empty, or the transmitter busy, or the port DOWN, nothing is
chosen. The count is 0 after a reset, a LINK DOWN and a LINK UP. -/
def Obligations.ArbiterChoosesByTheFairnessCount : Prop :=
  ∀ x : PortState,
    (x.up = true → x.tx = none →
      (∀ r rs, x.relayQ = r :: rs → x.localQ = [] →
        startFrame x = { x with tx := some { bytes := r, origin := none }, relayQ := rs, fair := 0 })
      ∧ (∀ f fs, x.relayQ = [] → x.localQ = f :: fs →
        startFrame x = { x with
          tx := some { bytes := f.bytes ++ be 2 (crc16 f.bytes).toNat, origin := some f }, localQ := fs, fair := 0 })
      ∧ (∀ r rs f fs, x.relayQ = r :: rs → x.localQ = f :: fs → x.fair ≤ 3 →
        startFrame x = { x with tx := some { bytes := r, origin := none }, relayQ := rs, fair := x.fair + 1 })
      ∧ (∀ r rs f fs, x.relayQ = r :: rs → x.localQ = f :: fs → x.fair = 4 →
        startFrame x = { x with
          tx := some { bytes := f.bytes ++ be 2 (crc16 f.bytes).toNat, origin := some f }, localQ := fs, fair := 0 })
      ∧ (x.relayQ = [] → x.localQ = [] → startFrame x = x))
    ∧ (x.up = false ∨ x.tx ≠ none → startFrame x = x)
    ∧ PortState.initial.fair = 0 ∧ (portDown x).fair = 0 ∧ (portUp x).fair = 0

/-- FRAME_WITHDRAWAL takes the producer's withdrawn frame out of the waiting list and changes no counter, and nothing
else when the producer has nothing to place (R148); behind it an ENDING session offers its end frame, and is FREE once
that has entered (or been discarded, log 20) with no read outstanding, and a head notice held back is offered (R133,
R137, log 18); with no withdrawn frame of the producer there it changes nothing (log 18). LOCAL_FRAME_ENDING is taken
at the frame's producer. A session takes no action. The Notice Unit counts the transmission of the head's frame and
starts the retry timer, or parks the head when the frame was discarded; the ending of any other notice frame changes
nothing (8.7, 10.3), but that it offers a head held back behind a frame which a LINK DOWN has discarded since; such a
head stays held back while a notice frame still waits there (log 18). The Management Unit drops a DISCARDED answer
unstored (log 17), ends the session that it opened, and begins the next request or is IDLE; but for a RESTART it takes
no action on any other ending (R140, R161). -/
def Obligations.WithdrawalsAndEndingsAreTaken : Prop :=
    (∀ (p : Port) (who : Producer) (s : State),
      let x := s.port p
      ((∀ w ∈ x.waiting, w.frame.who ≠ who ∨ w.withdrawn = false) → exec (.frameWithdrawal p who) s = .next s)
      ∧ ∀ (pre post : List Waiter) (w : Waiter),
        Oldest (fun y => y.frame.who = who ∧ y.withdrawn = true) x.waiting pre w post →
        let t := s.setPort p { x with waiting := pre ++ post }
        let back := s.notice.queue ≠ [] ∧ s.notice.head = .queued ∧ s.notice.frame = none
        ((∀ i, who = .session i → (s.session i).port ≠ p ∨ (s.session i).state = .free) → (who = .notice → ¬ back) →
          exec (.frameWithdrawal p who) s = .next t)
        ∧ (∀ i why u, who = .session i → (s.session i).port = p → (s.session i).state = .ending →
          (s.session i).endReason = some why → (s.session i).replySeen = true → isWaiting p who t = false →
          let y := s.session i
          LocalOffered p who (endFrame s.seqr.own i y why) t u →
          exec (.frameWithdrawal p who) s = .next (u.setSession i
            (if (t.port p).up = true ∧ 4 ≤ (t.port p).localQ.length
              then { y with endReason := none, offered := .endFrame }
              else if y.reading = true then { y with endReason := none, offered := .none } else Session.initial)))
        ∧ (∀ v, who = .notice → back → HeadOffered s.notice t v → exec (.frameWithdrawal p who) s = .next v))
  ∧ (∀ (p : Port) (pre post : List Ending) (e : Ending) (s : State),
      Oldest (fun y => y.port = p ∧ y.who = e.who) s.raised.endings pre e post → NoStop s → LogQuiet s →
      let t := s.setRaised { s.raised with endings := pre ++ post }
      let queued := s.notice.queue ≠ [] ∧ s.notice.head = .queued
      let mine := queued ∧ s.notice.frame = some e.serial
      let back := queued ∧ s.notice.frame = none
      (∀ i, e.who = .session i → exec (.localFrameEnding p e.who) s = .next t)
      ∧ (e.who = .notice → ¬ mine → ¬ back ∨ isWaiting s.notice.settings.port .notice s = true →
        exec (.localFrameEnding p e.who) s = .next t)
      ∧ (e.who = .notice → back → isWaiting s.notice.settings.port .notice s = false → LocalRoom s.notice.settings.port s →
        exec (.localFrameEnding p e.who) s
          = .next ((enqueued s.notice.settings.port .notice
              (noticeFrame s.seqr.own s.notice (s.notice.queue.headD default)) t).setNotice
            { s.notice with frame := some s.serial, carried := s.notice.overflow }))
      ∧ (e.who = .notice → mine → e.transmitted = true →
        exec (.localFrameEnding p e.who) s = .next (t.setNotice { s.notice with
          attempts := s.notice.attempts + 1, head := .inFlight, frame := none,
          retry := some s.notice.settings.retry }))
      ∧ (e.who = .notice → mine → e.transmitted = false →
        exec (.localFrameEnding p e.who) s = .next (t.setNotice { s.notice with head := .parked, frame := none }))
      ∧ (e.who = .mgmt → (∀ c ∈ s.mgmt.current, c.stage ≠ .restartWait e.serial
            ∧ ∀ bytes store opened restart, c.stage = .replying e.serial bytes store opened restart → e.transmitted = true) →
        exec (.localFrameEnding p e.who) s = .next t)
      ∧ (∀ r bytes store opened, e.who = .mgmt → e.transmitted = false →
        s.mgmt.current = some { req := r, stage := .replying e.serial bytes store opened false } →
        (∀ i, opened = some i → sessionOpen (s.session i) = true ∧ (s.session i).offered = .none) →
        let closed : State := match opened with
          | none => t
          | some i =>
            let y := s.session i
            let lost : Session := if y.reading = true
              then { y with state := .ending, buffer := [], idleTimer := false, endReason := none, offered := .none }
              else Session.initial
            (t.setDir { s.dir with entries := s.dir.entries.map (fun x =>
              if y.source ≠ 0 ∧ x.num = y.source then { x with sessions := x.sessions - 1 } else x) }).setSession i lost
        LogQuiet closed →
        (s.mgmt.queue = [] → exec (.localFrameEnding p e.who) s
          = .next (closed.setMgmt { s.mgmt with current := none }))
        ∧ (∀ q more, s.mgmt.queue = q :: more → q.cached = none → paramLength q.code = some q.params.length →
          s.mgmt.managers = [] ∨ q.src ∈ s.mgmt.managers → s.seqr.part = .ready →
          exec (.localFrameEnding p e.who) s = .next (closed.setMgmt { s.mgmt with
            queue := more, current := some { req := q, stage := .handed } }))))

/-- SESSION_LINK_LOST takes a fall of the line, before or after the Relay: every session whose requester port it is
ends without an end frame; it is FREE when no read is outstanding and ENDING otherwise; the open-session count of its
recording falls by 1; the other session is untouched (7.1, 7.7, 8.6, 8.7). A frame of a session that waits for room
is not withdrawn: it stays as it is, for the Relay to discard and count (8.6; log 47). With no such change of the line
the command changes nothing (log 39). -/
def Obligations.LinkLossEndsSessionsSilently : Prop :=
  ∀ (p : Port) (s : State),
    ((∀ q ∈ s.raised.retDown, q ≠ p) → s.seqr.part = .reset ∨ (s.port p).line = false →
      exec (.sessionLinkLost p) s = .next s)
    ∧ ∀ u : State,
      (∃ pre post, Oldest (fun y => y = p) s.raised.retDown pre p post
          ∧ u = s.setRaised { s.raised with retDown := pre ++ post })
        ∨ (∀ q ∈ s.raised.retDown, q ≠ p) ∧ FirstTakes p false { s.raised with
            portLink := s.raised.portLink ++ [(p, false)], noticeLink := s.raised.noticeLink ++ [(p, false)] } s u →
      let lost (num : Nat) : Nat := ([SessionId.one, .two].filter (fun i =>
        decide ((s.session i).port = p ∧ (s.session i).state ≠ .free ∧ (s.session i).state ≠ .ending
          ∧ (s.session i).source = num ∧ num ≠ 0))).length
      ∃ t, exec (.sessionLinkLost p) s = .next t
        ∧ (∀ i, (s.session i).port ≠ p ∨ (s.session i).state = .free → t.session i = s.session i)
        ∧ (∀ i, (s.session i).port = p → (s.session i).state ≠ .free → (s.session i).reading = false →
            t.session i = Session.initial)
        ∧ (∀ i, (s.session i).port = p → (s.session i).state ≠ .free → (s.session i).reading = true →
            (t.session i).state = .ending ∧ (t.session i).endReason = none ∧ (t.session i).offered = .none
              ∧ (t.session i).reading = true)
        ∧ t.dir = { s.dir with
            entries := s.dir.entries.map (fun e => { e with sessions := e.sessions - lost e.num }) }
        ∧ t = { u with ret := t.ret, dir := t.dir }

/-! ### From the classifier to the controller (01, 02, 05) -/

/-- The tests of one entry (R7 to R10): an error frame is matched by state, direction and frame kind alone; a GOOD frame
also by the four header tests and, when the entry has one, the payload test, which a short payload fails. -/
def Obligations.EntriesMatchByTheirTests : Prop :=
  ∀ (r : Rule) (p : Port) (d : Delivered),
    let direction := r.dir = .either ∨ (r.dir = .aToB ∧ p = .a) ∨ (r.dir = .bToA ∧ p = .b)
    let kind := r.kind = .any ∨ (r.kind = .good ∧ d.outcome = .good) ∨ (r.kind = .error ∧ d.outcome ≠ .good)
    let header := byteAt d.bytes 0 &&& r.destMask = r.destValue &&& r.destMask
      ∧ byteAt d.bytes 1 &&& r.srcMask = r.srcValue &&& r.srcMask
      ∧ r.classLow ≤ (byteAt d.bytes 2).toNat ∧ (byteAt d.bytes 2).toNat ≤ r.classHigh
      ∧ r.lenMin ≤ (byteAt d.bytes 4).toNat ∧ (byteAt d.bytes 4).toNat ≤ r.lenMax
    let tested (t : PayloadTest) : BitVec 32 := BitVec.ofNat 32 (fieldAt (5 + t.offset) t.length d.bytes)
    (d.outcome ≠ .good → (ruleMatches r p d = true ↔ r.state = .enabled ∧ direction ∧ kind))
    ∧ (d.outcome = .good → r.test = none →
      (ruleMatches r p d = true ↔ r.state = .enabled ∧ direction ∧ kind ∧ header))
    ∧ (∀ t, d.outcome = .good → r.test = some t →
      (ruleMatches r p d = true ↔ r.state = .enabled ∧ direction ∧ kind ∧ header
        ∧ t.offset + t.length ≤ (byteAt d.bytes 4).toNat
        ∧ (t.sense = .equal ↔ tested t &&& t.mask = t.value &&& t.mask)))

/-- FRAME_RECEIVED takes the oldest frame delivered at the port. The matching entry of lowest index counts a hit and
its Action gives the result; with no match the default action gives it and the default-hit counter counts. A result
with a capture request or a trigger mark goes to the Packer, and nothing else changes (1.3, 1.4); that the frame was
delivered in MOUNTING stays with the result (log 46). -/
def Obligations.FramesAreClassifiedByTheFirstMatch : Prop :=
  ∀ (p : Port) (pre post : List (Port × Delivered)) (d : Delivered) (s : State),
    Oldest (fun y => y.1 = p) s.raised.classify pre (p, d) post →
    let result (rule : Nat) (capture : Option Captured) (mark : Bool) : Result :=
      { dir := p, outcome := d.outcome, rule := rule, time := s.packer.timeBase,
        origLen := if d.outcome = .overlong then 247 else d.count, capture := capture, mark := mark,
        mounting := d.mounting }
    let captured (snap : Nat) : Captured :=
      if d.outcome = .good then
        { bytes := d.bytes.take 5 ++ ((d.bytes.drop 5).take (byteAt d.bytes 4).toNat).take snap,
          truncated := decide (snap < (byteAt d.bytes 4).toNat) }
      else { bytes := d.bytes.take 205, truncated := decide (205 < d.count) }
    let taken (c : Classifier) (r : Result) : State := (s.setCls c).setRaised { s.raised with
      classify := pre ++ post,
      results := s.raised.results ++ (if r.capture ≠ none ∨ r.mark = true then [r] else []) }
    (∀ (i : Nat) (r : Rule), s.cls.rules[i]? = some r → ruleMatches r p d = true →
      (∀ j q, j < i → s.cls.rules[j]? = some q → ruleMatches q p d = false) →
      exec (.frameReceived p) s = .next (taken
        { s.cls with rules := s.cls.rules.set i { r with hits := min counterMax (r.hits + 1) } }
        (result i (if r.action = .capture ∨ r.action = .trigger then some (captured r.snap) else none)
          (decide (r.action = .trigger ∨ r.action = .triggerOnly)))))
    ∧ ((∀ q ∈ s.cls.rules, ruleMatches q p d = false) → defaultValid s.cls.dflt = true →
      exec (.frameReceived p) s = .next (taken
        { s.cls with defaultHits := min counterMax (s.cls.defaultHits + 1) }
        (result 255 (if s.cls.dflt = .capture then some (captured 200) else none) false)))

/-- CLASSIFICATION_RESULT: with the gate CLOSED at the taking, or of a frame delivered while the part was MOUNTING (log
46), the result is discarded whole (2.4). Otherwise a mark without a capture goes on with the sequence that the next
record takes; a capture that fits the FILLING buffer is packed there, and its mark goes on with its own sequence. A
FILLING buffer without room is closed; then an EMPTY buffer is opened with the Control Slot's records, the GAP record
of a lost tally and the flush timer ahead of the capture; with none EMPTY the capture is lost and counted, its mark
goes on as TRIGGER_LOST, and CAPTURE_LOSS is raised once (2.4 to 2.7). A record that takes the post-end sequence, the
capture's or the GAP's, ends posting with COUNT, and the KEPT snapshot is asked for at once when it is due (R98 to
R100). -/
def Obligations.ResultsArePackedLostOrDiscarded : Prop :=
  ∀ (r : Result) (rest : List Result) (s : State), s.raised.results = r :: rest →
    let p := s.packer
    let raised (seq : Nat) (lost : Bool) : Raised := { s.raised with
      results := rest,
      marks := s.raised.marks
        ++ (if r.mark = true then [{ rule := r.rule, seq := seq, time := r.time, lost := lost }] else []) }
    let frame (c : Captured) (seq : Nat) : Record :=
      { seq := seq, time := r.time, body := .frame r.dir r.outcome c.truncated r.mark r.rule r.origLen c.bytes }
    (p.gateOpen = false ∨ r.mounting = true →
      exec .classificationResult s = .next (s.setRaised { s.raised with results := rest }))
    ∧ (p.gateOpen = true → r.mounting = false → NoStop s → p.nextSeq ≤ 281474976710653 →
      (r.capture = none → LogQuiet s → exec .classificationResult s = .next (s.setRaised (raised p.nextSeq false)))
      ∧ (∀ (c : Captured) (i : BufId), r.capture = some c → bufIn p .filling = some i →
        usedBytes (getBuf p i) + 15 + c.bytes.length ≤ 1024 → ∀ v, CountTaken p.nextSeq
          ((s.setRaised (raised p.nextSeq false)).setPacker
            { setBuf p { getBuf p i with recs := (getBuf p i).recs ++ [frame c p.nextSeq] } i with
              nextSeq := p.nextSeq + 1, lastPlaced := p.nextSeq,
              recordsPacked := min counterMax (p.recordsPacked + 1) }) v →
        LogQuiet v → exec .classificationResult s = .next v)
      ∧ (∀ (c : Captured) (q : Packer), r.capture = some c → NoRoomFor p (15 + c.bytes.length) q →
        (∀ j v, bufIn q .empty = some j → p.slot.any isRunStop = false →
          p.nextSeq + (lossGap p).length ≤ 281474976710653 →
          CountTaken p.nextSeq ((s.setRaised (raised (p.nextSeq + (lossGap p).length) false)).setPacker
            (openedWith s.ctl.settings.flush j [frame c (p.nextSeq + (lossGap p).length)] q)) v →
          LogQuiet v → exec .classificationResult s = .next v)
        ∧ (bufIn q .empty = none → LogQuiet (s.setPacker q) →
          exec .classificationResult s = .next ((s.setRaised { raised p.nextSeq true with
              events := s.raised.events
                ++ (if p.lossFlag = true then [] else [(.packer, .captureLoss r.time p.nextSeq)]) }).setPacker
            { q with
              capturesLost := min counterMax (p.capturesLost + 1), tallyCount := min counterMax (p.tallyCount + 1),
              tallyFirst := if p.tallyCount = 0 then r.time else p.tallyFirst, tallyLast := r.time,
              lossFlag := true }))))

/-- TRIGGER_MARK: the outcome of a trigger is the first row of R89 that applies, by the state at the taking alone (log
43). Discarded: nothing. Ignored: counted. Refused: counted, and TRIGGER_REFUSED raised. A trigger that is taken
creates its recording: the next number that no entry holds, block list of window and active block, first record
sequence (by R93's formula whatever the trigger sequence, log 44), holds, post-end sequence and post timer, POSTING,
and a CAPTURING job; a writer that is serving keeps it behind its other jobs, and an IDLE one appends its page (5.4). -/
def Obligations.TriggersHaveTheirOutcome : Prop :=
    (∀ (m : TriggerMark) (rest : List TriggerMark) (s : State), s.raised.marks = m :: rest →
      let t := s.setRaised { s.raised with marks := rest }
      (s.ctl.state = .stopped → exec .triggerMark s = .next t)
      ∧ (s.ctl.state = .posting ∨ s.ctl.state = .closing
          ∨ (s.ctl.state = .running ∧ (s.ctl.holdoffTimer ≠ none ∨ s.log.active = none)) →
        exec .triggerMark s = .next (t.setCtl { s.ctl with ignored := min counterMax (s.ctl.ignored + 1) }))
      ∧ (s.ctl.state = .running → s.ctl.holdoffTimer = none → s.log.active ≠ none → 12 ≤ s.dir.entries.length →
        exec .triggerMark s = .next ((s.setRaised { s.raised with
            marks := rest,
            events := s.raised.events
              ++ [(.controller, .triggerRefused (.rule m.rule) m.seq s.dir.entries.length)] }).setCtl
          { s.ctl with refused := min counterMax (s.ctl.refused + 1) })))
  ∧ (∀ (m : TriggerMark) (rest : List TriggerMark) (a k : Nat) (s : State), s.raised.marks = m :: rest →
      s.ctl.state = .running → s.ctl.holdoffTimer = none → s.log.active = some a → s.dir.entries.length < 12 →
      s.jrnl.usable = true →
      let after (n : Nat) : Nat := if n < 65535 then n + 1 else 1
      let num := Nat.repeat after k s.dir.nextNumber
      k ≤ 12 → (∀ j, j < k → ∃ e ∈ s.dir.entries, e.num = Nat.repeat after j s.dir.nextNumber) →
      (∀ e ∈ s.dir.entries, e.num ≠ num) →
      let x := s.ctl.settings
      let window := (((s.log.history.reverse).takeWhile
        (fun b => decide (s.ctl.runOrigin ≤ upperBound s.log b))).take x.window).reverse
      let blocks := window ++ [a]
      let e : Entry :=
        { num := num, state := .capturing, source := .rule m.rule, trigTime := m.time, trigSeq := m.seq,
          trigLost := m.lost, last := none, reason := none, blocks := blocks, sessions := 0, journaled := .none,
          first := max s.ctl.runOrigin
            (((blockEntry s.log (blocks.headD a)).firstSeq).getD (oldestHeld s.packer)) }
      let taken (w : JournalWriter) : State := { s with
        raised := { s.raised with marks := rest },
        dir := { entries := s.dir.entries ++ [e], nextNumber := after num },
        log := { blocks.foldl raiseHold s.log with capturingRec := num },
        ctl := { s.ctl with
          state := .posting, postEnd := m.seq + x.postCount, keptAsked := false,
          taken := min counterMax (s.ctl.taken + 1), postTimer := if x.postTime = 0 then none else some x.postTime },
        jrnl := w }
      (s.jrnl.state ≠ .idle → exec .triggerMark s
        = .next (taken { s.jrnl with jobs := s.jrnl.jobs ++ [.capturing num blocks] }))
      ∧ (∀ d, s.jrnl.state = .idle → s.jrnl.jobs = [] → s.jrnl.cur = some d → d ≤ 1 → s.jrnl.nextPage ≤ 15 →
        s.seqr.part = .ready → s.arr.running = none → ArrayAlone s.arr → s.log.nextPageSeq < 281474976710655 →
        exec .triggerMark s = .next (pageHanded .journal .journal d s.jrnl.nextPage
          (.journal { role := .append, nextNumber := after num, record := snapshotRecord e .capturing blocks })
          (taken { s.jrnl with state := .appending, jobs := [.capturing num blocks] }))))

/-- The FILLING buffer is closed by FLUSH, by the flush timer and by the closure that follows posting: it is FULL, the
last in order, and the timer is off. FLUSH answers OK with the last sequence placed (2.7, R38 to R40). An expiry of a
timer that does not run, and a closure that was not asked, change nothing (logs 2, 3 and 39). What the closed buffer
then meets at the log is left to the Log Writer's check. -/
def Obligations.TheFillingBufferIsClosed : Prop :=
  ∀ (i : BufId) (s : State),
    let closed := { setBuf s.packer { getBuf s.packer i with state := .full } i with
      fullOrder := s.packer.fullOrder ++ [i], flushTimer := none }
    let t := s.setPacker closed
    (bufIn s.packer .filling = some i → NoStop s → LogQuiet t →
      (s.packer.flushTimer ≠ none → exec .flushTimerExpiry s = .next t)
      ∧ (s.raised.closures ≠ 0 → exec .postingClosure s
        = .next (t.setRaised { s.raised with closures := s.raised.closures - 1 })))
    ∧ (bufIn s.packer .filling = some i → LogQuiet t → ∀ r, Handed 0x20 r s → ReplyRoom r s →
      exec .flush s = .next (replied r .ok (be6 s.packer.lastPlaced) t))
    ∧ (bufIn s.packer .filling = none → LogQuiet s →
      (NoStop s → s.raised.closures ≠ 0 → exec .postingClosure s
        = .next (s.setRaised { s.raised with closures := s.raised.closures - 1 }))
      ∧ (∀ r, Handed 0x20 r s → ReplyRoom r s →
        exec .flush s = .next (replied r .ok (be6 s.packer.lastPlaced) s)))
    ∧ (s.packer.flushTimer = none → exec .flushTimerExpiry s = .next s)
    ∧ (s.raised.closures = 0 → exec .postingClosure s = .next s)

/-- The Log Writer's check with a FULL buffer waiting and a page free in the active block: the oldest FULL buffer is
WRITING, the page takes the next page sequence and a header formed from the buffer, the condition is NORMAL, and with
the array free the program runs (4.4, R68, R69). -/
def Obligations.FullBuffersAreHandedInAtTheNextPage : Prop :=
  ∀ (i : BufId) (more : List BufId) (b : Nat) (s : State), s.seqr.part = .ready → inFault s.log = false → NoStop s →
    s.arr.running = none → ArrayAlone s.arr → bufIn s.packer .writing = none → s.packer.fullOrder = i :: more →
    i ∉ more → (getBuf s.packer i).state = .full → s.log.active = some b → 4 ≤ b → b ≤ 1023 → s.log.nextPage ≤ 15 →
    s.log.nextPageSeq < 281474976710655 →
    let buf := getBuf s.packer i
    let header : PageHeader :=
      { kind := .log, pageSeq := s.log.nextPageSeq, run := buf.run,
        capturing := if b ∈ (findEntry s.dir s.log.capturingRec).elim [] Entry.blocks then s.log.capturingRec else 0,
        firstSeq := (buf.recs.head?).elim 0 Record.seq, count := buf.recs.length, used := recordsSize buf.recs }
    settle s = { s with
      packer := { setBuf s.packer { buf with state := .writing } i with fullOrder := more },
      log := { s.log with nextPageSeq := s.log.nextPageSeq + 1, condition := .normal },
      arr := { s.arr with running := some {
        who := .logWriter, req := .program b s.log.nextPage header (.log buf.recs), count := 0, reached := 0 } } }

/-- POST_TIME_EXPIRY ends posting: the recording is CLOSING with reason TIME and the last sequence assigned, the
target is RUNNING, and the Packer is asked to close its buffer; with the CAPTURING snapshot and the last sequence
committed already, the KEPT snapshot is asked for in the same happening. HOLDOFF_EXPIRY stops the holdoff timer (5.6,
R98, R99, R100, R102). An expiry of a post timer that does not run changes nothing (logs 3 and 39). -/
def Obligations.PostTimeEndsPosting : Prop :=
  ∀ s : State,
    (∀ e v, s.ctl.postTimer ≠ none → s.ctl.state = .posting → OpenAlone s.dir e → NoStop s →
      PostingEnded .time e (lastAtEnd s e) s v → LogQuiet v → exec .postTimeExpiry s = .next v)
    ∧ (s.ctl.postTimer = none → exec .postTimeExpiry s = .next s)
    ∧ exec .holdoffExpiry s = .next { s with ctl := { s.ctl with holdoffTimer := none } }

/-! ### The Page Array and the Array Controller (03) -/

/-- What a program and an erase leave (R47 to R50). A program touches only its page: COMMITTED gives back header and
data with the two checks that the controller computes over the data bytes and over the header fields with the data
check (R44; byte arrangements, log 7); a page that is not erased, and a failed blank check, stay as they are; any
later failure reads UNCOMMITTED. An erase touches only its block: ERASED makes every page BLANK; a first stage that
stops at page k, BLANK or not, has cancelled the marks of page 0 and the pages below k (of page 0 also at k = 0, and that
a BLANK page k ends the erase too, log 32); in the
second stage each page reads BLANK or UNCOMMITTED. -/
def Obligations.ProgramsAndErasesLeaveTheirPages : Prop :=
  ∀ (store : List (Nat × Page)) (b : Nat), sparseWf store = true →
    (∀ (p : Nat) (h : PageHeader) (d : PageData), p ≤ 15 →
      let w := programPage store b p h d
      (∀ r c q, q ≤ 15 → (c ≠ b ∨ q ≠ p) → pageAt (w r).1 c q = pageAt store c q)
      ∧ (pageAt store b p ≠ none → ∀ r, w r = (store, false))
      ∧ (pageAt store b p = none →
        (w .committed).2 = true ∧ readPage (w .committed).1 b p = .committed h
            { data := crc16 (pageBytes d), header := crc16 (Config.headerBytes h (crc16 (pageBytes d))) } d
        ∧ w .failedBlank = (store, false)
        ∧ (w .failedWrite).2 = false ∧ readPage (w .failedWrite).1 b p = .uncommitted
        ∧ (w .failedCommit).2 = false ∧ readPage (w .failedCommit).1 b p = .uncommitted))
    ∧ (let e := eraseBlock store b
      (∀ r c q, q ≤ 15 → c ≠ b → pageAt (e r).1 c q = pageAt store c q)
      ∧ (e .erased).2 = true ∧ (∀ q, q ≤ 15 → readPage (e .erased).1 b q = .blank)
      ∧ (∀ k q, k ≤ 15 → q ≤ 15 → (e (.cancelFailed k)).2 = false
        ∧ (q < k ∨ q = 0 → readPage (e (.cancelFailed k)).1 b q
            = if pageAt store b q = none then .blank else .uncommitted)
        ∧ (k ≤ q → q ≠ 0 → pageAt (e (.cancelFailed k)).1 b q = pageAt store b q))
      ∧ (∀ (blank : BitVec 16) (q : Nat), q ≤ 15 → (e (.eraseFailed blank)).2 = false
        ∧ readPage (e (.eraseFailed blank)).1 b q = if blank.getLsbD q then .blank else .uncommitted))

/-- The choice of the next operation while READY, with the array free (R51, R53, R54): journal program, log program, a
session's read, the suspended erase, journal erase, erase-ahead. Between two session reads the session not served by the
most recent one is chosen; a log block with a hold is not erased, and its erase is returned. -/
def Obligations.TheControllerChoosesInOrder : Prop :=
  ∀ s : State, s.seqr.part = .ready → s.arr.running = none →
    let a := s.arr
    let run (x : ArrayCtl) (who : Requester) (req : ArrayReq) : ArrayCtl :=
      { x with running := some { who := who, req := req, count := 0, reached := 0 } }
    (∀ b p h d, a.journal = some (.program b p h d) → programHeld a b = false →
      arrayChoose s = s.setArr (run { a with journal := none } .journal (.program b p h d)))
    ∧ (∀ b p h d, waitingProgram a a.journal = none → a.logWriter = some (.program b p h d) → programHeld a b = false →
      arrayChoose s = s.setArr (run { a with logWriter := none } .logWriter (.program b p h d)))
    ∧ (waitingProgram a a.journal = none → waitingProgram a a.logWriter = none →
      (∀ b1 p1 b2 p2, a.session1 = some (.read b1 p1) → a.session2 = some (.read b2 p2) →
        suspendedErase a b1 = false → suspendedErase a b2 = false →
        arrayChoose s = s.setArr (match a.lastSession with
          | .one => run { a with session2 := none, lastSession := .two } (.session .two) (.read b2 p2)
          | .two => run { a with session1 := none, lastSession := .one } (.session .one) (.read b1 p1)))
      ∧ (∀ b1 p1, a.session1 = some (.read b1 p1) → suspendedErase a b1 = false → a.session2 = none →
        arrayChoose s = s.setArr (run { a with session1 := none, lastSession := .one } (.session .one) (.read b1 p1)))
      ∧ (∀ b2 p2, a.session2 = some (.read b2 p2) → suspendedErase a b2 = false → a.session1 = none →
        arrayChoose s = s.setArr (run { a with session2 := none, lastSession := .two } (.session .two) (.read b2 p2)))
      ∧ (sessionChoice a = none →
        (∀ e, a.suspended = some e → arrayChoose s = s.setArr { a with
          suspended := none,
          running := some { who := e.who, req := .erase e.block, count := e.count, reached := e.reached } })
        ∧ (∀ b, a.suspended = none → a.journal = some (.erase b) → b ≤ 3 →
          arrayChoose s = (s.setArr { a with
            journal := none,
            running := some { who := .journal, req := .erase b, count := 0, reached := 1 } }).setStore
              (cancelMark s.store b 0))
        ∧ (∀ b, a.suspended = none → a.journal = none → a.eraseAhead = some (.erase b) → 4 ≤ b → b ≤ 1023 →
          holdOf s.log b = 0 → arrayChoose s = (s.setArr { a with
            eraseAhead := none,
            running := some { who := .eraseAhead, req := .erase b, count := 0, reached := 1 } }).setStore
              (cancelMark s.store b 0))
        ∧ (∀ b, a.suspended = none → a.journal = none → a.logWriter = none → a.eraseAhead = some (.erase b) →
          4 ≤ b → b ≤ 1023 → holdOf s.log b ≠ 0 → arrayChoose s = s.setArr { a with eraseAhead := none })
        ∧ (a.suspended = none → a.journal = none → a.eraseAhead = none → arrayChoose s = s)))

/-- A session's read while an erase runs (R46, R56): a read of the erase's own block is answered ERASING and changes
nothing; a read of another block suspends the erase, which keeps its progress and counts one more, and runs, with
nothing of higher place waiting; when the erase has been suspended 8 times the read waits. -/
def Obligations.ReadsSuspendARunningErase : Prop :=
  ∀ (i : SessionId) (b c p : Nat) (x : Running) (s : State), s.arr.running = some x → x.req = .erase b →
    s.seqr.part = .ready → ArrayAlone s.arr → 4 ≤ c → c ≤ 1023 → p ≤ 15 →
    (c = b → arrayAsk (.session i) (.read c p) s = (s, .erasing))
    ∧ (c ≠ b → x.count < 8 → arrayAsk (.session i) (.read c p) s = (s.setArr { s.arr with
        suspended := some { who := x.who, block := b, count := x.count + 1, reached := x.reached },
        running := some { who := .session i, req := .read c p, count := 0, reached := 0 }, lastSession := i },
        .accepted))
    ∧ (c ≠ b → 8 ≤ x.count → arrayAsk (.session i) (.read c p) s = (s.setArr (match i with
        | .one => { s.arr with session1 := some (.read c p) }
        | .two => { s.arr with session2 := some (.read c p) }), .accepted))

/-- READ_PAGE_END of a session's read, with nothing else for the array to do (R129 to R133). An ENDING session without an
end frame to place is FREE. COMMITTED loads the page's records in the session's range: without credit it is STALLED; with
credit it delivers a data frame, and is STALLED with its last credit spent and records left, or, with none left, reads
on. CORRUPT passes over the header's records; a page that reads CORRUPT, BLANK or UNCOMMITTED, or gives no record, is
passed, and the fetch step reads on, waits in FOLLOWING, or ends the session: COMPLETE, END_OF_DATA or OVERTAKEN. A read
handed in of a block whose erase runs is answered ERASING and ends it OVERTAKEN (R46, here the suspended erase that has
been resumed). Where a live session reads is what Locate answers (R81, R130); a cursor moves to the last usable block of
its list at or below its next sequence, and behind page 16 to the next usable one (R129). The model's choices: a cursor
with no such block stays where it is (log 53), records delivered stay at their maximum (log 26), and Locate over an empty
list of blocks answers NOT_AVAILABLE (log 34). -/
def Obligations.SessionsTakeThePageTheyRead : Prop :=
  (∀ (i : SessionId) (b p : Nat) (x : Running) (e : Option Suspended) (s : State), s.arr.running = some x →
    x.who = .session i → x.req = .read b p → ArrayAlone { s.arr with suspended := none } → s.arr.suspended = e →
    (e ≠ none → s.seqr.part = .ready) → NoStop s →
    let y := s.session i
    let t := s.setArr { s.arr with suspended := none, running := e.map (fun z =>
      { who := z.who, req := .erase z.block, count := z.count, reached := z.reached }) }
    LogQuiet t →
      (y.state = .ending → y.endReason = none → y.offered ≠ .endFrame →
        exec .readPageEnd s = .next (t.setSession i Session.initial))
      ∧ (∀ (g : Page) (recs : List Record) (last : Record), y.state = .fetching → pageAt s.store b p = some g →
        g.mark = .present → g.headerFlaw = 0 → g.dataFlaw = 0 → g.data = .log recs → recs.getLast? = some last →
        let wanted := recs.filter (fun r => decide (y.nextSeq ≤ r.seq) && (match y.endPoint with
          | none => true
          | some e => decide (r.seq ≤ e)))
        let loaded := if y.limit = 0 then wanted else wanted.take (y.limit - y.delivered)
        let z : Session := { y with
          buffer := loaded, nextSeq := max y.nextSeq (last.seq + 1), page := y.page + 1, reading := false }
        (loaded ≠ [] → y.credit = 0 → exec .readPageEnd s = .next (t.setSession i { z with state := .stalled }))
        ∧ (y.replySeen = true → isWaiting y.port (.session i) s = false → LocalRoom y.port s →
          (∀ now next more final, loaded = now ++ next :: more → now.getLast? = some final → recordsSize now ≤ 235 →
            235 < recordsSize now + recordSize next → y.credit = 1 →
            exec .readPageEnd s = .next ((enqueued y.port (.session i)
              (dataFrame s.seqr.own y.station i (skipFlag y now) now) t).setSession i { z with
                state := .stalled, idleTimer := true, credit := 0, delivered := min counterMax (y.delivered + now.length),
                point := final.seq + 1, buffer := next :: more, offered := .none }))
          ∧ (∀ final z1 c q, loaded.getLast? = some final → recordsSize loaded ≤ 235 → 0 < y.credit → e = none →
            s.seqr.part = .ready →
            FetchReads s { z with
              idleTimer := y.idleTimer || decide (y.credit = 1), credit := y.credit - 1, state := .delivering,
              delivered := min counterMax (y.delivered + loaded.length), point := final.seq + 1, buffer := [],
              offered := .none } z1 c q →
            exec .readPageEnd s = .next (readOut i z1 c q (enqueued y.port (.session i)
              (dataFrame s.seqr.own y.station i (skipFlag y loaded) loaded) t)))))
      ∧ (∀ z : Session, y.state = .fetching → y.buffer = [] →
        (z = { y with page := y.page + 1, reading := false }
            ∧ (∀ g, pageAt s.store b p = some g → g.mark ≠ .present ∨ g.headerFlaw ≠ 0))
          ∨ (∃ g n, pageAt s.store b p = some g ∧ g.mark = .present ∧ g.headerFlaw = 0
            ∧ z = { y with nextSeq := max y.nextSeq n, page := y.page + 1, reading := false }
            ∧ ((g.dataFlaw ≠ 0 ∧ n = g.header.firstSeq + g.header.count)
              ∨ g.dataFlaw = 0 ∧ ∃ recs last, g.data = .log recs ∧ recs.getLast? = some last ∧ n = last.seq + 1
                ∧ ∀ r ∈ recs, y.nextSeq ≤ r.seq → ∃ k, y.endPoint = some k ∧ k < r.seq)) →
        (∀ z1 c q, FetchReads s z z1 c q →
          (e = none → s.seqr.part = .ready → exec .readPageEnd s = .next (readOut i z1 c q t))
          ∧ (∀ d, e = some d → d.block = c → SessionClear i (s.setSession i z) → LocalRoom y.port s →
            exec .readPageEnd s = .next (sessionEnded i z1 .overtaken t)))
        ∧ (∀ why, FetchEnds s z why → SessionClear i (s.setSession i z) → LocalRoom y.port s →
          exec .readPageEnd s = .next (sessionEnded i z why t))
        ∧ (z.source = 0 → z.limit = 0 ∨ z.delivered < z.limit → s.log.lastCommitted < z.nextSeq → z.follow = true →
          exec .readPageEnd s = .next (t.setSession i { z with state := .following }))))
  ∧ (∀ (l : LogManager) (n : Nat),
    let listed := l.history ++ (match l.active with
      | none => []
      | some a => if (blockEntry l a).firstSeq = none then [] else [a])
    let first (b : Nat) : Nat := ((blockEntry l b).firstSeq).getD 0
    (l.lastCommitted < n → locate l n = .beyond)
    ∧ (n ≤ l.lastCommitted → (∀ b ∈ listed, n < first b) → locate l n = .notAvailable)
    ∧ (∀ pre b post, n ≤ l.lastCommitted → listed = pre ++ b :: post → listed.Nodup → first b ≤ n →
      (∀ c ∈ post, n < first c) → locate l n = .block b (match post with
        | [] => l.lastCommitted
        | c :: _ => first c - 1)))
  ∧ ∀ (l : LogManager) (blocks : List Nat) (pos next : Nat),
    let first (b : Nat) : Option Nat := (blockEntry l b).firstSeq
    (∀ q b f, blocks[q]? = some b → pos ≤ q → first b = some f → f ≤ next →
      (∀ r c g, q < r → blocks[r]? = some c → first c = some g → next < g) →
      cursorBlock l blocks pos next = some (q, b))
    ∧ ((∀ q b f, blocks[q]? = some b → pos ≤ q → first b = some f → next < f) → cursorBlock l blocks pos next = none)
    ∧ (∀ q b, blocks[q]? = some b → pos < q → first b ≠ none →
      (∀ r c, pos < r → r < q → blocks[r]? = some c → first c = none) → nextUsable l blocks pos = some (q, b))
    ∧ ((∀ q b, blocks[q]? = some b → pos < q → first b = none) → nextUsable l blocks pos = none)

/-- READ_PAGE_END of the Sequencer's k-th read of phase 1: the result is kept, the highest page sequence seen is kept,
and for k below 3 the next page of the Profile Area is read. A page reads BLANK, UNCOMMITTED, CORRUPT or COMMITTED by
the first case of R45 that applies, with the header and its checks as they stand (3.2, 3.3, 11.2; the order of the
reads, log 22). With the last read the block that holds a valid profile of the higher generation, or the only valid one,
is taken: rules with hit counts 0 and default action, capture settings, Manager List, notify settings and Profile Area
state are installed from it; with none valid they stay; and phase 2 begins (R2, R120, R183). READ_PAGE_END while no read
runs changes nothing (log 39). -/
def Obligations.MountReadsTheProfilePages : Prop :=
  ∀ s : State,
    ((∀ x, s.arr.running = some x → ∀ b p, x.req ≠ .read b p) → exec .readPageEnd s = .next s)
    ∧ ∀ (k : Nat) (x : Running), k ≤ 3 → s.seqr.part = .mounting → s.seqr.scan = .profile k → s.arr.running = some x →
      x.who = .sequencer → x.req = .read (2 + k / 2) (k % 2) → ArrayAlone s.arr → s.mgmt.current = none →
      let page := pageAt s.store (2 + k / 2) (k % 2)
      let result : ReadResult := match page with
        | none => .blank
        | some g =>
          if g.mark = .present ∧ g.headerFlaw = 0 then
            if g.dataFlaw = 0 then .committed g.header (storedChecks g) g.data else .corrupt g.header (storedChecks g)
          else .uncommitted
      let seen := match page with
        | none => s.seqr.maxSeq
        | some g => if g.mark = .present ∧ g.headerFlaw = 0 then max s.seqr.maxSeq g.header.pageSeq else s.seqr.maxSeq
      let q : Sequencer := { s.seqr with profileGot := s.seqr.profileGot ++ [result], maxSeq := seen }
      (k < 3 → exec .readPageEnd s = .next (readHanded .sequencer (2 + (k + 1) / 2) ((k + 1) % 2)
        { s with seqr := { q with scan := .profile (k + 1) } }))
      ∧ (k = 3 → ∀ r0 r1 r2 : ReadResult, s.seqr.profileGot = [r0, r1, r2] →
        let valid (page0 page1 : ReadResult) (g : Nat) (f : Profile) : Prop :=
          ∃ h0 c0 h1 c1, page0 = .committed h0 c0 (.profile0 g f.settings f.dflt f.managers f.notify)
            ∧ page1 = .committed h1 c1 (.profile1 g f.rules) ∧ h0.kind = .profile ∧ h1.kind = .profile ∧ g ≠ 0
            ∧ profileValid f = true
        let goesOn (u : State) : Host.Outcome State Fault Refusal :=
          .next (readHanded .sequencer 0 0 { u with seqr := { q with phase := 2, scan := .journal 0 } })
        let installed (b g : Nat) (f : Profile) : State := { s with
          cls := { s.cls with rules := f.rules.map (fun e => { e with hits := 0 }), dflt := f.dflt },
          ctl := { s.ctl with settings := f.settings }, mgmt := { s.mgmt with managers := f.managers },
          notice := { s.notice with settings := f.notify },
          jrnl := { s.jrnl with validBlock := some b, generation := g } }
        (∀ g f, valid r0 r1 g f → (∀ h y, valid r2 result h y → h < g) → exec .readPageEnd s = goesOn (installed 2 g f))
        ∧ (∀ g f, valid r2 result g f → (∀ h y, valid r0 r1 h y → h < g) →
          exec .readPageEnd s = goesOn (installed 3 g f))
        ∧ ((∀ g f, ¬ valid r0 r1 g f ∧ ¬ valid r2 result g f) → exec .readPageEnd s = goesOn s))

/-- Phase 2 of the mount scan (R184). Each of the 32 reads keeps a page that reads COMMITTED with Kind JOURNAL, notes
the highest page sequence of a valid header and the last page that does not read BLANK, and goes on to the next page:
block 0 and then block 1, page by page, is the model's reading (log 22).
At the end the newest page that names a recording decides on its entry; the Retired List is that of the newest
RETIRED_LIST page; the next recording number is the newest page's; the current block is, of those with a complete
compaction set, the one with the newest page; and the log scan begins with block 4. -/
def Obligations.ReplayFormsTheDirectory : Prop :=
  (∀ (k : Nat) (x : Running) (s : State), k < 32 → s.seqr.part = .mounting → s.seqr.scan = .journal k →
    s.arr.running = some x → x.who = .sequencer → x.req = .read (k / 16) (k % 16) → ArrayAlone s.arr →
    s.mgmt.current = none →
    let page := pageAt s.store (k / 16) (k % 16)
    let kept : List (Nat × PageHeader × JournalPage) := match page with
      | none => []
      | some g => match g.data with
        | .journal j =>
          if g.mark = .present ∧ g.headerFlaw = 0 ∧ g.dataFlaw = 0 ∧ g.header.kind = .journal
          then [(k / 16, g.header, j)] else []
        | _ => []
    let seen := match page with
      | none => s.seqr.maxSeq
      | some g => if g.mark = .present ∧ g.headerFlaw = 0 then max s.seqr.maxSeq g.header.pageSeq else s.seqr.maxSeq
    let q := { s.seqr with
      jpages := s.seqr.jpages ++ kept, maxSeq := seen,
      dirEnd0 := if page ≠ none ∧ k < 16 then k + 1 else s.seqr.dirEnd0,
      dirEnd1 := if page ≠ none ∧ 16 ≤ k then k - 15 else s.seqr.dirEnd1 }
    (k < 31 → exec .readPageEnd s = .next (readHanded .sequencer ((k + 1) / 16) ((k + 1) % 16)
      { s with seqr := { q with scan := .journal (k + 1) } }))
    ∧ (k = 31 → exec .readPageEnd s = .next (endPhase2 { s with seqr := q, arr := { s.arr with running := none } })))
  ∧ ∀ s : State, s.seqr.part = .mounting → s.arr.running = none → ArrayAlone s.arr →
    let pages := s.seqr.jpages
    (pages.map (fun x => x.2.1.pageSeq)).Nodup →
    let names (x : Nat × PageHeader × JournalPage) (n : Nat) : Prop :=
      (∃ v, x.2.2.record = .snapshot v ∧ v.num = n) ∨ x.2.2.record = .released n
    let lists (x : Nat × PageHeader × JournalPage) : Prop := ∃ bs, x.2.2.record = .retiredList bs
    let complete (b : Nat) : Prop := ∃ size, 1 ≤ size ∧ ∀ pos, 1 ≤ pos → pos ≤ size →
      ∃ x ∈ pages, x.1 = b ∧ x.2.2.role = .copy size pos
    let newest (x : Nat × PageHeader × JournalPage) (kind : Nat × PageHeader × JournalPage → Prop) : Prop :=
      x ∈ pages ∧ kind x ∧ ∀ y ∈ pages, kind y → y.2.1.pageSeq ≤ x.2.1.pageSeq
    let t := endPhase2 s
    (∀ x n, newest x (fun y => names y n) →
      (∀ v, x.2.2.record = .snapshot v → t.dir.entries.filter (fun e => decide (e.num = n)) = [
        { num := n, source := v.source, trigTime := v.trigTime, trigSeq := v.trigSeq, trigLost := v.trigLost,
          first := v.first, last := v.last, reason := v.reason, blocks := v.blocks, sessions := 0,
          state := match v.state with
            | .capturing => .capturing
            | .kept => .kept
            | .frozen => .frozen,
          journaled := match v.state with
            | .capturing => .capturing
            | .kept => .kept
            | .frozen => .frozen }])
      ∧ (x.2.2.record = .released n → ∀ e ∈ t.dir.entries, e.num ≠ n))
    ∧ (∀ e ∈ t.dir.entries, ∃ x ∈ pages, names x e.num)
    ∧ (∀ x bs, newest x lists → x.2.2.record = .retiredList bs → t.log.retired = bs)
    ∧ ((∀ x ∈ pages, ¬ lists x) → t.log.retired = [])
    ∧ (∀ x, newest x (fun _ => True) → t.dir.nextNumber = x.2.2.nextNumber)
    ∧ (pages = [] → t.dir.nextNumber = 1)
    ∧ (∀ x, newest x (fun y => complete y.1) → t.seqr.dirCur = some x.1
      ∧ t.seqr.dirNext = if x.1 = 0 then s.seqr.dirEnd0 else s.seqr.dirEnd1)
    ∧ ((∀ x ∈ pages, ¬ complete x.1) → t.seqr.dirCur = none ∧ t.seqr.dirNext = 16)
    ∧ t = readHanded .sequencer 4 0 { s with
        dir := t.dir, log := { s.log with retired := t.log.retired },
        seqr := { s.seqr with
          phase := 3, scan := .logHead 4, dirCur := t.seqr.dirCur, dirNext := t.seqr.dirNext, jpages := [],
          profileGot := [] } }

/-- Phase 3 of the mount scan (R185, R186). A block with a committed log page 0, COMMITTED or CORRUPT, is FILLED with
its first sequences, any other block STALE, and a block of the Retired List RETIRED; of a block whose page 0 reads
UNCOMMITTED the other pages are read, and of every block its first and its last committed log page are noted. Then the
pages of the block with the highest first record sequence are read, and the newest page sets the last committed
sequence, the next record and page sequences, the last run number, the ring position and, from the FILLED blocks in
ascending first record sequence, the History List; its block, when STALE, becomes FILLED. The order of the reads,
blocks ascending with a block's further pages behind its page 0, is the model's reading (log 22). -/
def Obligations.TheLogScanEntersEveryBlock : Prop :=
  (∀ (b p : Nat) (x : Running) (s : State), 4 ≤ b → b ≤ 1023 → p ≤ 15 → s.seqr.part = .mounting →
    s.arr.running = some x → x.who = .sequencer → x.req = .read b p → ArrayAlone s.arr → s.mgmt.current = none →
    let valid : Option PageHeader := match pageAt s.store b p with
      | none => none
      | some g => if g.mark = .present ∧ g.headerFlaw = 0 then some g.header else none
    let noted : Sequencer := match valid with
      | none => s.seqr
      | some h => if h.kind = .log
        then { s.seqr with
          heads := if (lookup s.seqr.heads b).isSome then s.seqr.heads else putAt s.seqr.heads b (some h),
          tails := putAt s.seqr.tails b (some h) }
        else s.seqr
    let next (scan : ScanStep) (q : Sequencer) (l : LogManager) (c k : Nat) : Host.Outcome State Fault Refusal :=
      .next (readHanded .sequencer c k { s with seqr := { q with scan := scan }, log := l })
    let nextBlock (q : Sequencer) (l : LogManager) : Host.Outcome State Fault Refusal :=
      if b < 1023 then next (.logHead (b + 1)) q l (b + 1) 0
      else .next (settle (scanNewest { s with seqr := q, log := l, arr := { s.arr with running := none } }))
    let entered (st : BlockState) (head : Option PageHeader) : LogManager := setBlockEntry s.log b
      { state := st, hold := 0, firstSeq := head.map PageHeader.firstSeq, firstPage := head.map PageHeader.pageSeq }
    let head := lookup noted.heads b
    (s.seqr.scan = .logHead b → p = 0 →
      (valid = none → pageAt s.store b 0 ≠ none →
        exec .readPageEnd s = next (.logRest b 1) s.seqr s.log b 1)
      ∧ (valid ≠ none ∨ pageAt s.store b 0 = none →
        (b ∈ s.log.retired → exec .readPageEnd s = nextBlock noted (entered .retired head))
        ∧ (b ∉ s.log.retired → (∃ h, valid = some h ∧ h.kind = .log) →
          exec .readPageEnd s = nextBlock noted (entered .filled head))
        ∧ (b ∉ s.log.retired → (∀ h, valid = some h → h.kind ≠ .log) →
          exec .readPageEnd s = nextBlock s.seqr (entered .stale none))))
    ∧ (s.seqr.scan = .logRest b p →
      (p < 15 → exec .readPageEnd s = next (.logRest b (p + 1)) noted s.log b (p + 1))
      ∧ (p = 15 → exec .readPageEnd s
        = nextBlock noted (if b ∈ s.log.retired then entered .retired head else entered .stale none)))
    ∧ (s.seqr.scan = .newest b p → p < 15 → exec .readPageEnd s = next (.newest b (p + 1)) noted s.log b (p + 1))
    ∧ (s.seqr.scan = .newest b 15 → p = 15 → exec .readPageEnd s
      = .next (settle (beginPhase4 (setSequences { s with seqr := noted, arr := { s.arr with running := none } })))))
  ∧ (∀ (b f : Nat) (s : State), s.seqr.part = .mounting → s.arr.running = none → ArrayAlone s.arr →
    sparseWf s.log.table = true → 4 ≤ b → b ≤ 1023 → (blockEntry s.log b).firstSeq = some f →
    (∀ c g, c ≠ b → (blockEntry s.log c).firstSeq = some g → g < f) →
    scanNewest s = readHanded .sequencer b 1 { s with seqr := { s.seqr with scan := .newest b 1 } })
  ∧ (∀ s : State, sparseWf s.log.table = true → (∀ c, (blockEntry s.log c).firstSeq = none) →
    scanNewest s = beginPhase4 (setSequences s))
  ∧ ∀ s : State, sparseWf s.log.table = true →
    let t := setSequences s
    let pages := s.seqr.heads ++ s.seqr.tails
    (∀ c, c ∈ t.log.history ↔ (blockEntry t.log c).state = .filled)
    ∧ t.log.history.Nodup ∧ t.log.history.Pairwise (fun c d => firstSeqOf t.log c ≤ firstSeqOf t.log d)
    ∧ (∀ b h, (b, h) ∈ pages → (∀ y ∈ pages, y ≠ (b, h) → y.2.firstSeq < h.firstSeq) →
      max s.seqr.maxSeq h.pageSeq < 281474976710655 →
      let l := h.firstSeq + h.count - 1
      let revived : BlockEntry := { blockEntry s.log b with
        state := .filled, firstSeq := (lookup s.seqr.heads b).map PageHeader.firstSeq,
        firstPage := (lookup s.seqr.heads b).map PageHeader.pageSeq }
      t = { s with
        log := { (if (blockEntry s.log b).state = .stale then setBlockEntry s.log b revived else s.log) with
          lastCommitted := l, ringPos := b, nextPageSeq := max s.seqr.maxSeq h.pageSeq + 1, history := t.log.history },
        packer := { s.packer with nextSeq := l + 1 }, ctl := { s.ctl with lastRun := h.run } })
    ∧ (pages = [] → s.seqr.maxSeq < 281474976710655 → t = { s with
        log := { s.log with
          lastCommitted := 0, ringPos := 1023, nextPageSeq := s.seqr.maxSeq + 1, history := t.log.history },
        packer := { s.packer with nextSeq := 1 } })

/-- Phases 4 and 5 of the mount scan (R187 to R190). An interrupted recording's list is extended, up to 80 blocks, by
the blocks whose first committed log page names it and lies above its last block, in ascending first record sequence;
its last sequence is that of the last committed page of its last block, or its first one less 1; it is KEPT with
reason INTERRUPTED and its KEPT snapshot is appended, a failed page again at the next page and uncounted. Without a
page left the Directory Area is compacted, at most three times for one recording: the other block is erased, the set
written, a failed page again at the next one, and the snapshot appended behind it. A failed erase or third compaction
fails the Directory Area: its position is as it was before the last compaction began, and the part becomes READY in
FAULT with cause DIRECTORY_ERASE. With no recording left the holds are those of the block lists and the log condition
is decided; in FAULT the part is READY, and otherwise the candidate of the search is erased. That a STALE block stands
at its first committed page is log 33, the reading of the last block's pages log 22, what counts as the third failure
log 37. -/
def Obligations.InterruptedRecordingsAreCompleted : Prop :=
  (∀ (e : Entry) (s : State), sparseWf s.seqr.heads = true →
    let above (f : Nat) : Prop := match e.blocks.getLast? with
      | none => e.first ≤ f
      | some b => match (blockEntry s.log b).firstSeq, lookup s.seqr.heads b with
        | some g, _ => g < f
        | none, some h => h.firstSeq < f
        | none, none => e.first ≤ f
    ∃ more : List Nat, completedList s e = (e.blocks ++ more).take 80 ∧ more.Nodup
      ∧ (∀ c, c ∈ more ↔ c ∉ e.blocks ∧ ∃ h, lookup s.seqr.heads c = some h ∧ h.capturing = e.num ∧ above h.firstSeq)
      ∧ more.Pairwise (fun c d => ∀ g h, lookup s.seqr.heads c = some g → lookup s.seqr.heads d = some h →
          g.firstSeq ≤ h.firstSeq))
  ∧ (∀ s : State, (∀ e ∈ s.dir.entries, e.blocks.Nodup) → (∀ b, holdOf s.log b = 0) → ∀ b,
    blockEntry (computeHolds s).log b = { blockEntry s.log b with
      hold := (s.dir.entries.filter (fun e => decide (b ∈ e.blocks))).length })
  ∧ (∀ (num d : Nat) (x : Running) (e : Entry) (s : State), s.seqr.part = .mounting → s.arr.running = some x →
    x.who = .sequencer → ArrayAlone s.arr → s.mgmt.current = none → s.seqr.dirFault = false → s.seqr.dirCur = some d →
    d ≤ 1 → findEntry s.dir num = some e → s.log.nextPageSeq < 281474976710655 →
    let free : State := { s with arr := { s.arr with running := none } }
    let append (page : Nat) (u : State) (f : Entry) : State := pageHanded .sequencer .journal d page
      (.journal { role := .append, nextNumber := s.dir.nextNumber, record := snapshotRecord f .kept f.blocks })
      { u with seqr := { u.seqr with scan := .append num } }
    (∀ b, s.seqr.scan = .lastBlock num b 15 → x.req = .read b 15 → s.seqr.dirNext ≤ 15 →
      let tails := match pageAt s.store b 15 with
        | none => s.seqr.tails
        | some g => if g.mark = .present ∧ g.headerFlaw = 0 ∧ g.header.kind = .log
          then putAt s.seqr.tails b (some g.header) else s.seqr.tails
      let last := match lookup tails b with
        | none => e.first - 1
        | some h => if h.firstSeq + h.count - 1 < e.first then e.first - 1 else h.firstSeq + h.count - 1
      let kept (f : Entry) : Entry := { f with state := .kept, last := some last, reason := some .interrupted }
      exec .readPageEnd s = .next (append s.seqr.dirNext { free with
        dir := { s.dir with entries := s.dir.entries.map (fun f => if f.num = num then { kept f with
          blocks := e.blocks } else f) },
        seqr := { s.seqr with tails := tails, work := s.seqr.work.drop 1, comp := Compaction.initial } } (kept e)))
    ∧ (∀ b h j, s.seqr.scan = .append num → x.req = .program b s.seqr.dirNext h (.journal j) → s.seqr.dirNext ≤ 15 →
      pageAt s.store b s.seqr.dirNext = none →
      (∀ q, q ≠ .committed → s.seqr.dirNext < 15 → ∃ store,
        (∀ c k, k ≤ 15 → c ≠ b ∨ k ≠ s.seqr.dirNext → pageAt store c k = pageAt s.store c k)
        ∧ exec (.programPageEnd q) s = .next (append (s.seqr.dirNext + 1) { free with
          store := store, seqr := { s.seqr with dirNext := s.seqr.dirNext + 1 } } e))
      ∧ (s.seqr.work = [] →
        let entries := s.dir.entries.map (fun f => if f.num = num then { f with journaled := .kept } else f)
        let held : LogManager := { (entries.flatMap Entry.blocks).foldl
            (fun l c => setBlockEntry l c { blockEntry l c with hold := (blockEntry l c).hold + 1 }) s.log with
          condition := if 32 ≤ s.log.retired.length then .fault .retiredLimit else .normal }
        let written : State := { free with
          store := setPage s.store b s.seqr.dirNext
            (some { mark := .present, headerFlaw := 0, dataFlaw := 0, header := h, data := .journal j }),
          dir := { s.dir with entries := entries } }
        (∀ c, s.log.retired.length < 32 → candidate held = some c → 4 ≤ c → c ≤ 1023 →
          exec (.programPageEnd .committed) s = .next (eraseHanded .sequencer c { written with
            seqr := { s.seqr with dirNext := s.seqr.dirNext + 1, phase := 6, scan := .firstErase c },
            log := { setBlockEntry { held with history := s.log.history.filter (fun y => decide (y ≠ c)) } c
                { blockEntry held c with state := .erasing, firstSeq := none, firstPage := none } with
              ahead := .underWay c } }))
        ∧ (32 ≤ s.log.retired.length → s.log.ahead = .none → s.seqr.retiredNow = none →
          s.ctl.settings.autostart = false → ∃ seqr, seqr.part = .ready ∧ seqr.own = s.seqr.own
            ∧ exec (.programPageEnd .committed) s = .next { written with
              seqr := seqr, log := held,
              jrnl := { s.jrnl with
                cur := some d, nextPage := s.seqr.dirNext + 1, state := .idle, jobs := [], usable := true },
              raised := { s.raised with events := s.raised.events
                ++ [(.sequencer, .started s.seqr.cause), (.log, .storeFault .retiredLimit)] } }))))
  ∧ ∀ (num : Nat) (x : Running) (s : State), s.seqr.part = .mounting → s.arr.running = some x → x.who = .sequencer →
    ArrayAlone s.arr → s.mgmt.current = none → s.seqr.dirFault = false → s.log.nextPageSeq < 281474976710655 →
    let c := s.seqr.comp
    let free (store : List (Nat × Page)) (q : Sequencer) : State := { s with
      store := store, seqr := q, arr := { s.arr with running := none } }
    let begin (u : State) : State :=
      let target := if u.seqr.dirCur = some 0 then 1 else 0
      eraseHanded .sequencer target { u with seqr := { u.seqr with
        scan := .compErase num, leftCur := u.seqr.dirCur, leftNext := u.seqr.dirNext,
        comp := { target := target, page := 0, set := [], pos := 0, begun := u.seqr.comp.begun + 1 } } }
    let copy (r : PageRecord) (u : State) : State :=
      let k := u.seqr.comp
      pageHanded .sequencer .journal k.target k.page
        (.journal { role := .copy (k.set.length + 1) k.pos, nextNumber := u.dir.nextNumber, record := r })
        { u with seqr := { u.seqr with scan := .compCopy num } }
    let fails (store : List (Nat × Page)) (o : Host.Outcome State Fault Refusal) : Prop :=
      s.seqr.work = [] → s.log.retired.length < 32 → s.log.ahead = .none → s.seqr.retiredNow = none →
        ∃ q, q.part = .ready ∧ q.own = s.seqr.own ∧ o = .next { free store q with
          log := { (s.dir.entries.flatMap Entry.blocks).foldl
              (fun l b => setBlockEntry l b { blockEntry l b with hold := (blockEntry l b).hold + 1 }) s.log with
            condition := .fault .directoryErase },
          jrnl := { s.jrnl with
            cur := s.seqr.leftCur, nextPage := s.seqr.leftNext, state := .idle, jobs := [], usable := false },
          raised := { s.raised with events := s.raised.events
            ++ [(.sequencer, .started s.seqr.cause), (.log, .storeFault .directoryErase)] } }
    (∀ b h j q, s.seqr.scan = .append num → x.req = .program b 15 h (.journal j) → s.seqr.dirNext = 15 →
      q ≠ .committed → ∃ store, (∀ a k, k ≤ 15 → a ≠ b ∨ k ≠ 15 → pageAt store a k = pageAt s.store a k)
        ∧ (c.begun < 3 → exec (.programPageEnd q) s = .next (begin (free store { s.seqr with dirNext := 16 })))
        ∧ (3 ≤ c.begun → fails store (exec (.programPageEnd q) s)))
    ∧ (∀ target, s.seqr.scan = .compErase num → c.target = target → target ≤ 1 → x.req = .erase target →
      (∀ set r, CompactionSet s.dir set → SetRecord s set 1 r → ∃ store,
        exec (.eraseBlockEnd .erased) s
          = .next (copy r (free store { s.seqr with comp := { c with page := 0, set := set, pos := 1 } }))
        ∧ (StoreWf s → ∀ b p, p ≤ 15 → pageAt store b p = if b = target then none else pageAt s.store b p))
      ∧ (∀ q, q ≠ .erased → ∃ store, fails store (exec (.eraseBlockEnd q) s)
        ∧ ∀ b p, p ≤ 15 → b ≠ target → pageAt store b p = pageAt s.store b p))
    ∧ (∀ target h g, s.seqr.scan = .compCopy num → c.target = target → target ≤ 1 → c.page ≤ 15 →
      x.req = .program target c.page h (.journal g) → pageAt s.store target c.page = none →
      let written := setPage s.store target c.page
        (some { mark := .present, headerFlaw := 0, dataFlaw := 0, header := h, data := .journal g })
      let behind (pos : Nat) : Sequencer := { s.seqr with comp := { c with page := c.page + 1, pos := pos } }
      let switched : Sequencer := { s.seqr with dirCur := some target, dirNext := c.page + 1 }
      (c.pos ≤ c.set.length →
        (∀ r, SetRecord s c.set (c.pos + 1) r → c.page < 15 →
          exec (.programPageEnd .committed) s = .next (copy r (free written (behind (c.pos + 1)))))
        ∧ (c.page = 15 → c.begun < 3 →
          exec (.programPageEnd .committed) s = .next (begin (free written (behind (c.pos + 1)))))
        ∧ (c.page = 15 → 3 ≤ c.begun → fails written (exec (.programPageEnd .committed) s)))
      ∧ (c.pos = c.set.length + 1 →
        (∀ e, findEntry s.dir num = some e → c.page < 15 →
          exec (.programPageEnd .committed) s = .next (pageHanded .sequencer .journal target (c.page + 1)
            (.journal { role := .append, nextNumber := s.dir.nextNumber, record := snapshotRecord e .kept e.blocks })
            (free written { switched with scan := .append num })))
        ∧ (c.page = 15 → c.begun < 3 → exec (.programPageEnd .committed) s = .next (begin (free written switched)))
        ∧ (c.page = 15 → 3 ≤ c.begun → fails written (exec (.programPageEnd .committed) s)))
      ∧ (∀ q, q ≠ .committed → ∃ store,
        (∀ b p, p ≤ 15 → b ≠ target ∨ p ≠ c.page → pageAt store b p = pageAt s.store b p)
        ∧ (∀ r, SetRecord s c.set c.pos r → c.page < 15 →
          exec (.programPageEnd q) s = .next (copy r (free store (behind c.pos))))
        ∧ (c.page = 15 → c.begun < 3 → exec (.programPageEnd q) s = .next (begin (free store (behind c.pos))))
        ∧ (c.page = 15 → 3 ≤ c.begun → fails store (exec (.programPageEnd q) s))))

/-- PROGRAM_PAGE_END of a log page: COMMITTED moves the newest committed sequence, gives the block its first sequences
when it has none, empties the buffer, and raises LOG_RESUMED when it is pending; a page that FAILED, at the blank
check (nothing written) or later (it reads UNCOMMITTED), makes the block failing, and the buffer is handed in again at
the next page with a header formed anew (3.4, 4.4, 4.6). A commit that reaches the last sequence of the CLOSING recording,
its CAPTURING snapshot journaled, has the KEPT snapshot asked for; one that reaches the next sequence of a FOLLOWING
session wakes it, and its read, here of the block that Locate names, is handed in, ahead of that job (R70, R100, R136;
log 52). Outside a program the command changes nothing (log 39). -/
def Obligations.LogPagesCommitOrAreTriedAgain : Prop :=
  ∀ s : State,
    ((∀ x, s.arr.running = some x → ∀ b p h d, x.req ≠ .program b p h d) →
      ∀ r, exec (.programPageEnd r) s = .next s)
    ∧ ∀ (b p : Nat) (h : PageHeader) (d : PageData) (x : Running) (i : BufId), s.arr.running = some x →
      x.who = .logWriter → x.req = .program b p h d → ArrayAlone s.arr → NoStop s → s.seqr.part = .ready → p ≤ 15 →
      pageAt s.store b p = none → (getBuf s.packer i).state = .writing → (∀ j, j ≠ i → (getBuf s.packer j).state ≠ .writing) →
      s.packer.fullOrder = [] → s.packer.slot = [] →
      let page : Page := { mark := .present, headerFlaw := 0, dataFlaw := 0, header := h, data := d }
      let e := blockEntry s.log b
      let noted := if e.firstSeq = none
        then setBlockEntry s.log b { e with firstSeq := some h.firstSeq, firstPage := some h.pageSeq } else s.log
      let newest := h.firstSeq + h.count - 1
      let written : State := { s with
        store := setPage s.store b p (some page), arr := { s.arr with running := none },
        packer := setBuf s.packer { state := .empty, recs := [], run := 0 } i,
        log := { noted with
          nextPage := s.log.nextPage + 1, lastCommitted := newest, resumedPending := false,
          pagesCommitted := min counterMax (s.log.pagesCommitted + 1) },
        raised := { s.raised with events := s.raised.events
          ++ (if s.log.resumedPending = true then [(.log, .logResumed h.firstSeq)] else []) } }
      let sleeps (k : SessionId) : Prop := (s.session k).state = .following → newest < (s.session k).nextSeq
      (∀ v, (∀ k, sleeps k) → KeptLooked written v → exec (.programPageEnd .committed) s = .next v)
      ∧ (∀ k y c q v, (s.session k).state = .following → (s.session k).source = 0 → (s.session k).nextSeq ≤ newest →
        FetchReads written (s.session k) y c q → sleeps (otherSession k) → KeptLooked (readOut k y c q written) v →
        exec (.programPageEnd .committed) s = .next v)
      ∧ (s.log.active = some b → s.log.nextPage = p → p < 15 → 4 ≤ b → b ≤ 1023 → inFault s.log = false →
        s.log.nextPageSeq < 281474976710655 → ∀ r, r ≠ .committed →
          let buf := getBuf s.packer i
          let header : PageHeader :=
            { kind := .log, pageSeq := s.log.nextPageSeq, run := buf.run,
              capturing := if b ∈ (findEntry s.dir s.log.capturingRec).elim [] Entry.blocks then s.log.capturingRec else 0,
              firstSeq := (buf.recs.head?).elim 0 Record.seq, count := buf.recs.length, used := recordsSize buf.recs }
          ∃ store, (r = .failedBlank → store = s.store) ∧ (r ≠ .failedBlank → readPage store b p = .uncommitted)
            ∧ (∀ c q, q ≤ 15 → c ≠ b ∨ q ≠ p → pageAt store c q = pageAt s.store c q)
            ∧ exec (.programPageEnd r) s = .next { s with
              store := store,
              arr := { s.arr with running := some {
                who := .logWriter, req := .program b (p + 1) header (.log buf.recs), count := 0, reached := 0 } },
              log := { s.log with
                nextPage := p + 1, failing := true, nextPageSeq := s.log.nextPageSeq + 1, condition := .normal,
                programFailures := min counterMax (s.log.programFailures + 1) } })

/-- PROGRAM_PAGE_END of a journal append (5.4, 5.7, 5.8, 6.3, R65, R79), over a directory of any entries with one of
the page's number; the other entries stay as they are. COMMITTED: the CAPTURING snapshot gives its entry the journaled
state CAPTURING and raises TRIGGERED, and when the entry is CLOSING and its last sequence has committed the KEPT
snapshot is asked for, whose page follows at once; the KEPT snapshot makes the CLOSING entry KEPT, raises
RECORDING_KEPT, and leads to RUNNING with the holdoff timer (target RUNNING, re-arm ON), to STOPPED with a RUN_STOP of
reason SINGLE_SHOT (re-arm OFF; the buffer it closes then meets the Log Writer's check) or to STOPPED (target STOPPED),
with CAPTURE_STOPPED; the FROZEN snapshot makes its entry FROZEN and answers OK; the RELEASED page removes its entry,
lowers the hold of each block of its list and answers OK, and with neither a prepared block nor an erase under way the
search runs, whose candidate, here one that no live session reads, is erased; a RETIRED_LIST page takes with it the
waiting job asked before it was handed in. The next job is served, or the writer is IDLE. FAILED: counted, and the job
stays at the head: it is handed in again at the next page, or compacts with no page left. -/
def Obligations.JournalCommitsAreReported : Prop :=
  ∀ (b p : Nat) (h : PageHeader) (j : JournalPage) (x : Running) (s : State),
    s.arr.running = some x → x.who = .journal → x.req = .program b p h (.journal j) →
    ArrayAlone s.arr → NoStop s → s.jrnl.state = .appending → p ≤ 15 → pageAt s.store b p = none →
    let quiet := LogQuiet (s.setArr { s.arr with running := none })
    let page : Page := { mark := .present, headerFlaw := 0, dataFlaw := 0, header := h, data := .journal j }
    let ended (jobs : List Job) : State := { s with
      store := setPage s.store b p (some page),
      arr := { s.arr with running := none },
      jrnl := { s.jrnl with
        nextPage := s.jrnl.nextPage + 1, state := .idle, jobs := jobs, comp := Compaction.initial, profStep := 0 } }
    let t := ended []
    let changed (e f : Entry) : Directory := { s.dir with entries := s.dir.entries.map (fun y => if y = e then f else y) }
    (∀ (snap : Snapshot) (e : Entry), quiet → j.record = .snapshot snap → findEntry s.dir snap.num = some e →
      (∀ y ∈ s.dir.entries, y.num = e.num → y = e) →
      (∀ blocks, s.jrnl.jobs = [.capturing e.num blocks] → snap.state = .capturing → openEntry s.dir = some e →
        let noted (jobs : List Job) : State := { ended jobs with
          dir := changed e { e with journaled := .capturing },
          raised := { s.raised with events := s.raised.events ++ [(.controller,
            .triggered e.num e.source e.trigLost e.trigSeq e.trigTime e.first)] } }
        ((e.state = .capturing ∧ e.last = none
            ∨ e.state = .closing ∧ ∃ last, e.last = some last ∧ s.log.lastCommitted < last) →
          exec (.programPageEnd .committed) s = .next (noted []))
        ∧ (∀ last v, e.state = .closing → e.last = some last → last ≤ s.log.lastCommitted → s.ctl.state = .closing →
          s.ctl.keptAsked = false → s.jrnl.usable = true →
          HeadServed { noted [.kept e.num] with ctl := { s.ctl with keptAsked := true } } v →
          exec (.programPageEnd .committed) s = .next v))
      ∧ (s.jrnl.jobs = [.kept e.num] → snap.state = .kept → e.state = .closing →
        let kept : State := { t with
          dir := changed e { e with journaled := .kept, state := .kept },
          log := { s.log with capturingRec := 0 },
          ctl := { s.ctl with keptAsked := false },
          raised := { s.raised with events := s.raised.events ++ [(.controller,
            .recordingKept e.num e.reason e.first (e.last.getD 0) e.blocks.length)] } }
        (s.ctl.target = some .running → s.ctl.settings.rearm = true →
          exec (.programPageEnd .committed) s = .next { kept with ctl := { kept.ctl with
            state := .running, target := none,
            holdoffTimer := if s.ctl.settings.holdoff = 0 then none else some s.ctl.settings.holdoff } })
        ∧ (∀ u, s.ctl.target = some .running → s.ctl.settings.rearm = false → StopPlaced .singleShot s u →
          exec (.programPageEnd .committed) s = .next (settle (captureEnded { kept with
            packer := u, ctl := { kept.ctl with stopReason := some .singleShot } })))
        ∧ (s.ctl.target = some .stopped → exec (.programPageEnd .committed) s = .next (captureEnded kept)))
      ∧ (∀ r, s.jrnl.jobs = [.frozen e.num] → snap.state = .frozen →
        s.mgmt.current = some { req := r, stage := .journal } → ReplyRoom r s →
        exec (.programPageEnd .committed) s = .next (replied r .ok [] { t with
          dir := changed e { e with journaled := .frozen, state := .frozen } })))
    ∧ (∀ (e : Entry) (r : Request), j.record = .released e.num → s.jrnl.jobs = [.released e.num] →
      findEntry s.dir e.num = some e → s.mgmt.current = some { req := r, stage := .journal } → ReplyRoom r s →
      let log := e.blocks.foldl (fun l c => setBlockEntry l c { blockEntry l c with hold := (blockEntry l c).hold - 1 })
        s.log
      let freed : State := { t with
        dir := { s.dir with entries := s.dir.entries.filter (fun y => decide (y.num ≠ e.num)) }, log := log }
      (quiet → s.log.ahead ≠ .none → exec (.programPageEnd .committed) s = .next (replied r .ok [] freed))
      ∧ (∀ c, s.log.ahead = .none → s.seqr.part = .ready → inFault s.log = false →
        s.log.active = none ∨ 15 < s.log.nextPage → candidate log = some c → 4 ≤ c → c ≤ 1023 →
        (∀ i, sessionOpen (s.session i) = true → (s.session i).source ≠ 0) →
        exec (.programPageEnd .committed) s = .next (replied r .ok [] (eraseHanded .eraseAhead c { freed with
          log := { setBlockEntry { log with history := log.history.filter (fun d => decide (d ≠ c)) } c
              { blockEntry log c with state := .erasing, firstSeq := none, firstPage := none } with
            ahead := .underWay c,
            condition := if waitingBuffer t = none then s.log.condition else .waiting } }))))
    ∧ (∀ bs c rest, quiet → j.record = .retiredList bs → s.jrnl.jobs = .retiredList c :: rest →
      let left := rest.filter (fun k => decide (k ≠ .retiredList true))
      (left = [] → exec (.programPageEnd .committed) s = .next t)
      ∧ (∀ v, HeadServed (ended left) v → exec (.programPageEnd .committed) s = .next v))
    ∧ (∀ q k rest, q ≠ .committed → quiet → s.jrnl.jobs = k :: rest → b ≤ 1 → s.jrnl.cur = some b →
      s.jrnl.nextPage = p → ∃ store, (∀ c n, n ≤ 15 → c ≠ b ∨ n ≠ p → pageAt store c n = pageAt s.store c n)
        ∧ ((q = .failedBlank → store = s.store) ∧ (q ≠ .failedBlank → readPage store b p = .uncommitted))
        ∧ ∀ v, p < 15 ∨ s.jrnl.comp.begun < 3 → HeadServed { s with
            store := store,
            arr := { s.arr with running := none },
            jrnl := { s.jrnl with nextPage := p + 1, dirFailures := min counterMax (s.jrnl.dirFailures + 1) } } v →
          exec (.programPageEnd q) s = .next v)

/-- A compaction of the Directory Area, with the array to itself (R115 to R118). It begins for a journal job when the
current block has no page left or is none, with the erase of the other block. That erase ERASED fixes the set, and its
pages go out in order of position, a failed one again at the next page; the last one committed makes the target
current and the head job is appended behind it. Without a page left the compaction begins again, three times for one
job at most. A third failure, or an erase that FAILED, puts the log in FAULT with cause DIRECTORY_ERASE: the Capture
Controller stops the run, its recording KEPT with reason FAULT when it was POSTING (R88, R101), the directory is no longer
usable and the journal jobs end, a release or a freeze with STORE_FAULT. -/
def Obligations.CompactionsCopyTheDirectory : Prop :=
  ∀ (j : Job) (rest : List Job) (s : State), s.seqr.part = .ready → ArrayAlone s.arr → NoStop s →
    LogQuiet (s.setArr { s.arr with running := none }) → s.jrnl.jobs = j :: rest →
    (∀ p, j ≠ .saveProfile p) → j ≠ .clearProfile → s.log.nextPageSeq < 281474976710655 →
    let free : State := { s with arr := { s.arr with running := none } }
    let begin (u : State) : State := compactionBegun u
    let copy (r : PageRecord) (u : State) : State :=
      let c := u.jrnl.comp
      pageHanded .journal .journal c.target c.page
        (.journal { role := .copy (c.set.length + 1) c.pos, nextNumber := u.dir.nextNumber, record := r })
        { u with jrnl := { u.jrnl with jobs := coveredBy r u.jrnl.jobs } }
    let dead (u : State) : State := { u with
      raised := { u.raised with events := u.raised.events ++ [(.log, .storeFault .directoryErase)] },
      jrnl := { u.jrnl with state := .idle, jobs := [], usable := false, comp := Compaction.initial, profStep := 0 } }
    let ends (u : State) (o : Host.Outcome State Fault Refusal) : Prop :=
      ∀ v, FaultTaken { u with log := { u.log with condition := .fault .directoryErase } } v → inFault s.log = false →
        rest = [] → ((∀ n, j ≠ .released n ∧ j ≠ .frozen n) → o = .next (dead v))
        ∧ (∀ n r, j = .released n ∨ j = .frozen n → s.mgmt.current = some { req := r, stage := .journal } →
          ReplyRoom r s → o = .next (replied r .storeFault [] (dead v)))
    (s.arr.running = none → s.jrnl.cur = none ∨ (∃ b, s.jrnl.cur = some b ∧ b ≤ 1) ∧ 15 < s.jrnl.nextPage →
      serveJobs s = begin s)
    ∧ (∀ x b h g q, s.arr.running = some x → x.who = .journal → s.jrnl.state = .appending → s.jrnl.cur = some b →
      s.jrnl.nextPage = 15 → x.req = .program b 15 h (.journal g) → q ≠ .committed → 3 ≤ s.jrnl.comp.begun →
      ∃ store, ends { free with
          store := store,
          jrnl := { s.jrnl with nextPage := 16, dirFailures := min counterMax (s.jrnl.dirFailures + 1) } }
          (exec (.programPageEnd q) s)
        ∧ ∀ c n, n ≤ 15 → c ≠ b ∨ n ≠ 15 → pageAt store c n = pageAt s.store c n)
    ∧ (∀ x target, s.arr.running = some x → x.who = .journal → s.jrnl.state = .compacting →
      s.jrnl.comp.target = target → target ≤ 1 →
      (x.req = .erase target →
        (∀ set r, CompactionSet s.dir set → SetRecord s set 1 r → ∃ store,
          exec (.eraseBlockEnd .erased) s = .next (copy r { free with
            store := store,
            jrnl := { s.jrnl with comp := { s.jrnl.comp with page := 0, set := set, pos := 1 } } })
          ∧ (StoreWf s → ∀ b p, p ≤ 15 → pageAt store b p = if b = target then none else pageAt s.store b p))
        ∧ (∀ q, q ≠ .erased → ∃ store, ends { free with store := store } (exec (.eraseBlockEnd q) s)
          ∧ ∀ b p, p ≤ 15 → b ≠ target → pageAt store b p = pageAt s.store b p))
      ∧ (∀ h g, x.req = .program target s.jrnl.comp.page h (.journal g) → s.jrnl.comp.page ≤ 15 →
        pageAt s.store target s.jrnl.comp.page = none →
        let c := s.jrnl.comp
        let noted : Directory := match g.record with
          | .snapshot v => { s.dir with entries := s.dir.entries.map (fun e => if e.num = v.num then { e with
              journaled := match v.state with
                | .capturing => .capturing
                | .kept => .kept
                | .frozen => .frozen } else e) }
          | _ => s.dir
        let written : State := { free with
          store := setPage s.store target c.page
            (some { mark := .present, headerFlaw := 0, dataFlaw := 0, header := h, data := .journal g }),
          dir := noted }
        let switched : JournalWriter := { s.jrnl with
          cur := some target, nextPage := c.page + 1,
          jobs := j :: (match g.record with
            | .retiredList _ => rest.filter (fun k => decide (k ≠ .retiredList true))
            | _ => rest) }
        let failed (store : List (Nat × Page)) : State := { free with
          store := store,
          jrnl := { s.jrnl with
            comp := { c with page := c.page + 1 }, dirFailures := min counterMax (s.jrnl.dirFailures + 1) } }
        (∀ r, c.pos ≤ c.set.length → SetRecord { s with dir := noted } c.set (c.pos + 1) r → c.page < 15 →
          exec (.programPageEnd .committed) s = .next (copy r { written with
            jrnl := { s.jrnl with comp := { c with page := c.page + 1, pos := c.pos + 1 } } }))
        ∧ (c.pos ≤ c.set.length → c.page = 15 → c.begun < 3 →
          exec (.programPageEnd .committed) s = .next (begin written))
        ∧ (c.pos = c.set.length + 1 → c.page < 15 → ∀ r, JobRecord { s with dir := noted } j r →
          exec (.programPageEnd .committed) s = .next (pageHanded .journal .journal target (c.page + 1)
            (.journal { role := .append, nextNumber := s.dir.nextNumber, record := r })
            { written with jrnl := { switched with state := .appending, jobs := coveredBy r switched.jobs } }))
        ∧ (c.pos = c.set.length + 1 → c.page = 15 → c.begun < 3 →
          exec (.programPageEnd .committed) s = .next (begin { written with jrnl := switched }))
        ∧ (∀ q, q ≠ .committed → ∃ store,
          (∀ b p, p ≤ 15 → b ≠ target ∨ p ≠ c.page → pageAt store b p = pageAt s.store b p)
          ∧ (∀ r, SetRecord s c.set c.pos r → c.page < 15 → exec (.programPageEnd q) s = .next (copy r (failed store)))
          ∧ (c.page = 15 → c.begun < 3 → exec (.programPageEnd q) s = .next (begin (failed store)))
          ∧ (c.page = 15 → 3 ≤ c.begun → ends (failed store) (exec (.programPageEnd q) s)))))

/-- SAVE_PROFILE and CLEAR_PROFILE at the Journal Writer, for the only job and with the array to itself (R121 to
R123). A save goes from the erase of its target over pages 0 and 1 to the switch, with which the target is the valid
block, the generation has risen by 1 and the answer is OK with it; a failed erase or program ends it with STORE_FAULT,
counted, with the Profile Area state unchanged. A clear erases the block that is not valid, then the other; then no
block is valid and the answer is OK. A failed erase ends it with STORE_FAULT, counted; the second one leaves no valid
block too. -/
def Obligations.ProfileJobsSaveAndClear : Prop :=
  ∀ (r : Request) (x : Running) (s : State), s.seqr.part = .ready → ArrayAlone s.arr → s.arr.running = some x →
    x.who = .journal → s.jrnl.state = .profile → s.mgmt.current = some { req := r, stage := .journal } → ReplyRoom r s →
    LogQuiet (s.setArr { s.arr with running := none }) → s.log.nextPageSeq < 281474976710655 →
    let target := if s.jrnl.validBlock = some 2 then 3 else 2
    let generation := s.jrnl.generation + 1
    let free (store : List (Nat × Page)) : State := { s with store := store, arr := { s.arr with running := none } }
    let ended (w : JournalWriter) (store : List (Nat × Page)) (st : Status) (result : Bytes) : State :=
      replied r st result { free store with
        jrnl := { w with state := .idle, jobs := [], comp := Compaction.initial, profStep := 0 } }
    let failed : JournalWriter := { s.jrnl with profFailures := min counterMax (s.jrnl.profFailures + 1) }
    let cleared (w : JournalWriter) : JournalWriter := { w with validBlock := none, generation := 0 }
    let erased (b : Nat) (store : List (Nat × Page)) : Prop :=
      StoreWf s → ∀ c p, p ≤ 15 → pageAt store c p = if c = b then none else pageAt s.store c p
    let others (b : Nat) (store : List (Nat × Page)) : Prop :=
      ∀ c p, p ≤ 15 → c ≠ b → pageAt store c p = pageAt s.store c p
    (∀ f : Profile, s.jrnl.jobs = [.saveProfile f] →
      (x.req = .erase target →
        (∃ store, erased target store ∧ exec (.eraseBlockEnd .erased) s = .next (pageHanded .journal .profile target 0
          (.profile0 generation f.settings f.dflt f.managers f.notify)
          { free store with jrnl := { s.jrnl with profStep := 1 } }))
        ∧ (∀ q, q ≠ .erased → ∃ store, others target store
          ∧ exec (.eraseBlockEnd q) s = .next (ended failed store .storeFault [])))
      ∧ (∀ p h d, x.req = .program target p h d → p ≤ 15 → pageAt s.store target p = none →
        let store := setPage s.store target p
          (some { mark := .present, headerFlaw := 0, dataFlaw := 0, header := h, data := d })
        (s.jrnl.profStep = 1 → exec (.programPageEnd .committed) s = .next (pageHanded .journal .profile target 1
          (.profile1 generation f.rules) { free store with jrnl := { s.jrnl with profStep := 2 } }))
        ∧ (s.jrnl.profStep = 2 → exec (.programPageEnd .committed) s
          = .next (ended { s.jrnl with validBlock := some target, generation := generation } store .ok
            (be 4 generation)))
        ∧ (∀ q, q ≠ .committed → ∃ store, (∀ c k, k ≤ 15 → c ≠ target ∨ k ≠ p → pageAt store c k = pageAt s.store c k)
          ∧ exec (.programPageEnd q) s = .next (ended failed store .storeFault []))))
    ∧ (∀ b, s.jrnl.jobs = [.clearProfile] → x.req = .erase b → 2 ≤ b → b ≤ 3 →
      (s.jrnl.profStep = 0 → b = target →
        (∃ store, erased b store ∧ exec (.eraseBlockEnd .erased) s
          = .next (eraseHanded .journal (5 - b) { free store with jrnl := { s.jrnl with profStep := 1 } }))
        ∧ (∀ q, q ≠ .erased → ∃ store, others b store
          ∧ exec (.eraseBlockEnd q) s = .next (ended failed store .storeFault [])))
      ∧ (s.jrnl.profStep = 1 →
        (∃ store, erased b store ∧ exec (.eraseBlockEnd .erased) s = .next (ended (cleared s.jrnl) store .ok []))
        ∧ (∀ q, q ≠ .erased → ∃ store, others b store
          ∧ exec (.eraseBlockEnd q) s = .next (ended (cleared failed) store .storeFault []))))

/-- ERASE_BLOCK_END of erase-ahead, with no buffer waiting: ERASED makes the block ERASED and prepared, and its pages
blank. FAILED makes the block RETIRED and counts the failure; outside FAULT it joins the Retired List, which a
RETIRED_LIST job, here one that waits behind another, is to journal, BLOCK_RETIRED is raised, and the candidate search
runs again: the erase of the block that it finds, here one whose records no live session reads, is handed in (4.5 to
4.7). The 32nd block puts the log in FAULT, which stops the run, its recording KEPT with reason FAULT when it was POSTING
(R80, R88, R101). The RETIRED_LIST job is added also behind one that the writer serves at the head, where R111 concludes
three jobs at most: the model's choice (log 15). Outside an erase the command changes nothing (log 39). -/
def Obligations.EraseAheadPreparesItsBlock : Prop :=
  ∀ s : State,
    ((∀ x, s.arr.running = some x → ∀ b, x.req ≠ .erase b) → ∀ r, exec (.eraseBlockEnd r) s = .next s)
    ∧ ∀ (b : Nat) (x : Running), s.arr.running = some x → x.who = .eraseAhead → x.req = .erase b → ArrayAlone s.arr →
      NoStop s → StoreWf s →
      let entry (st : BlockState) : BlockEntry := { blockEntry s.log b with state := st }
      let retired : LogManager := { setBlockEntry s.log b (entry .retired) with
        ahead := .none, eraseFailures := min counterMax (s.log.eraseFailures + 1) }
      (waitingBuffer s = none → ∃ store, exec (.eraseBlockEnd .erased) s = .next { s with
          store := store, arr := { s.arr with running := none },
          log := { setBlockEntry s.log b (entry .erased) with ahead := .prepared b } }
        ∧ ∀ c p, p ≤ 15 → pageAt store c p = if c = b then none else pageAt s.store c p)
      ∧ (∀ r, r ≠ .erased → inFault s.log = true → ∃ store, exec (.eraseBlockEnd r) s = .next { s with
          store := store, arr := { s.arr with running := none }, log := retired }
        ∧ ∀ c p, p ≤ 15 → c ≠ b → pageAt store c p = pageAt s.store c p)
      ∧ (∀ r, r ≠ .erased → inFault s.log = false → waitingBuffer s = none → s.jrnl.usable = true →
        s.jrnl.state ≠ .idle → (∀ j ∈ s.jrnl.jobs.drop 1, ∀ k, j ≠ .retiredList k) →
        let listed : LogManager := { retired with retired := s.log.retired ++ [b] }
        let asked : State := { s with
          jrnl := { s.jrnl with jobs := s.jrnl.jobs ++ [.retiredList false] },
          raised := { s.raised with events := s.raised.events
            ++ [(.log, .blockRetired b .erase (s.log.retired.length + 1))] } }
        (s.log.retired.length < 31 → candidate listed = none → ∃ store,
          exec (.eraseBlockEnd r) s = .next { asked with
            store := store, arr := { s.arr with running := none }, log := listed }
          ∧ ∀ c p, p ≤ 15 → c ≠ b → pageAt store c p = pageAt s.store c p)
        ∧ (∀ c, s.log.retired.length < 31 → candidate listed = some c → s.seqr.part = .ready → 4 ≤ c → c ≤ 1023 →
          (∀ i, sessionOpen (s.session i) = true → (s.session i).source ≠ 0) → ∃ store,
          exec (.eraseBlockEnd r) s = .next { asked with
            store := cancelMark store c 0,
            arr := { s.arr with running := some { who := .eraseAhead, req := .erase c, count := 0, reached := 1 } },
            log := { setBlockEntry { listed with history := s.log.history.filter (fun d => decide (d ≠ c)) } c
                { blockEntry listed c with state := .erasing, firstSeq := none, firstPage := none } with
              ahead := .underWay c } }
          ∧ ∀ c p, p ≤ 15 → c ≠ b → pageAt store c p = pageAt s.store c p)
        ∧ (s.log.retired.length = 31 → ∃ store,
          (∀ v, FaultTaken { asked with
              store := store, arr := { s.arr with running := none },
              log := { listed with condition := .fault .retiredLimit } } v →
            exec (.eraseBlockEnd r) s = .next { v with
              raised := { v.raised with events := v.raised.events ++ [(.log, .storeFault .retiredLimit)] } })
          ∧ ∀ c p, p ≤ 15 → c ≠ b → pageAt store c p = pageAt s.store c p))

/-- The candidate is the first block after the ring position, of 1019 in ring order with 4 behind 1023, that has no
hold, is FILLED or STALE and is not the active block (R67, R72). A FULL buffer that waits with no page left takes the
prepared block: the active block, without a failed program, becomes FILLED at the tail of the History List, the
prepared block ACTIVE with next page 0 and the ring position; a CAPTURING recording lists and holds it, and so does a
CLOSING one whose last record has not committed, up to 80 blocks; the 79th of a CAPTURING one ends posting with LENGTH
(R97 to R99); the search's candidate is chosen and its erase handed in; the buffer goes to page 0, for which that erase
is suspended (R56, R64, R66, R71). A live session whose next sequence lies in the chosen block, here one with no frame
or read on its way, ends OVERTAKEN (R74, R138). -/
def Obligations.BlockChangesTakeThePreparedBlock : Prop :=
  let chosen (l : LogManager) (c : Nat) : LogManager :=
    { setBlockEntry { l with history := l.history.filter (fun x => decide (x ≠ c)) } c
        { blockEntry l c with state := .erasing, firstSeq := none, firstPage := none } with ahead := .underWay c }
  (∀ l : LogManager, 4 ≤ l.ringPos → l.ringPos ≤ 1023 →
    let after (k : Nat) : Nat := 4 + (l.ringPos - 4 + k) % 1020
    let fits (b : Nat) : Prop := holdOf l b = 0
      ∧ ((blockEntry l b).state = .filled ∨ (blockEntry l b).state = .stale) ∧ l.active ≠ some b
    (∀ k, 1 ≤ k → k ≤ 1019 → fits (after k) → (∀ j, 1 ≤ j → j < k → ¬ fits (after j)) → candidate l = some (after k))
    ∧ ((∀ k, 1 ≤ k → k ≤ 1019 → ¬ fits (after k)) → candidate l = none))
  ∧ (∀ (i : BufId) (more : List BufId) (b : Nat) (s : State), s.seqr.part = .ready → inFault s.log = false → NoStop s →
    s.arr.running = none → ArrayAlone s.arr → bufIn s.packer .writing = none → s.packer.fullOrder = i :: more →
    i ∉ more → (getBuf s.packer i).state = .full → s.log.ahead = .prepared b → 4 ≤ b → b ≤ 1023 →
    s.log.active = none ∨ (15 < s.log.nextPage ∧ s.log.failing = false ∧ s.log.active ≠ some b) →
    s.log.nextPageSeq < 281474976710655 →
    let buf := getBuf s.packer i
    let left : LogManager := match s.log.active with
      | none => s.log
      | some a => { setBlockEntry s.log a { blockEntry s.log a with state := .filled } with
        history := s.log.history ++ [a] }
    let begun : LogManager := { setBlockEntry left b { blockEntry left b with state := .active } with
      active := some b, nextPage := 0, failing := false, ringPos := b, ahead := .none }
    let listed (e : Entry) : Entry := { e with blocks := e.blocks ++ [b] }
    let entered (e : Entry) : State := { s with
      log := raiseHold begun b,
      dir := { s.dir with entries := s.dir.entries.map (fun x => if x.num = e.num then listed x else x) } }
    ∀ (u : State) (capturing : Nat),
      (u = { s with log := begun } ∧ capturing = 0
          ∧ (s.log.capturingRec = 0 ∨ ∃ e, findEntry s.dir s.log.capturingRec = some e ∧ e.state = .closing
            ∧ b ∉ e.blocks
            ∧ (s.ctl.keptAsked = true ∨ e.last.getD 0 ≤ s.log.lastCommitted ∨ 80 ≤ e.blocks.length)))
        ∨ (s.log.capturingRec ≠ 0 ∧ capturing = s.log.capturingRec
          ∧ ∃ e, findEntry s.dir s.log.capturingRec = some e ∧ b ∉ e.blocks
            ∧ ((u = entered e ∧ (e.state = .capturing ∧ e.blocks.length < 78
                ∨ e.state = .closing ∧ s.ctl.keptAsked = false ∧ s.log.lastCommitted < e.last.getD 0
                  ∧ e.blocks.length < 80))
              ∨ e.state = .capturing ∧ e.blocks.length = 78 ∧ s.ctl.state = .posting ∧ OpenAlone s.dir e
                ∧ u.arr = s.arr
                ∧ PostingEnded .length (listed e) (lastAtEnd s e) (entered e) u)) →
      let program : Running :=
        { who := .logWriter,
          req := .program b 0
            { kind := .log, pageSeq := s.log.nextPageSeq, run := buf.run, capturing := capturing,
              firstSeq := (buf.recs.head?).elim 0 Record.seq, count := buf.recs.length, used := recordsSize buf.recs }
            (.log buf.recs),
          count := 0, reached := 0 }
      let t : State := { u with
        packer := { setBuf s.packer { buf with state := .writing } i with fullOrder := more } }
      (candidate u.log = none → settle s = { t with
        log := { u.log with nextPageSeq := s.log.nextPageSeq + 1, condition := .normal },
        arr := { s.arr with running := some program } })
      ∧ (∀ c, candidate u.log = some c → (∀ j, sessionOpen (s.session j) = true → (s.session j).source ≠ 0) →
        settle s = { t with
          store := cancelMark s.store c 0,
          log := { chosen u.log c with nextPageSeq := s.log.nextPageSeq + 1, condition := .normal },
          arr := { s.arr with
            suspended := some { who := .eraseAhead, block := c, count := 1, reached := 1 },
            running := some program } }))
  ∧ (∀ (i : SessionId) (c : Nat) (s : State), s.seqr.part = .ready → inFault s.log = false → s.arr.running = none →
    ArrayAlone s.arr → candidate s.log = some c → 4 ≤ c → c ≤ 1023 → (blockEntry s.log c).state = .filled →
    let y := s.session i
    let reached (x : Session) : Prop := sessionOpen x = true ∧ x.source = 0
      ∧ ((blockEntry s.log c).firstSeq).getD 0 ≤ x.nextSeq ∧ x.nextSeq ≤ upperBound s.log c
    reached y → ¬ reached (s.session (otherSession i)) → SessionClear i s → LocalRoom y.port s →
    searchErase s = eraseHanded .eraseAhead c
      { (enqueued y.port (.session i) (endFrame s.seqr.own i y .overtaken) s).setSession i Session.initial with
        log := chosen s.log c })

/-- With a buffer waiting and no page left, the log condition goes as R71 and R75 to R79 say. A block in which a program
has failed is RETIRED as it is left: it joins the Retired List and not the History List, BLOCK_RETIRED is raised and a
RETIRED_LIST job asked, here of a writer that serves another job; the buffer goes on to the prepared block, unless the
block is the 32nd, which puts the log in FAULT, with the buffer as it was: the run stops, its recording KEPT with reason
FAULT when it was POSTING (R88, R101). Without a prepared block the condition is
WAITING while an erase is under way, and FULL without one, with LOG_FULL raised once and LOG_RESUMED pending. What
LOG_FULL counts is log 23; that no block is active, with next page 16, once the 32nd has been left is log 35; that the
RETIRED_LIST job is added also behind one that the writer serves at the head, where R111 concludes three jobs at most, is
the model's choice (log 15). -/
def Obligations.FailingBlocksAreRetiredAndTheLogFills : Prop :=
  ∀ (i : BufId) (s : State), s.seqr.part = .ready → inFault s.log = false → NoStop s → waitingBuffer s = some i →
    s.log.active = none ∨ 15 < s.log.nextPage →
    (∀ a b, s.log.active = some a → s.log.failing = true → s.log.ahead = .prepared b → b ≠ a → 4 ≤ b → b ≤ 1023 →
      s.arr.running = none → ArrayAlone s.arr → s.jrnl.usable = true → s.jrnl.state ≠ .idle →
      (∀ j ∈ s.jrnl.jobs.drop 1, ∀ k, j ≠ .retiredList k) →
      (getBuf s.packer i).state = .writing → s.log.nextPageSeq < 281474976710655 →
      let buf := getBuf s.packer i
      let left : LogManager := { setBlockEntry s.log a { blockEntry s.log a with state := .retired } with
        active := none, nextPage := 16, failing := false, retired := s.log.retired ++ [a] }
      let begun : LogManager := { setBlockEntry left b { blockEntry left b with state := .active } with
        active := some b, nextPage := 0, ringPos := b, ahead := .none }
      let header : PageHeader :=
        { kind := .log, pageSeq := s.log.nextPageSeq, run := buf.run, capturing := 0,
          firstSeq := (buf.recs.head?).elim 0 Record.seq, count := buf.recs.length, used := recordsSize buf.recs }
      let asked : State := { s with
        jrnl := { s.jrnl with jobs := s.jrnl.jobs ++ [.retiredList false] },
        raised := { s.raised with events := s.raised.events
          ++ [(.log, .blockRetired a .program (s.log.retired.length + 1))] } }
      (s.log.retired.length < 31 → s.log.capturingRec = 0 → candidate begun = none → settle s = { asked with
        log := { begun with nextPageSeq := s.log.nextPageSeq + 1, condition := .normal },
        arr := { s.arr with running := some {
          who := .logWriter, req := .program b 0 header (.log buf.recs), count := 0, reached := 0 } } })
      ∧ (∀ v, s.log.retired.length = 31 →
        FaultTaken { asked with log := { left with condition := .fault .retiredLimit } } v → settle s = { v with
          raised := { v.raised with events := v.raised.events ++ [(.log, .storeFault .retiredLimit)] } }))
    ∧ (∀ b, s.log.ahead = .underWay b → logProgramOut s.arr = false →
      settle s = { s with log := { s.log with condition := .waiting } })
    ∧ (s.log.ahead = .none → logProgramOut s.arr = false →
      (s.log.condition = .full → settle s = s)
      ∧ (s.log.condition ≠ .full → settle s = { s with
        log := { s.log with condition := .full, resumedPending := true },
        raised := { s.raised with events := s.raised.events ++ [(.log, .logFull
          (s.log.table.filter (fun x => decide (x.2.hold ≠ 0))).length s.log.retired.length)] } }))

/-! ### Notices (10) -/

/-- NOTICE_LINK_DOWN and NOTICE_LINK_UP take the oldest change of the port's line raised at the unit, or a new one,
before or after the Relay (log 2), and change nothing when there is none of their kind (logs 2 and 39). On the notify
port DOWN parks the head, and UP offers a PARKED head again while it has been sent fewer than four times and drops it
otherwise: the next notice, if any, is the head with attempt count 0 and offered, or PARKED while its port is DOWN;
another port changes the unit's view of its link alone (R176, R179; log 19). RETRY_TIMER_EXPIRY offers the head again
or drops it in the same way (R177); without a running timer it changes nothing (logs 3 and 39). An offer enters, waits,
is discarded, or is held back behind a notice frame that still waits (R147; log 18). -/
def Obligations.TheHeadFollowsItsPortAndTimer : Prop :=
  ∀ (p : Port) (s : State),
    let n := s.notice
    let view (up : Bool) : NoticeUnit := match p with
      | .a => { n with linkA := up }
      | .b => { n with linkB := up }
    let dropping (m : NoticeUnit) : NoticeUnit := { m with dropped := min counterMax (n.dropped + 1) }
    (∀ t, NoticeTakes p false s t →
      ((∃ pre post, Oldest (fun y => y.1 = p) s.raised.noticeLink pre (p, false) post) →
        exec (.noticeLinkUp p) s = .next s)
      ∧ (n.settings.port ≠ p ∨ n.queue = [] → exec (.noticeLinkDown p) s = .next (t.setNotice (view false)))
      ∧ (n.settings.port = p → n.queue ≠ [] → exec (.noticeLinkDown p) s
        = .next (t.setNotice { view false with head := .parked, frame := none, retry := none })))
    ∧ (∀ t, NoticeTakes p true s t →
      ((∃ pre post, Oldest (fun y => y.1 = p) s.raised.noticeLink pre (p, true) post) →
        exec (.noticeLinkDown p) s = .next s)
      ∧ (n.settings.port ≠ p ∨ n.queue = [] ∨ n.head ≠ .parked →
        exec (.noticeLinkUp p) s = .next (t.setNotice (view true)))
      ∧ (n.settings.port = p → n.head = .parked →
        (∀ v, n.attempts < 4 → HeadOffered (view true) t v → exec (.noticeLinkUp p) s = .next v)
        ∧ (∀ y rest v, n.queue = y :: rest → 4 ≤ n.attempts → HeadLeft (dropping (view true)) rest t v →
          exec (.noticeLinkUp p) s = .next v)))
    ∧ ((∀ y ∈ s.raised.noticeLink, y.1 ≠ p) →
      (s.seqr.part = .reset ∨ (s.port p).line = false → exec (.noticeLinkDown p) s = .next s)
      ∧ (s.seqr.part = .reset ∨ (s.port p).line = true → exec (.noticeLinkUp p) s = .next s))
    ∧ (n.retry = none → exec .retryTimerExpiry s = .next s)
    ∧ (n.retry ≠ none →
      (∀ v, n.attempts < 4 → HeadOffered { n with retry := none } s v → exec .retryTimerExpiry s = .next v)
      ∧ (∀ y rest v, n.queue = y :: rest → 4 ≤ n.attempts → HeadLeft (dropping n) rest s v →
        exec .retryTimerExpiry s = .next v))

/-- NOTICE_EVENT takes the oldest event of the block, by the first case of R175 that applies: ignored without a notify
station or with its kind DISABLED, discarded and counted with 8 notices in the queue, numbered at the tail otherwise.
A notice that joins an empty queue is the head: its frame is offered while its port is UP, and it is PARKED while the
port is DOWN (R175, R176). -/
def Obligations.EventsBecomeNumberedNotices : Prop :=
  ∀ (src : EventSource) (pre post : List (EventSource × Event)) (e : Event) (s : State),
    Oldest (fun y => y.1 = src) s.raised.events pre (src, e) post →
    let n := s.notice
    let t := s.setRaised { s.raised with events := pre ++ post }
    let enabled := n.settings.enable.getLsbD (eventCode e - 1)
    let x : Notice := { num := n.nextNumber, event := e }
    let joined := { n with
      queue := n.queue ++ [x], nextNumber := if n.nextNumber < 65535 then n.nextNumber + 1 else 1 }
    (n.settings.station = 0 ∨ enabled = false → exec (.noticeEvent src) s = .next t)
    ∧ (n.settings.station ≠ 0 → enabled = true →
      (8 ≤ n.queue.length → exec (.noticeEvent src) s = .next (t.setNotice { n with
        discarded := min counterMax (n.discarded + 1), overflow := min 65535 (n.overflow + 1) }))
      ∧ (n.queue ≠ [] → n.queue.length < 8 → exec (.noticeEvent src) s = .next (t.setNotice joined))
      ∧ (n.queue = [] → noticeLinkUp n n.settings.port = false → exec (.noticeEvent src) s
        = .next (t.setNotice { joined with head := .parked, attempts := 0, carried := 0, frame := none }))
      ∧ (n.queue = [] → noticeLinkUp n n.settings.port = true → LocalRoom n.settings.port s →
        isWaiting n.settings.port .notice s = false → exec (.noticeEvent src) s
        = .next ((enqueued n.settings.port .notice (noticeFrame s.seqr.own { n with attempts := 0 } x) t).setNotice
          { joined with head := .queued, attempts := 0, frame := some s.serial, carried := n.overflow })))

/-- SET_NOTIFY, with the arrival port as notify port: BAD_VALUE for a value out of range; the settings alone when
station and port stay; otherwise the queue and the overflow count go too, and a frame of the unit that waits for room
at the old port is withdrawn. ACK_NOTICE: NOT_FOUND for any number but the head's; the head leaves, a frame of the unit
that waits is withdrawn, and the overflow count falls by what the head's last frame carried; the next notice is the
head: its frame is offered while its port is UP, ahead of the answer (log 38), and enters, waits or is discarded,
unless a frame given up still stands in the waiting list (log 18), and it is PARKED while the port is DOWN (R147, R174,
R176, R178). -/
def Obligations.NotifySettingsAndAcknowledgements : Prop :=
  ∀ (r : Request) (s : State),
    let n := s.notice
    let q := n.settings.port
    let withdrawn : State := s.setPort q { s.port q with
      waiting := (s.port q).waiting.map (fun w => if w.frame.who = .notice then { w with withdrawn := true } else w) }
    (∀ st e1 e2 r1 r2 : Byte, Handed 0x60 r s → ReplyRoom r s → r.params = [st, e1, e2, r1, r2] →
      let kinds := e1.toNat * 256 + e2.toNat
      let retry := r1.toNat * 256 + r2.toNat
      let x : NotifySettings := { station := st, port := r.port, enable := BitVec.ofNat 10 kinds, retry := retry }
      let valid := st.toNat ≤ 250 ∧ kinds ≤ 1023 ∧ 100 ≤ retry ∧ retry ≤ 10000
      (¬ valid → exec .setNotify s = .next (replied r .badValue [] s))
      ∧ (valid → st = n.settings.station → r.port = n.settings.port →
        exec .setNotify s = .next (replied r .ok [] (s.setNotice { n with settings := x })))
      ∧ (valid → st ≠ n.settings.station ∨ r.port ≠ n.settings.port →
        exec .setNotify s = .next (replied r .ok [] (withdrawn.setNotice { n with
          settings := x, queue := [], overflow := 0, head := .parked, attempts := 0, carried := 0, frame := none,
          retry := none }))))
    ∧ (∀ h l : Byte, Handed 0x61 r s → r.params = [h, l] →
      ((∀ x, n.queue.head? = some x → x.num ≠ h.toNat * 256 + l.toNat) → ReplyRoom r s →
        exec .ackNotice s = .next (replied r .notFound [] s))
      ∧ (∀ x rest, n.queue = x :: rest → x.num = h.toNat * 256 + l.toNat →
        ∀ v, HeadLeft { n with overflow := n.overflow - n.carried } rest withdrawn v → ReplyRoom r v →
          exec .ackNotice s = .next (replied r .ok [] v)))

/-! ### Arrival of requests and the requests of the Management Unit (09) -/

/-- REQUEST_ARRIVAL takes the oldest request frame delivered at the port (R156, R157, R159, R160): discarded and
counted without a station, without a header, as a broadcast of another code than DISCOVER, as a repeat of a held
request, or with four requests waiting; joined at the tail while the unit is busy; handed to its owner by an IDLE unit;
UNKNOWN_REQUEST for a code that is none of the catalogue's; DENIED and counted for a station outside a non-empty
Manager List; MOUNTING while the part mounts, but for DISCOVER and READ_STATUS; BAD_LENGTH for parameters of another
length than the code's; answered with the cached response when it repeats the cached request, which a busy unit lets
join with that copy; either way the entry becomes the most recently used. An answer stored replaces its station's
entry, or is added, in place of the least recently used of eight, and is the most recently used (R158). A tagged
request of another code or tag than the station's cached entry is a new one. An answer given at once enters a local
queue with room; with the queue full it is the last of the port's waiting list and the unit REPLYING; with the port
DOWN it is discarded and counted, and the unit is REPLYING until it takes that report (R147, R152, R161; log 17). A
held broadcast is no repeat of anything (log 28). -/
def Obligations.ArrivalsAreDiscardedJoinedOrBegun : Prop :=
  ∀ (p : Port) (pre post : List (Port × Bytes)) (bytes : Bytes) (s : State),
    Oldest (fun y => y.1 = p) s.raised.requests pre (p, bytes) post →
    let t := s.setRaised { s.raised with requests := pre ++ post }
    let payload := (bytes.drop 5).take (byteAt bytes 4).toNat
    let broadcast := decide (byteAt bytes 0 = 255)
    let r : Request :=
      { src := byteAt bytes 1, port := p, code := byteAt payload 0,
        tag := (byteAt payload 1).toNat * 256 + (byteAt payload 2).toNat, params := payload.drop 3,
        broadcast := broadcast, cached := none }
    let discarded := t.setMgmt { s.mgmt with discarded := min counterMax (s.mgmt.discarded + 1) }
    let readable := 1 ≤ r.src.toNat ∧ r.src.toNat ≤ 250 ∧ 3 ≤ payload.length ∧ (broadcast = true → r.code = 1)
    let held (q : Request) : Prop := q.src = r.src ∧ q.tag = r.tag ∧ q.code = r.code ∧ q.broadcast = false
    let cached (x : CacheEntry) : Prop := x.station = r.src ∧ x.code = r.code ∧ x.tag = r.tag
    let fresh := broadcast = true ∨ r.tag = 0 ∨ ((∀ q ∈ s.mgmt.queue, ¬ held q) ∧ (∀ c ∈ s.mgmt.current, ¬ held c.req)
      ∧ ∀ x ∈ s.mgmt.cache, ¬ cached x)
    let answered (st : Status) (u : State) : Prop :=
      (ReplyRoom r s → exec (.requestArrival p) s = .next (replied r st [] u))
      ∧ ((s.port p).up = true → 4 ≤ (s.port p).localQ.length → exec (.requestArrival p) s
        = .next (replying r st [] s (joinedWaiting p .mgmt (responseFrame s.seqr.own r st []) u)))
      ∧ ((s.port p).up = false →
        exec (.requestArrival p) s = .next (replying r st [] s (offerDropped p .mgmt u)))
    (¬ readable → exec (.requestArrival p) s = .next discarded)
    ∧ (readable → broadcast = false → r.tag ≠ 0 → (∃ q ∈ s.mgmt.queue, held q) →
      exec (.requestArrival p) s = .next discarded)
    ∧ (readable → broadcast = false → r.tag ≠ 0 → ∀ c, s.mgmt.current = some c → held c.req →
      exec (.requestArrival p) s = .next discarded)
    ∧ (readable → 4 ≤ s.mgmt.queue.length → exec (.requestArrival p) s = .next discarded)
    ∧ (readable → fresh → s.mgmt.queue.length < 4 → s.mgmt.current ≠ none →
      exec (.requestArrival p) s = .next (t.setMgmt { s.mgmt with queue := s.mgmt.queue ++ [r] }))
    ∧ (readable → fresh → s.mgmt.queue = [] → s.mgmt.current = none →
      (paramLength r.code = some r.params.length →
        r.code = 1 ∨ (s.seqr.part = .ready ∨ r.code = 2) ∧ (s.mgmt.managers = [] ∨ r.src ∈ s.mgmt.managers) →
        exec (.requestArrival p) s
          = .next (t.setMgmt { s.mgmt with current := some { req := r, stage := .handed } }))
      ∧ (paramLength r.code ≠ none → r.code ≠ 1 → s.mgmt.managers ≠ [] → r.src ∉ s.mgmt.managers →
        answered .denied (t.setMgmt { s.mgmt with denied := min counterMax (s.mgmt.denied + 1) }))
      ∧ (paramLength r.code ≠ none → r.code ≠ 1 → r.code ≠ 2 → s.mgmt.managers = [] ∨ r.src ∈ s.mgmt.managers →
        s.seqr.part = .mounting → answered .mounting t)
      ∧ (∀ n, paramLength r.code = some n → r.params.length ≠ n →
        r.code = 1 ∨ (s.seqr.part = .ready ∨ r.code = 2) ∧ (s.mgmt.managers = [] ∨ r.src ∈ s.mgmt.managers) →
        answered .badLength t)
      ∧ (paramLength r.code = none → answered .unknownRequest t))
    ∧ (∀ (older : List CacheEntry) (x : CacheEntry) (newer : List CacheEntry), readable → broadcast = false → r.tag ≠ 0 →
      s.mgmt.cache = older ++ x :: newer → cached x → (∀ y ∈ older ++ newer, y.station ≠ r.src) →
      (older ++ newer).length < 8 →
      let used := older ++ newer ++ [x]
      (s.mgmt.queue = [] → s.mgmt.current = none → LocalRoom p s →
        exec (.requestArrival p) s = .next (enqueued p .mgmt x.bytes
          (t.setMgmt { s.mgmt with cache := used, duplicates := min counterMax (s.mgmt.duplicates + 1) })))
      ∧ (∀ c, s.mgmt.current = some c → ¬ held c.req → (∀ q ∈ s.mgmt.queue, ¬ held q) → s.mgmt.queue.length < 4 →
        exec (.requestArrival p) s = .next (t.setMgmt { s.mgmt with
          cache := used, queue := s.mgmt.queue ++ [{ r with cached := some x.bytes }] })))
    ∧ ∀ (cache : List CacheEntry) (x : CacheEntry),
      (∀ older y newer, cache = older ++ y :: newer → y.station = x.station →
        (∀ z ∈ older ++ newer, z.station ≠ x.station) → (older ++ newer).length < 8 →
        cacheStore cache x = older ++ newer ++ [x])
      ∧ ((∀ y ∈ cache, y.station ≠ x.station) →
        (cache.length < 8 → cacheStore cache x = cache ++ [x])
        ∧ (∀ y rest, cache = y :: rest → rest.length = 7 → cacheStore cache x = rest ++ [x]))

/-- DISCOVER, READ_STATUS, READ_COUNTERS and CLEAR_COUNTERS answer OK: the identity of the part; the status of every
block in the 131 bytes of 12.7 (of several CAPTURING entries of a mount the first in replay order, log 45); the 34
counters, four bytes each; and the same counters, which are then 0 while the lost tally, the overflow count, the
Retired List and the hit counts stay. Only the last changes more than the unit and the port of its answer (9.6, 12.4,
12.7, 12.8). -/
def Obligations.ReadRequestsReportTheState : Prop :=
  ∀ (r : Request) (s : State), ReplyRoom r s →
    let ports (x : PortCounters) : List Nat :=
      [x.rxGood, x.rxCheck, x.rxLength, x.rxRunt, x.rxOverlong, x.sent, x.queueFull, x.relayDown, x.localDown]
    let counters := ports s.portA.counters ++ ports s.portB.counters
      ++ [s.cls.defaultHits, s.packer.recordsPacked, s.packer.capturesLost, s.log.pagesCommitted,
        s.log.programFailures, s.log.eraseFailures, s.ctl.taken, s.ctl.ignored, s.ctl.refused, s.jrnl.dirFailures,
        s.jrnl.profFailures, s.mgmt.discarded, s.mgmt.denied, s.mgmt.duplicates, s.notice.dropped,
        s.notice.discarded]
    let zero : PortCounters :=
      { rxGood := 0, rxCheck := 0, rxLength := 0, rxRunt := 0, rxOverlong := 0, sent := 0, queueFull := 0,
        relayDown := 0, localDown := 0 }
    let result := counters.flatMap (be 4)
    let one (n : Nat) : Byte := BitVec.ofNat 8 n
    let cause : Byte := match s.seqr.cause with
      | .powerOn => 1
      | .line => 2
      | .restart => 3
    let port (x : PortState) : Bytes :=
      [if x.up = true then 1 else 0, one x.relayQ.length, one x.localQ.length, one x.waiting.length]
    let buffer (x : Buffer) : Byte := match x.state with
      | .empty => 0
      | .filling => 1
      | .full => 2
      | .writing => 3
    let array : Byte := match s.arr.running with
      | none => 0
      | some { req := .read _ _, .. } => 1
      | some { req := .program _ _ _ _, .. } => 2
      | some { req := .erase _, .. } => 3
    let suspended : Bytes := match s.arr.suspended with
      | none => [0, 0, 0]
      | some e => be 2 e.block ++ [one e.count]
    let slot (x : Option ArrayReq) (n : Nat) : Nat := if x = none then 0 else n
    let condition : Byte := match s.log.condition with
      | .normal => 0
      | .waiting => 1
      | .full => 2
      | .fault _ => 3
    let ahead : Bytes := match s.log.ahead with
      | .none => [0, 0, 0]
      | .prepared b => be 2 b ++ [1]
      | .underWay b => be 2 b ++ [2]
    let capture : Byte := match s.ctl.state with
      | .stopped => 0
      | .running => 1
      | .posting => 2
      | .closing => 3
    let target : Byte := match s.ctl.target with
      | none => 0
      | some .running => 1
      | some .stopped => 2
    let journal : Byte := match s.jrnl.state with
      | .idle => 0
      | .appending => 1
      | .compacting => 2
      | .profile => 3
    let session (x : Session) : Bytes := match x.state with
      | .free => List.replicate 15 0
      | .fetching => [1, x.station] ++ be 2 x.source ++ [one x.credit] ++ be6 x.point ++ be 4 x.delivered
      | .delivering => [2, x.station] ++ be 2 x.source ++ [one x.credit] ++ be6 x.point ++ be 4 x.delivered
      | .stalled => [3, x.station] ++ be 2 x.source ++ [one x.credit] ++ be6 x.point ++ be 4 x.delivered
      | .following => [4, x.station] ++ be 2 x.source ++ [one x.credit] ++ be6 x.point ++ be 4 x.delivered
      | .ending => [5, x.station] ++ be 2 x.source ++ [one x.credit] ++ be6 x.point ++ be 4 x.delivered
    let head : Bytes := match s.notice.queue with
      | [] => [0, 0, 0, 0, 0]
      | x :: more => [one (more.length + 1)] ++ be 2 x.num ++ [match s.notice.head with
          | .queued => 1
          | .inFlight => 2
          | .parked => 3] ++ [one s.notice.attempts]
    let status : Bytes :=
      [one (if s.seqr.part = .mounting then 1 else 2), cause, one s.seqr.phase]
      ++ [one 1, one s.mgmt.queue.length, one s.mgmt.cache.length, one s.mgmt.managers.length]
      ++ s.mgmt.managers ++ List.replicate (4 - s.mgmt.managers.length) (0 : Byte)
      ++ port s.portA ++ port s.portB
      ++ [buffer s.packer.sb0, buffer s.packer.sb1, one s.packer.slot.length] ++ be6 s.packer.nextSeq
      ++ be 4 s.packer.timeBase.toNat ++ be 4 s.packer.tallyCount
      ++ [array] ++ suspended
      ++ [one (slot s.arr.journal 1 + slot s.arr.logWriter 2 + slot s.arr.eraseAhead 4 + slot s.arr.session1 8
        + slot s.arr.session2 16 + slot s.arr.sequencer 32)]
      ++ [condition] ++ be 2 (s.log.active.getD 0) ++ [one s.log.nextPage] ++ ahead ++ [one s.log.retired.length]
      ++ be 2 s.log.history.length ++ be6 ((oldestAvailable s.log).getD 0) ++ be6 s.log.lastCommitted
      ++ [capture, target] ++ be 2 s.ctl.lastRun ++ be6 s.ctl.runOrigin
      ++ [one (if s.ctl.holdoffTimer = none then 0 else 1)] ++ be 2 ((openEntry s.dir).elim 0 Entry.num)
      ++ [one s.dir.entries.length]
      ++ [journal, one (s.jrnl.cur.getD 255), one s.jrnl.nextPage, one s.jrnl.jobs.length,
        one (s.jrnl.validBlock.getD 0)] ++ be 4 s.jrnl.generation
      ++ session s.ret.s1 ++ session s.ret.s2
      ++ [s.notice.settings.station, match s.notice.settings.port with
        | .a => 0
        | .b => 1] ++ be 2 s.notice.settings.enable.toNat ++ be 2 s.notice.settings.retry
      ++ head ++ be 2 s.notice.nextNumber ++ be 2 s.notice.overflow
    (Handed 0x01 r s → exec .discover s = .next (replied r .ok
      [s.seqr.own, 0xD0, 0x16, 0x01, if s.seqr.part = .mounting then 1 else 2, cause, one s.mgmt.managers.length,
        if s.mgmt.managers = [] ∨ r.src ∈ s.mgmt.managers then 1 else 0] s))
    ∧ (Handed 0x02 r s → s.mgmt.managers.length ≤ 4 →
      exec .readStatus s = .next (replied r .ok status s) ∧ status.length = 131)
    ∧ (Handed 0x03 r s → exec .readCounters s = .next (replied r .ok result s))
    ∧ (Handed 0x04 r s → exec .clearCounters s = .next (replied r .ok result { s with
        portA := { s.portA with counters := zero }, portB := { s.portB with counters := zero },
        cls := { s.cls with defaultHits := 0 }, packer := { s.packer with recordsPacked := 0, capturesLost := 0 },
        log := { s.log with pagesCommitted := 0, programFailures := 0, eraseFailures := 0 },
        ctl := { s.ctl with taken := 0, ignored := 0, refused := 0 },
        jrnl := { s.jrnl with dirFailures := 0, profFailures := 0 },
        mgmt := { s.mgmt with discarded := 0, denied := 0, duplicates := 0 },
        notice := { s.notice with dropped := 0, discarded := 0 } }))
    ∧ result.length = 136

/-- SET_MANAGERS: the used places become the Manager List when they are at most four distinct station addresses that
name the requester or none; otherwise the answer is BAD_VALUE and the list stays (R164).
RESTART answers OK at once and the unit waits for that frame's ending, sent or discarded, which begins the orderly
stop: in RUNNING, POSTING and CLOSING toward RUNNING the RUN_STOP with reason RESTART is placed, POSTING ending, with the
KEPT snapshot asked for when it is due at once, and CLOSING is awaited; in STOPPED the FILLING buffer is closed, and
the unit waits until both buffers, the Control Slot and the job list are empty. Then, or as soon as the log condition is
FULL or FAULT, the part resets in that happening with cause RESTART and its own address kept, and the array is as the
table of R59 says (R36, R37, R59, R88, R99, R169, R170; how far an operation had got is free, log 8). The last part says
what the end of a happening that leaves the Log Writer nothing to do does to a stop under way. -/
def Obligations.ManagersAreSetAndRestartResets : Prop :=
    (∀ (r : Request) (n a1 a2 a3 a4 : Byte) (s : State), Handed 0x05 r s → ReplyRoom r s →
      r.params = [n, a1, a2, a3, a4] →
      let used := [a1, a2, a3, a4].take n.toNat
      let valid := n.toNat ≤ 4 ∧ (∀ a ∈ used, 1 ≤ a.toNat ∧ a.toNat ≤ 250) ∧ used.Nodup ∧ (n = 0 ∨ r.src ∈ used)
      (valid → exec .setManagers s = .next (replied r .ok [] (s.setMgmt { s.mgmt with managers := used })))
      ∧ (¬ valid → exec .setManagers s = .next (replied r .badValue [] s)))
  ∧ (∀ (r : Request) (s : State),
      (Handed 0x06 r s → ReplyRoom r s → exec .restart s = .next ((replied r .ok [] s).setMgmt
        { (replied r .ok [] s).mgmt with current := some { req := r, stage := .restartWait s.serial } }))
      ∧ (∀ (p : Port) (pre post : List Ending) (e : Ending),
        Oldest (fun y => y.port = p ∧ y.who = .mgmt) s.raised.endings pre e post →
        s.mgmt.current = some { req := r, stage := .restartWait e.serial } →
        let moved (stage : ExecStage) (t : State) : Host.Outcome State Fault Refusal := .next { t with
          raised := { t.raised with endings := pre ++ post },
          mgmt := { s.mgmt with current := some { req := r, stage := stage } } }
        let resets : Prop := ∃ store, CutByReset s store
          ∧ exec (.localFrameEnding p .mgmt) s
            = .next (State.inReset s.pending store .restart s.seqr.own s.serial (s.free + 2))
        (s.ctl.state = .stopped → s.packer.sb0.state = .empty → s.packer.sb1.state = .empty → s.packer.fullOrder = [] →
          s.packer.slot = [] → s.jrnl.jobs = [] → resets)
        ∧ (StopHopeless s.log → (s.ctl.state = .posting → openEntry s.dir = none) → resets)
        ∧ (∀ x v, StopHopeless s.log → s.ctl.state = .posting → OpenAlone s.dir x →
          PostingEnded .stopped x (lastAtEnd s x) s v → ∃ store, CutByReset v store
            ∧ exec (.localFrameEnding p .mgmt) s
              = .next (State.inReset s.pending store .restart s.seqr.own s.serial (s.free + 2)))
        ∧ (s.log.condition ≠ .full → inFault s.log = false →
          (∀ u, s.ctl.state = .stopped → FlushedTo s.packer u → ¬ Drained u s.jrnl → LogQuiet s → LogQuiet (s.setPacker u) →
            exec (.localFrameEnding p .mgmt) s = moved .draining (s.setPacker u))
          ∧ (s.ctl.state = .closing → s.ctl.target = some .stopped → LogQuiet s →
            exec (.localFrameEnding p .mgmt) s = moved .stopping s)
          ∧ (∀ u, StopPlaced .restart s u → LogQuiet (s.setPacker u) →
            (s.ctl.state = .running → bufIn u .filling = none →
              exec (.localFrameEnding p .mgmt) s = moved .draining { s with
                packer := u,
                ctl := { s.ctl with
                  state := .stopped, target := none, holdoffTimer := none, stopReason := some .restart },
                raised := { s.raised with events := s.raised.events
                  ++ [(.controller, .captureStopped s.ctl.lastRun (some .restart))] } })
            ∧ (∀ x v, s.ctl.state = .posting → OpenAlone s.dir x → PostingEnded .stopped x (lastAtEnd s x) s v →
              LogQuiet (v.setPacker u) → exec (.localFrameEnding p .mgmt) s = moved .stopping { v with
                packer := u, ctl := { v.ctl with stopReason := some .restart } })
            ∧ (s.ctl.state = .closing → s.ctl.target = some .running →
              exec (.localFrameEnding p .mgmt) s = moved .stopping { s with
                packer := u, ctl := { s.ctl with target := some .stopped, stopReason := some .restart } }))))
      ∧ (LogQuiet s →
        let hopeless := s.log.condition = .full ∨ inFault s.log = true
        let resets : Prop := ∃ store, CutByReset s store
          ∧ settle s = State.inReset s.pending store .restart s.seqr.own s.serial (s.free + 2)
        (s.mgmt.current = some { req := r, stage := .draining } →
          (hopeless ∨ Drained s.packer s.jrnl → resets) ∧ (¬ hopeless → ¬ Drained s.packer s.jrnl → settle s = s))
        ∧ (s.mgmt.current = some { req := r, stage := .stopping } →
          (hopeless → resets) ∧ (¬ hopeless → s.ctl.state ≠ .stopped → settle s = s)
          ∧ (∀ u, ¬ hopeless → s.ctl.state = .stopped → FlushedTo s.packer u → LogQuiet (s.setPacker u) →
            (Drained u s.jrnl → resets)
            ∧ (¬ Drained u s.jrnl → settle s = { s with
              packer := u, mgmt := { s.mgmt with current := some { req := r, stage := .draining } } })))))

/-! ### Rule requests (01) -/

/-- WRITE_RULE replaces the entry, with hit count 0, by a definition that passes every check of R15, and answers
BAD_VALUE and changes nothing for any other; READ_RULE gives the entry in the same layout with its hit count and
changes nothing (1.6, 12.6). ENABLE_RULE and DISABLE_RULE move an entry in use and answer NOT_FOUND for an UNUSED one;
CLEAR_RULE returns one entry, or all with index 255, to the cleared form; CLEAR_HITS sets one hit count, or all, to 0;
an index of no entry is BAD_VALUE (R18 to R21). -/
def Obligations.RulesAreWrittenReadMovedAndCleared : Prop :=
    (∀ (r : Request) (s : State), ReplyRoom r s →
      let n (k : Nat) : Nat := (byteAt r.params k).toNat
      let value := fieldAt 15 4 r.params
      let mask := fieldAt 19 4 r.params
      let testValid := n 12 = 0 ∨ (n 12 = 1 ∧ n 13 ≤ 239 ∧ 1 ≤ n 14 ∧ n 14 ≤ 4 ∧ n 13 + n 14 ≤ 240
        ∧ value < 256 ^ n 14 ∧ mask < 256 ^ n 14 ∧ n 23 ≤ 1)
      let valid := n 0 ≤ 47 ∧ (n 1 = 1 ∨ n 1 = 2) ∧ n 2 ≤ 2 ∧ n 3 ≤ 2 ∧ n 8 ≤ n 9 ∧ n 10 ≤ n 11 ∧ n 11 ≤ 240
        ∧ testValid ∧ n 24 ≤ 3 ∧ n 25 ≤ 200
      let rule : Rule :=
        { state := if n 1 = 1 then .enabled else .disabled,
          dir := if n 2 = 0 then .aToB else if n 2 = 1 then .bToA else .either,
          kind := if n 3 = 0 then .good else if n 3 = 1 then .error else .any,
          destValue := byteAt r.params 4, destMask := byteAt r.params 5, srcValue := byteAt r.params 6,
          srcMask := byteAt r.params 7, classLow := n 8, classHigh := n 9, lenMin := n 10, lenMax := n 11,
          test := if n 12 = 0 then none else some
            { offset := n 13, length := n 14, value := BitVec.ofNat 32 value, mask := BitVec.ofNat 32 mask,
              sense := if n 23 = 0 then .equal else .notEqual },
          action := if n 24 = 0 then .pass else if n 24 = 1 then .capture else if n 24 = 2 then .trigger
            else .triggerOnly,
          snap := n 25, hits := 0 }
      (Handed 0x10 r s → r.params.length = 26 →
        (valid → exec .writeRule s = .next (replied r .ok [] (s.setCls { s.cls with rules := s.cls.rules.set (n 0) rule })))
        ∧ (¬ valid → exec .writeRule s = .next (replied r .badValue [] s)))
      ∧ (Handed 0x11 r s → r.params.length = 1 → s.cls.rules.length = 48 →
        (∀ e, s.cls.rules[n 0]? = some e →
          exec .readRule s = .next (replied r .ok (ruleBytes (n 0) e ++ be 4 e.hits) s))
        ∧ (48 ≤ n 0 → exec .readRule s = .next (replied r .badValue [] s))))
  ∧ (∀ (r : Request) (i : Byte) (s : State), ReplyRoom r s → r.params = [i] → s.cls.rules.length = 48 →
      let put (e : Rule) : State := s.setCls { s.cls with rules := s.cls.rules.set i.toNat e }
      let cleared : Rule :=
        { state := .unused, dir := .either, kind := .any, destValue := 0, destMask := 0, srcValue := 0, srcMask := 0,
          classLow := 0, classHigh := 255, lenMin := 0, lenMax := 240, test := none, action := .pass, snap := 0,
          hits := 0 }
      let bad := replied r .badValue [] s
      (∀ e, s.cls.rules[i.toNat]? = some e →
        (e.state ≠ .unused → Handed 0x12 r s →
          exec .enableRule s = .next (replied r .ok [] (put { e with state := .enabled })))
        ∧ (e.state ≠ .unused → Handed 0x13 r s →
          exec .disableRule s = .next (replied r .ok [] (put { e with state := .disabled })))
        ∧ (e.state = .unused → (Handed 0x12 r s → exec .enableRule s = .next (replied r .notFound [] s))
          ∧ (Handed 0x13 r s → exec .disableRule s = .next (replied r .notFound [] s)))
        ∧ (Handed 0x14 r s → exec .clearRule s = .next (replied r .ok [] (put cleared)))
        ∧ (Handed 0x15 r s → exec .clearHits s = .next (replied r .ok [] (put { e with hits := 0 }))))
      ∧ (i = 255 →
        (Handed 0x14 r s → exec .clearRule s
          = .next (replied r .ok [] (s.setCls { s.cls with rules := List.replicate 48 cleared })))
        ∧ (Handed 0x15 r s → exec .clearHits s = .next (replied r .ok []
          (s.setCls { s.cls with rules := s.cls.rules.map (fun e => { e with hits := 0 }) }))))
      ∧ (48 ≤ i.toNat → (Handed 0x12 r s → exec .enableRule s = .next bad)
        ∧ (Handed 0x13 r s → exec .disableRule s = .next bad)
        ∧ (i ≠ 255 → (Handed 0x14 r s → exec .clearRule s = .next bad)
          ∧ (Handed 0x15 r s → exec .clearHits s = .next bad))))

/-- SET_DEFAULT_ACTION takes PASS or CAPTURE and answers BAD_VALUE to any other value, TRIGGER and TRIGGER_ONLY among
them; the default-hit counter stays (R22). SET_CAPTURE answers BUSY outside STOPPED, BAD_VALUE for a value out of range,
and replaces all seven settings otherwise (R84, R85). -/
def Obligations.DefaultActionAndCaptureSettings : Prop :=
  ∀ (r : Request) (s : State), ReplyRoom r s →
    (∀ v : Byte, Handed 0x16 r s → r.params = [v] →
      (v = 0 → exec .setDefaultAction s = .next (replied r .ok [] (s.setCls { s.cls with dflt := .pass })))
      ∧ (v = 1 → exec .setDefaultAction s = .next (replied r .ok [] (s.setCls { s.cls with dflt := .capture })))
      ∧ (v ≠ 0 → v ≠ 1 → exec .setDefaultAction s = .next (replied r .badValue [] s)))
    ∧ (∀ w c1 c2 c3 t1 t2 h1 h2 m f1 f2 a : Byte, Handed 0x30 r s →
      r.params = [w, c1, c2, c3, t1, t2, h1, h2, m, f1, f2, a] →
      let x : Settings :=
        { window := w.toNat, postCount := (c1.toNat * 256 + c2.toNat) * 256 + c3.toNat,
          postTime := t1.toNat * 256 + t2.toNat, holdoff := h1.toNat * 256 + h2.toNat, rearm := decide (m = 1),
          flush := f1.toNat * 256 + f2.toNat, autostart := decide (a = 1) }
      let valid := x.window ≤ 16 ∧ 1 ≤ x.postCount ∧ x.postCount ≤ 1048575 ∧ m.toNat ≤ 1 ∧ x.flush ≤ 1000 ∧ a.toNat ≤ 1
      (s.ctl.state ≠ .stopped → exec .setCapture s = .next (replied r .busy [] s))
      ∧ (s.ctl.state = .stopped → valid →
        exec .setCapture s = .next (replied r .ok [] (s.setCtl { s.ctl with settings := x })))
      ∧ (s.ctl.state = .stopped → ¬ valid → exec .setCapture s = .next (replied r .badValue [] s)))

/-! ### Requests of the Packer and the Capture Controller (02, 05) -/

/-- SET_TIME with the gate CLOSED moves the Time Base and writes no record; with it OPEN a TIME_SET record, with the
new value as its time, goes into the FILLING buffer that has room, or opens an EMPTY buffer behind the GAP record of a
lost tally, a FILLING buffer without room being closed first; the answer carries the old value. With records in the
Control Slot, no sequence left (with a GAP record ahead, log 24) or neither room nor an EMPTY buffer the answer is
BUSY, and nothing moves or is closed (R27, R30, R31). A record that takes the post-end sequence ends posting (R98); one
that leaves the last sequence alone stops a run with SEQUENCE_END and drops the tally (R25). -/
def Obligations.TimeIsSetWithARecord : Prop :=
  ∀ (r : Request) (v1 v2 v3 v4 : Byte) (s : State), Handed 0x21 r s → ReplyRoom r s → r.params = [v1, v2, v3, v4] →
    let p := s.packer
    let new : Time := BitVec.ofNat 32 (((v1.toNat * 256 + v2.toNat) * 256 + v3.toNat) * 256 + v4.toNat)
    let old := be 4 p.timeBase.toNat
    let record (seq : Nat) : Record := { seq := seq, time := new, body := .timeSet p.timeBase new }
    let placed (q : Packer) : Prop := p.slot = []
      ∧ ((∃ i, bufIn p .filling = some i ∧ usedBytes (getBuf p i) + 22 ≤ 1024
          ∧ q = { setBuf p { getBuf p i with recs := (getBuf p i).recs ++ [record p.nextSeq] } i with
            timeBase := new, nextSeq := p.nextSeq + 1, lastPlaced := p.nextSeq,
            recordsPacked := min counterMax (p.recordsPacked + 1) })
        ∨ ∃ j m, NoRoomFor p 22 m ∧ bufIn m .empty = some j
          ∧ q = { openedWith s.ctl.settings.flush j [record (p.nextSeq + (lossGap p).length)] m with timeBase := new })
    (p.gateOpen = false → exec .setTime s = .next (replied r .ok old (s.setPacker { p with timeBase := new })))
    ∧ (∀ q, p.gateOpen = true → placed q →
      (∀ v, q.nextSeq < 281474976710655 → CountTaken p.nextSeq (s.setPacker q) v → LogQuiet v →
        exec .setTime s = .next (replied r .ok old v))
      ∧ (∀ u, q.nextSeq = 281474976710655 → s.ctl.state = .running →
        let t := s.setPacker { q with tallyCount := 0, tallyFirst := 0, tallyLast := 0 }
        StopPlaced .sequenceEnd t u → LogQuiet (t.setPacker u) →
        exec .setTime s = .next (replied r .ok old (captureEnded { t with
          packer := u, ctl := { t.ctl with holdoffTimer := none, stopReason := some .sequenceEnd } }))))
    ∧ (p.gateOpen = true →
      p.slot ≠ [] ∨ 281474976710654 < p.nextSeq
        ∨ (∃ m, NoRoomFor p 22 m
          ∧ (bufIn m .empty = none ∨ 281474976710654 < p.nextSeq + (lossGap p).length)) →
      exec .setTime s = .next (replied r .busy [] s))

/-- START_CAPTURE: STORE_FAULT in FAULT, BUSY outside STOPPED and with the Control Slot in use; otherwise the
RUN_START goes into the FILLING buffer with room, or opens an EMPTY one, or waits in the Control Slot, behind the GAP
record of a lost tally; the gate opens, the state is RUNNING, and the answer carries run number and origin (R36, R86).
STOP_CAPTURE: OK with the state; in RUNNING, POSTING and CLOSING toward RUNNING the GAP record and the RUN_STOP are
placed and their buffer closed, or wait in the Control Slot, and the gate closes: RUNNING becomes STOPPED with
CAPTURE_STOPPED, POSTING ends as CLOSING toward STOPPED, with the KEPT snapshot asked for when it is due at once, and
CLOSING turns toward STOPPED; STOPPED, and CLOSING toward STOPPED, stay (R36, R37, R87, R99, R100). -/
def Obligations.CaptureStartsAndStops : Prop :=
  ∀ (r : Request) (s : State), ReplyRoom r s →
    let p := s.packer
    let run := if s.ctl.lastRun < 65535 then s.ctl.lastRun + 1 else 1
    (Handed 0x31 r s →
      (inFault s.log = true → exec .startCapture s = .next (replied r .storeFault [] s))
      ∧ (inFault s.log = false → s.ctl.state ≠ .stopped ∨ p.slot ≠ [] →
        exec .startCapture s = .next (replied r .busy [] s))
      ∧ (∀ origin v, RunBegun origin s v → LogQuiet v →
        exec .startCapture s = .next (replied r .ok (be 2 run ++ be 6 origin) v)))
    ∧ (Handed 0x32 r s →
      (s.ctl.state = .stopped → LogQuiet s → exec .stopCapture s = .next (replied r .ok [0] s))
      ∧ (s.ctl.state = .closing → s.ctl.target = some .stopped → LogQuiet s →
        exec .stopCapture s = .next (replied r .ok [3] s))
      ∧ (∀ u : Packer, StopPlaced .request s u → LogQuiet (s.setPacker u) →
        (s.ctl.state = .running → exec .stopCapture s = .next (replied r .ok [0] { s with
          packer := u,
          ctl := { s.ctl with
            state := .stopped, target := none, holdoffTimer := none, stopReason := some .request },
          raised := { s.raised with events := s.raised.events
            ++ [(.controller, .captureStopped s.ctl.lastRun (some .request))] } }))
        ∧ (∀ e v, s.ctl.state = .posting → OpenAlone s.dir e → PostingEnded .stopped e (lastAtEnd s e) s v →
          LogQuiet (v.setPacker u) → exec .stopCapture s = .next (replied r .ok [3] { v with
            packer := u, ctl := { v.ctl with stopReason := some .request } }))
        ∧ (s.ctl.state = .closing → s.ctl.target = some .running → exec .stopCapture s = .next (replied r .ok [3] { s with
          packer := u, ctl := { s.ctl with target := some .stopped, stopReason := some .request } }))))

/-- FORCE_TRIGGER is a trigger of source FORCED with the next record sequence and the present time. Its answer follows
its outcome: BUSY when STOPPED, with nothing counted, and when ignored; NO_ROOM when refused; OK with the new
recording's number and the sequence when taken (R90). -/
def Obligations.ForcedTriggersAreAnswered : Prop :=
  ∀ (r : Request) (s : State), Handed 0x33 r s → ReplyRoom r s →
    (s.ctl.state = .stopped → exec .forceTrigger s = .next (replied r .busy [] s))
    ∧ (s.ctl.state = .posting ∨ s.ctl.state = .closing
        ∨ (s.ctl.state = .running ∧ (s.ctl.holdoffTimer ≠ none ∨ s.log.active = none)) →
      exec .forceTrigger s
        = .next (replied r .busy [] (s.setCtl { s.ctl with ignored := min counterMax (s.ctl.ignored + 1) })))
    ∧ (s.ctl.state = .running → s.ctl.holdoffTimer = none → s.log.active ≠ none → 12 ≤ s.dir.entries.length →
      exec .forceTrigger s = .next (replied r .noRoom [] ((s.setRaised { s.raised with events := s.raised.events
          ++ [(.controller, .triggerRefused .forced s.packer.nextSeq s.dir.entries.length)] }).setCtl
        { s.ctl with refused := min counterMax (s.ctl.refused + 1) })))
    ∧ (∀ a, s.ctl.state = .running → s.ctl.holdoffTimer = none → s.log.active = some a → s.dir.entries.length < 12 →
      (∀ e ∈ s.dir.entries, e.num ≠ s.dir.nextNumber) → s.jrnl.usable = true → s.jrnl.state ≠ .idle →
      s.packer.nextSeq ≤ 281474976710655 → s.ctl.settings.window = 0 → s.ctl.settings.postTime = 0 →
      let first := max s.ctl.runOrigin (((blockEntry s.log a).firstSeq).getD (oldestHeld s.packer))
      exec .forceTrigger s = .next (replied r .ok (be 2 s.dir.nextNumber ++ be 6 s.packer.nextSeq) { s with
        dir := {
          entries := s.dir.entries ++ [{
            num := s.dir.nextNumber, state := .capturing, source := .forced, trigTime := s.packer.timeBase,
            trigSeq := s.packer.nextSeq, trigLost := false, first := first, last := none, reason := none,
            blocks := [a], sessions := 0, journaled := .none }],
          nextNumber := if s.dir.nextNumber < 65535 then s.dir.nextNumber + 1 else 1 },
        log := { raiseHold s.log a with capturingRec := s.dir.nextNumber },
        ctl := { s.ctl with
          state := .posting, postEnd := s.packer.nextSeq + s.ctl.settings.postCount, keptAsked := false,
          taken := min counterMax (s.ctl.taken + 1), postTimer := none },
        jrnl := { s.jrnl with jobs := s.jrnl.jobs ++ [.capturing s.dir.nextNumber [a]] } }))

/-! ### Requests of the directory and the saved profile (05, 06) -/

/-- LIST_RECORDINGS reports the number of entries and a summary of each in ascending recording number; READ_RECORDING
every field of one entry, or NOT_FOUND; both change nothing (R103, R104, 12.4). -/
def Obligations.RecordingsAreListedAndRead : Prop :=
  ∀ (r : Request) (s : State), ReplyRoom r s →
    let summary (e : Entry) : Bytes :=
      be 2 e.num ++ [BitVec.ofNat 8 (recStateCode e.state), BitVec.ofNat 8 (closeReasonCode e.reason)] ++ be6 e.first
        ++ be6 (e.last.getD 0) ++ [BitVec.ofNat 8 e.blocks.length, BitVec.ofNat 8 e.sessions]
    (∀ es : List Entry, Handed 0x34 r s → es.Perm s.dir.entries → es.Pairwise (fun x y => x.num < y.num) →
      exec .listRecordings s = .next (replied r .ok ([BitVec.ofNat 8 es.length] ++ es.flatMap summary) s))
    ∧ (∀ h l : Byte, Handed 0x35 r s → r.params = [h, l] →
      let num := h.toNat * 256 + l.toNat
      (num = 0 ∨ (∀ e ∈ s.dir.entries, e.num ≠ num) → exec .readRecording s = .next (replied r .notFound [] s))
      ∧ (∀ e, num ≠ 0 → findEntry s.dir num = some e → exec .readRecording s = .next (replied r .ok
        (be 2 num ++ [BitVec.ofNat 8 (recStateCode e.state), BitVec.ofNat 8 (trigSourceCode e.source),
          if e.trigLost = true then 1 else 0] ++ be 4 e.trigTime.toNat ++ be6 e.trigSeq ++ be6 e.first
          ++ be6 (e.last.getD 0) ++ [BitVec.ofNat 8 (closeReasonCode e.reason), BitVec.ofNat 8 e.sessions,
            BitVec.ofNat 8 e.blocks.length] ++ e.blocks.flatMap (be 2)) s)))

/-- RELEASE_RECORDING, FREEZE_RECORDING, SAVE_PROFILE and CLEAR_PROFILE are refused by the first case that applies, or
ask their job of the Journal Writer, here one that is serving another job, and wait for it without an answer (R105,
R106, R121, R123, R163). -/
def Obligations.StoreRequestsWaitForTheirPages : Prop :=
  ∀ (r : Request) (s : State), s.jrnl.usable = true → s.jrnl.state ≠ .idle → LogQuiet s →
    let waits (j : Job) : State := { s with
      mgmt := { s.mgmt with current := some { req := r, stage := .journal } },
      jrnl := { s.jrnl with jobs := s.jrnl.jobs ++ [j] } }
    (∀ h l : Byte, Handed 0x36 r s ∨ Handed 0x37 r s → r.params = [h, l] →
      let c : Instr := if r.code = 0x36 then .releaseRecording else .freezeRecording
      let num := h.toNat * 256 + l.toNat
      (num = 0 ∨ (∀ e ∈ s.dir.entries, e.num ≠ num) → ReplyRoom r s → exec c s = .next (replied r .notFound [] s))
      ∧ (∀ e, num ≠ 0 → findEntry s.dir num = some e →
        (ReplyRoom r s → e.state = .frozen → exec c s = .next (replied r .frozen [] s))
        ∧ (ReplyRoom r s → e.state = .capturing ∨ e.state = .closing → exec c s = .next (replied r .busy [] s))
        ∧ (e.state = .kept →
          (ReplyRoom r s → r.code = 0x36 → 0 < e.sessions → exec c s = .next (replied r .inUse [] s))
          ∧ (r.code = 0x37 ∨ e.sessions = 0 →
            (ReplyRoom r s → inFault s.log = true → exec c s = .next (replied r .storeFault [] s))
            ∧ (inFault s.log = false →
              exec c s = .next (waits (if r.code = 0x36 then .released num else .frozen num)))))))
    ∧ (Handed 0x40 r s →
      (s.jrnl.generation = 4294967295 → ReplyRoom r s → exec .saveProfile s = .next (replied r .noRoom [] s))
      ∧ (s.jrnl.generation ≠ 4294967295 → exec .saveProfile s = .next (waits (.saveProfile
        { settings := s.ctl.settings, dflt := s.cls.dflt, managers := s.mgmt.managers, notify := s.notice.settings,
          rules := s.cls.rules.map (fun e => { e with hits := 0 }) }))))
    ∧ (Handed 0x41 r s → exec .clearProfile s = .next (waits .clearProfile))

/-! ### Retrieval requests and the idle timer (07) -/

/-- OPEN_RETRIEVAL: the first refusal of R127 that applies, with nothing changed; otherwise a session in the FREE slot
of lower number: of a recording, or of the live ring from its oldest sequence or a start that Locate places in a block
(over an empty list of blocks, log 34),
with the read of its fetch step handed in; of an empty live ring, or from the sequence behind the newest one, with FOLLOW,
waiting in FOLLOWING. The answer carries the slot and the first sequence, and its entry is seen by the session (R81,
R127 to R130). -/
def Obligations.SessionsAreOpenedOrRefused : Prop :=
  ∀ (r : Request) (s1 s2 a1 a2 a3 a4 a5 a6 l1 l2 l3 l4 f k : Byte) (s : State), Handed 0x50 r s → ReplyRoom r s →
    r.params = [s1, s2, a1, a2, a3, a4, a5, a6, l1, l2, l3, l4, f, k] →
    let source := s1.toNat * 256 + s2.toNat
    let start := beNat [a1, a2, a3, a4, a5, a6]
    let limit := beNat [l1, l2, l3, l4]
    let valid := k.toNat ≤ 16 ∧ f.toNat ≤ 1 ∧ (f = 0 ∨ source = 0)
    let slot (first : Nat) : Session := { Session.initial with
      station := r.src, port := r.port, source := source, follow := decide (f = 1), limit := limit, credit := k.toNat,
      idleTimer := decide (k = 0), replySeen := true, point := first, nextSeq := first }
    let counted : Directory := { s.dir with
      entries := s.dir.entries.map (fun x => if x.num = source then { x with sessions := x.sessions + 1 } else x) }
    let refused (st : Status) : Prop := exec .openRetrieval s = .next (replied r st [] s)
    (¬ valid → refused .badValue)
    ∧ (valid → s.ret.s1.state ≠ .free → s.ret.s2.state ≠ .free → refused .noRoom)
    ∧ ∀ i number, valid →
      (i = .one ∧ number = 1 ∧ s.ret.s1.state = .free)
        ∨ (i = .two ∧ number = 2 ∧ s.ret.s1.state ≠ .free ∧ s.ret.s2.state = .free) →
      let opened (first : Nat) (t : State) : Prop :=
        exec .openRetrieval s = .next (replied r .ok ([number] ++ be6 first) t)
      let reads (x : Session) (t : State) : Prop := ∀ y b p, FetchReads s x y b p → s.arr.running = none →
        ArrayAlone s.arr → s.seqr.part = .ready → opened x.nextSeq (readOut i y b p t)
      (source ≠ 0 →
        ((∀ e ∈ s.dir.entries, e.num ≠ source) → refused .notFound)
        ∧ ∀ e, findEntry s.dir source = some e →
          (e.state = .capturing ∨ e.state = .closing → refused .busy)
          ∧ (e.state ≠ .capturing → e.state ≠ .closing →
            (start ≠ 0 → start < e.first ∨ e.last.getD 0 < start → refused .notFound)
            ∧ (∀ first, (start = 0 ∧ first = e.first)
                ∨ (start ≠ 0 ∧ first = start ∧ e.first ≤ start ∧ start ≤ e.last.getD 0) →
              reads { slot first with endPoint := some (e.last.getD 0), block := e.blocks.head? }
                { s with dir := counted })))
      ∧ (source = 0 →
        let newest := s.log.lastCommitted
        let follows (first : Nat) : Prop := opened first (s.setSession i { slot first with state := .following })
        (start = 0 → listedBlocks s.log = [] → (f = 0 → refused .notFound) ∧ (f = 1 → follows (newest + 1)))
        ∧ (∀ b rest first, start = 0 → listedBlocks s.log = b :: rest → (blockEntry s.log b).firstSeq = some first →
          reads (slot first) s)
        ∧ (start ≠ 0 →
          (∀ b bound, locate s.log start = .block b bound → reads (slot start) s)
          ∧ (locate s.log start = .notAvailable → refused .notFound)
          ∧ (locate s.log start = .beyond →
            (f = 1 → start = newest + 1 → follows start)
            ∧ (f = 0 ∨ start ≠ newest + 1 → refused .notFound))))

/-- GRANT_CREDIT and CLOSE_RETRIEVAL refuse what is not the requester's open session. A grant raises the credit to at
most 64 and stops the idle timer, and a STALLED session with more than a frame's records sends one frame for a credit
of 1, behind the answer. CLOSE_RETRIEVAL and IDLE_TIMER_EXPIRY end the session, whose end frame carries the reason;
with no read outstanding its slot is FREE (R134, R135, R137, R139; that the answer stands ahead of the session's
frames, log 38; records delivered at their maximum, log 26). A timer that does not run changes nothing (logs 3 and
39). -/
def Obligations.SessionsAreGrantedClosedAndTimedOut : Prop :=
  ∀ (i : SessionId) (s : State),
    let y := s.session i
    let isOpen := y.state ≠ .free ∧ y.state ≠ .ending
    let number : Byte := match i with
      | .one => 1
      | .two => 2
    let counted := s.dir.entries.map
      (fun e => if y.source ≠ 0 ∧ e.num = y.source then { e with sessions := e.sessions - 1 } else e)
    let freed (t : State) : State := (t.setDir { s.dir with entries := counted }).setSession i Session.initial
    (∀ (r : Request) (id n : Byte), Handed 0x51 r s → ReplyRoom r s → r.params = [id, n] →
      ((id ≠ 1 ∧ id ≠ 2) ∨ n = 0 ∨ 64 < n.toNat → exec .grantCredit s = .next (replied r .badValue [] s))
      ∧ (id = number → 1 ≤ n.toNat → n.toNat ≤ 64 →
        let credit := min 64 (y.credit + n.toNat)
        (¬ isOpen ∨ y.station ≠ r.src → exec .grantCredit s = .next (replied r .notFound [] s))
        ∧ (y.state = .fetching ∨ y.state = .following → y.station = r.src → exec .grantCredit s
          = .next (replied r .ok [BitVec.ofNat 8 credit] (s.setSession i { y with
            credit := credit, idleTimer := false })))
        ∧ (∀ recs x more last, y.state = .stalled → y.station = r.src → y.credit = 0 → n = 1 → y.replySeen = true →
          y.port = r.port → (s.port r.port).localQ = [] → (s.port r.port).waiting = [] →
          y.buffer = recs ++ x :: more → recs.getLast? = some last → recordsSize recs ≤ 235 →
          235 < recordsSize recs + recordSize x →
          exec .grantCredit s = .next ((enqueued r.port (.session i)
            (dataFrame s.seqr.own y.station i (skipFlag y recs) recs) (replied r .ok [1] s)).setSession i { y with
              state := .stalled, idleTimer := true, credit := 0, delivered := min counterMax (y.delivered + recs.length),
              point := last.seq + 1, buffer := x :: more, offered := .none }))))
    ∧ (∀ (r : Request) (id : Byte), Handed 0x52 r s → ReplyRoom r s → r.params = [id] →
      (id ≠ 1 → id ≠ 2 → exec .closeRetrieval s = .next (replied r .badValue [] s))
      ∧ (id = number → ¬ isOpen ∨ y.station ≠ r.src → exec .closeRetrieval s = .next (replied r .notFound [] s))
      ∧ (id = number → isOpen → y.station = r.src → SessionClear i s → y.port = r.port →
        (s.port r.port).localQ = [] → exec .closeRetrieval s = .next (freed (enqueued r.port (.session i)
          (endFrame s.seqr.own i y .closed) (replied r .ok (be 4 y.delivered) s)))))
    ∧ (y.idleTimer = false → exec (.idleTimerExpiry i) s = .next s)
    ∧ (y.idleTimer = true → isOpen → SessionClear i s → LocalRoom y.port s → exec (.idleTimerExpiry i) s
      = .next (freed (enqueued y.port (.session i) (endFrame s.seqr.own i y .timeout) s)))

/-! ### Layouts (12) -/

/-- Every frame that the part originates, with its check appended, is a GOOD frame at a receiver, which reads in it the
addresses, the class and the payload that it was built from (12.2, R143, R150, R193). -/
def Obligations.OwnFramesAreReceivedGood : Prop :=
  ∀ (own dest : Byte) (cls : Nat) (payload : Bytes), cls ≤ 255 → payload.length ≤ 240 →
    let frame := withCheck (ownFrame own dest cls payload)
    receiveOutcome frame = .good ∧ frame.length = 7 + payload.length ∧ byteAt frame 0 = dest ∧ byteAt frame 1 = own
      ∧ (byteAt frame 2).toNat = cls ∧ (byteAt frame 4).toNat = payload.length ∧ payloadOf frame = payload

/-- Reading back the layout of a rule entry in use gives the entry, with hit count 0: no field of a definition is lost
in READ_RULE or misplaced in WRITE_RULE. The layout of an UNUSED entry, which READ_RULE gives and WRITE_RULE does not
take, is that of the ENABLED entry with the same fields but for the state (1.6, 12.6). -/
def Obligations.RuleLayoutsRoundTrip : Prop :=
  ∀ (i : Nat) (r : Rule), i ≤ 47 → ruleValid r = true →
    (ruleBytes i r).length = 26 ∧ fieldAt 0 1 (ruleBytes i r) = i
      ∧ fieldAt 1 1 (ruleBytes i r) = (match r.state with
        | .unused => 0
        | .enabled => 1
        | .disabled => 2)
      ∧ (r.state ≠ .unused → readRuleEntry (ruleBytes i r) = some { r with hits := 0 })
      ∧ (r.state = .unused → readRuleEntry (ruleBytes i r) = none
        ∧ readRuleEntry ((ruleBytes i r).set 1 1) = some { r with state := .enabled, hits := 0 })

end Statements
end

