-- ==== Sys2Proof/Laws/State.lean ====
section
/-! SUPPORT. One lemma per field per named update of State, each true by rfl. -/

namespace Sys2Proof.Machine

@[simp] theorem State.setPending_pending (s : State) (x : List Instr) : (s.setPending x).pending = x := rfl
@[simp] theorem State.setPending_seqr (s : State) (x : List Instr) : (s.setPending x).seqr = s.seqr := rfl
@[simp] theorem State.setPending_portA (s : State) (x : List Instr) : (s.setPending x).portA = s.portA := rfl
@[simp] theorem State.setPending_portB (s : State) (x : List Instr) : (s.setPending x).portB = s.portB := rfl
@[simp] theorem State.setPending_raised (s : State) (x : List Instr) : (s.setPending x).raised = s.raised := rfl
@[simp] theorem State.setPending_cls (s : State) (x : List Instr) : (s.setPending x).cls = s.cls := rfl
@[simp] theorem State.setPending_packer (s : State) (x : List Instr) : (s.setPending x).packer = s.packer := rfl
@[simp] theorem State.setPending_store (s : State) (x : List Instr) : (s.setPending x).store = s.store := rfl
@[simp] theorem State.setPending_arr (s : State) (x : List Instr) : (s.setPending x).arr = s.arr := rfl
@[simp] theorem State.setPending_log (s : State) (x : List Instr) : (s.setPending x).log = s.log := rfl
@[simp] theorem State.setPending_ctl (s : State) (x : List Instr) : (s.setPending x).ctl = s.ctl := rfl
@[simp] theorem State.setPending_dir (s : State) (x : List Instr) : (s.setPending x).dir = s.dir := rfl
@[simp] theorem State.setPending_jrnl (s : State) (x : List Instr) : (s.setPending x).jrnl = s.jrnl := rfl
@[simp] theorem State.setPending_ret (s : State) (x : List Instr) : (s.setPending x).ret = s.ret := rfl
@[simp] theorem State.setPending_mgmt (s : State) (x : List Instr) : (s.setPending x).mgmt = s.mgmt := rfl
@[simp] theorem State.setPending_notice (s : State) (x : List Instr) : (s.setPending x).notice = s.notice := rfl
@[simp] theorem State.setPending_serial (s : State) (x : List Instr) : (s.setPending x).serial = s.serial := rfl
@[simp] theorem State.setPending_free (s : State) (x : List Instr) : (s.setPending x).free = s.free := rfl

@[simp] theorem State.setSeqr_pending (s : State) (x : Sequencer) : (s.setSeqr x).pending = s.pending := rfl
@[simp] theorem State.setSeqr_seqr (s : State) (x : Sequencer) : (s.setSeqr x).seqr = x := rfl
@[simp] theorem State.setSeqr_portA (s : State) (x : Sequencer) : (s.setSeqr x).portA = s.portA := rfl
@[simp] theorem State.setSeqr_portB (s : State) (x : Sequencer) : (s.setSeqr x).portB = s.portB := rfl
@[simp] theorem State.setSeqr_raised (s : State) (x : Sequencer) : (s.setSeqr x).raised = s.raised := rfl
@[simp] theorem State.setSeqr_cls (s : State) (x : Sequencer) : (s.setSeqr x).cls = s.cls := rfl
@[simp] theorem State.setSeqr_packer (s : State) (x : Sequencer) : (s.setSeqr x).packer = s.packer := rfl
@[simp] theorem State.setSeqr_store (s : State) (x : Sequencer) : (s.setSeqr x).store = s.store := rfl
@[simp] theorem State.setSeqr_arr (s : State) (x : Sequencer) : (s.setSeqr x).arr = s.arr := rfl
@[simp] theorem State.setSeqr_log (s : State) (x : Sequencer) : (s.setSeqr x).log = s.log := rfl
@[simp] theorem State.setSeqr_ctl (s : State) (x : Sequencer) : (s.setSeqr x).ctl = s.ctl := rfl
@[simp] theorem State.setSeqr_dir (s : State) (x : Sequencer) : (s.setSeqr x).dir = s.dir := rfl
@[simp] theorem State.setSeqr_jrnl (s : State) (x : Sequencer) : (s.setSeqr x).jrnl = s.jrnl := rfl
@[simp] theorem State.setSeqr_ret (s : State) (x : Sequencer) : (s.setSeqr x).ret = s.ret := rfl
@[simp] theorem State.setSeqr_mgmt (s : State) (x : Sequencer) : (s.setSeqr x).mgmt = s.mgmt := rfl
@[simp] theorem State.setSeqr_notice (s : State) (x : Sequencer) : (s.setSeqr x).notice = s.notice := rfl
@[simp] theorem State.setSeqr_serial (s : State) (x : Sequencer) : (s.setSeqr x).serial = s.serial := rfl
@[simp] theorem State.setSeqr_free (s : State) (x : Sequencer) : (s.setSeqr x).free = s.free := rfl

@[simp] theorem State.setPortA_pending (s : State) (x : PortState) : (s.setPortA x).pending = s.pending := rfl
@[simp] theorem State.setPortA_seqr (s : State) (x : PortState) : (s.setPortA x).seqr = s.seqr := rfl
@[simp] theorem State.setPortA_portA (s : State) (x : PortState) : (s.setPortA x).portA = x := rfl
@[simp] theorem State.setPortA_portB (s : State) (x : PortState) : (s.setPortA x).portB = s.portB := rfl
@[simp] theorem State.setPortA_raised (s : State) (x : PortState) : (s.setPortA x).raised = s.raised := rfl
@[simp] theorem State.setPortA_cls (s : State) (x : PortState) : (s.setPortA x).cls = s.cls := rfl
@[simp] theorem State.setPortA_packer (s : State) (x : PortState) : (s.setPortA x).packer = s.packer := rfl
@[simp] theorem State.setPortA_store (s : State) (x : PortState) : (s.setPortA x).store = s.store := rfl
@[simp] theorem State.setPortA_arr (s : State) (x : PortState) : (s.setPortA x).arr = s.arr := rfl
@[simp] theorem State.setPortA_log (s : State) (x : PortState) : (s.setPortA x).log = s.log := rfl
@[simp] theorem State.setPortA_ctl (s : State) (x : PortState) : (s.setPortA x).ctl = s.ctl := rfl
@[simp] theorem State.setPortA_dir (s : State) (x : PortState) : (s.setPortA x).dir = s.dir := rfl
@[simp] theorem State.setPortA_jrnl (s : State) (x : PortState) : (s.setPortA x).jrnl = s.jrnl := rfl
@[simp] theorem State.setPortA_ret (s : State) (x : PortState) : (s.setPortA x).ret = s.ret := rfl
@[simp] theorem State.setPortA_mgmt (s : State) (x : PortState) : (s.setPortA x).mgmt = s.mgmt := rfl
@[simp] theorem State.setPortA_notice (s : State) (x : PortState) : (s.setPortA x).notice = s.notice := rfl
@[simp] theorem State.setPortA_serial (s : State) (x : PortState) : (s.setPortA x).serial = s.serial := rfl
@[simp] theorem State.setPortA_free (s : State) (x : PortState) : (s.setPortA x).free = s.free := rfl

@[simp] theorem State.setPortB_pending (s : State) (x : PortState) : (s.setPortB x).pending = s.pending := rfl
@[simp] theorem State.setPortB_seqr (s : State) (x : PortState) : (s.setPortB x).seqr = s.seqr := rfl
@[simp] theorem State.setPortB_portA (s : State) (x : PortState) : (s.setPortB x).portA = s.portA := rfl
@[simp] theorem State.setPortB_portB (s : State) (x : PortState) : (s.setPortB x).portB = x := rfl
@[simp] theorem State.setPortB_raised (s : State) (x : PortState) : (s.setPortB x).raised = s.raised := rfl
@[simp] theorem State.setPortB_cls (s : State) (x : PortState) : (s.setPortB x).cls = s.cls := rfl
@[simp] theorem State.setPortB_packer (s : State) (x : PortState) : (s.setPortB x).packer = s.packer := rfl
@[simp] theorem State.setPortB_store (s : State) (x : PortState) : (s.setPortB x).store = s.store := rfl
@[simp] theorem State.setPortB_arr (s : State) (x : PortState) : (s.setPortB x).arr = s.arr := rfl
@[simp] theorem State.setPortB_log (s : State) (x : PortState) : (s.setPortB x).log = s.log := rfl
@[simp] theorem State.setPortB_ctl (s : State) (x : PortState) : (s.setPortB x).ctl = s.ctl := rfl
@[simp] theorem State.setPortB_dir (s : State) (x : PortState) : (s.setPortB x).dir = s.dir := rfl
@[simp] theorem State.setPortB_jrnl (s : State) (x : PortState) : (s.setPortB x).jrnl = s.jrnl := rfl
@[simp] theorem State.setPortB_ret (s : State) (x : PortState) : (s.setPortB x).ret = s.ret := rfl
@[simp] theorem State.setPortB_mgmt (s : State) (x : PortState) : (s.setPortB x).mgmt = s.mgmt := rfl
@[simp] theorem State.setPortB_notice (s : State) (x : PortState) : (s.setPortB x).notice = s.notice := rfl
@[simp] theorem State.setPortB_serial (s : State) (x : PortState) : (s.setPortB x).serial = s.serial := rfl
@[simp] theorem State.setPortB_free (s : State) (x : PortState) : (s.setPortB x).free = s.free := rfl

@[simp] theorem State.setRaised_pending (s : State) (x : Raised) : (s.setRaised x).pending = s.pending := rfl
@[simp] theorem State.setRaised_seqr (s : State) (x : Raised) : (s.setRaised x).seqr = s.seqr := rfl
@[simp] theorem State.setRaised_portA (s : State) (x : Raised) : (s.setRaised x).portA = s.portA := rfl
@[simp] theorem State.setRaised_portB (s : State) (x : Raised) : (s.setRaised x).portB = s.portB := rfl
@[simp] theorem State.setRaised_raised (s : State) (x : Raised) : (s.setRaised x).raised = x := rfl
@[simp] theorem State.setRaised_cls (s : State) (x : Raised) : (s.setRaised x).cls = s.cls := rfl
@[simp] theorem State.setRaised_packer (s : State) (x : Raised) : (s.setRaised x).packer = s.packer := rfl
@[simp] theorem State.setRaised_store (s : State) (x : Raised) : (s.setRaised x).store = s.store := rfl
@[simp] theorem State.setRaised_arr (s : State) (x : Raised) : (s.setRaised x).arr = s.arr := rfl
@[simp] theorem State.setRaised_log (s : State) (x : Raised) : (s.setRaised x).log = s.log := rfl
@[simp] theorem State.setRaised_ctl (s : State) (x : Raised) : (s.setRaised x).ctl = s.ctl := rfl
@[simp] theorem State.setRaised_dir (s : State) (x : Raised) : (s.setRaised x).dir = s.dir := rfl
@[simp] theorem State.setRaised_jrnl (s : State) (x : Raised) : (s.setRaised x).jrnl = s.jrnl := rfl
@[simp] theorem State.setRaised_ret (s : State) (x : Raised) : (s.setRaised x).ret = s.ret := rfl
@[simp] theorem State.setRaised_mgmt (s : State) (x : Raised) : (s.setRaised x).mgmt = s.mgmt := rfl
@[simp] theorem State.setRaised_notice (s : State) (x : Raised) : (s.setRaised x).notice = s.notice := rfl
@[simp] theorem State.setRaised_serial (s : State) (x : Raised) : (s.setRaised x).serial = s.serial := rfl
@[simp] theorem State.setRaised_free (s : State) (x : Raised) : (s.setRaised x).free = s.free := rfl

@[simp] theorem State.setCls_pending (s : State) (x : Classifier) : (s.setCls x).pending = s.pending := rfl
@[simp] theorem State.setCls_seqr (s : State) (x : Classifier) : (s.setCls x).seqr = s.seqr := rfl
@[simp] theorem State.setCls_portA (s : State) (x : Classifier) : (s.setCls x).portA = s.portA := rfl
@[simp] theorem State.setCls_portB (s : State) (x : Classifier) : (s.setCls x).portB = s.portB := rfl
@[simp] theorem State.setCls_raised (s : State) (x : Classifier) : (s.setCls x).raised = s.raised := rfl
@[simp] theorem State.setCls_cls (s : State) (x : Classifier) : (s.setCls x).cls = x := rfl
@[simp] theorem State.setCls_packer (s : State) (x : Classifier) : (s.setCls x).packer = s.packer := rfl
@[simp] theorem State.setCls_store (s : State) (x : Classifier) : (s.setCls x).store = s.store := rfl
@[simp] theorem State.setCls_arr (s : State) (x : Classifier) : (s.setCls x).arr = s.arr := rfl
@[simp] theorem State.setCls_log (s : State) (x : Classifier) : (s.setCls x).log = s.log := rfl
@[simp] theorem State.setCls_ctl (s : State) (x : Classifier) : (s.setCls x).ctl = s.ctl := rfl
@[simp] theorem State.setCls_dir (s : State) (x : Classifier) : (s.setCls x).dir = s.dir := rfl
@[simp] theorem State.setCls_jrnl (s : State) (x : Classifier) : (s.setCls x).jrnl = s.jrnl := rfl
@[simp] theorem State.setCls_ret (s : State) (x : Classifier) : (s.setCls x).ret = s.ret := rfl
@[simp] theorem State.setCls_mgmt (s : State) (x : Classifier) : (s.setCls x).mgmt = s.mgmt := rfl
@[simp] theorem State.setCls_notice (s : State) (x : Classifier) : (s.setCls x).notice = s.notice := rfl
@[simp] theorem State.setCls_serial (s : State) (x : Classifier) : (s.setCls x).serial = s.serial := rfl
@[simp] theorem State.setCls_free (s : State) (x : Classifier) : (s.setCls x).free = s.free := rfl

@[simp] theorem State.setPacker_pending (s : State) (x : Packer) : (s.setPacker x).pending = s.pending := rfl
@[simp] theorem State.setPacker_seqr (s : State) (x : Packer) : (s.setPacker x).seqr = s.seqr := rfl
@[simp] theorem State.setPacker_portA (s : State) (x : Packer) : (s.setPacker x).portA = s.portA := rfl
@[simp] theorem State.setPacker_portB (s : State) (x : Packer) : (s.setPacker x).portB = s.portB := rfl
@[simp] theorem State.setPacker_raised (s : State) (x : Packer) : (s.setPacker x).raised = s.raised := rfl
@[simp] theorem State.setPacker_cls (s : State) (x : Packer) : (s.setPacker x).cls = s.cls := rfl
@[simp] theorem State.setPacker_packer (s : State) (x : Packer) : (s.setPacker x).packer = x := rfl
@[simp] theorem State.setPacker_store (s : State) (x : Packer) : (s.setPacker x).store = s.store := rfl
@[simp] theorem State.setPacker_arr (s : State) (x : Packer) : (s.setPacker x).arr = s.arr := rfl
@[simp] theorem State.setPacker_log (s : State) (x : Packer) : (s.setPacker x).log = s.log := rfl
@[simp] theorem State.setPacker_ctl (s : State) (x : Packer) : (s.setPacker x).ctl = s.ctl := rfl
@[simp] theorem State.setPacker_dir (s : State) (x : Packer) : (s.setPacker x).dir = s.dir := rfl
@[simp] theorem State.setPacker_jrnl (s : State) (x : Packer) : (s.setPacker x).jrnl = s.jrnl := rfl
@[simp] theorem State.setPacker_ret (s : State) (x : Packer) : (s.setPacker x).ret = s.ret := rfl
@[simp] theorem State.setPacker_mgmt (s : State) (x : Packer) : (s.setPacker x).mgmt = s.mgmt := rfl
@[simp] theorem State.setPacker_notice (s : State) (x : Packer) : (s.setPacker x).notice = s.notice := rfl
@[simp] theorem State.setPacker_serial (s : State) (x : Packer) : (s.setPacker x).serial = s.serial := rfl
@[simp] theorem State.setPacker_free (s : State) (x : Packer) : (s.setPacker x).free = s.free := rfl

@[simp] theorem State.setStore_pending (s : State) (x : List (Nat × Page)) : (s.setStore x).pending = s.pending := rfl
@[simp] theorem State.setStore_seqr (s : State) (x : List (Nat × Page)) : (s.setStore x).seqr = s.seqr := rfl
@[simp] theorem State.setStore_portA (s : State) (x : List (Nat × Page)) : (s.setStore x).portA = s.portA := rfl
@[simp] theorem State.setStore_portB (s : State) (x : List (Nat × Page)) : (s.setStore x).portB = s.portB := rfl
@[simp] theorem State.setStore_raised (s : State) (x : List (Nat × Page)) : (s.setStore x).raised = s.raised := rfl
@[simp] theorem State.setStore_cls (s : State) (x : List (Nat × Page)) : (s.setStore x).cls = s.cls := rfl
@[simp] theorem State.setStore_packer (s : State) (x : List (Nat × Page)) : (s.setStore x).packer = s.packer := rfl
@[simp] theorem State.setStore_store (s : State) (x : List (Nat × Page)) : (s.setStore x).store = x := rfl
@[simp] theorem State.setStore_arr (s : State) (x : List (Nat × Page)) : (s.setStore x).arr = s.arr := rfl
@[simp] theorem State.setStore_log (s : State) (x : List (Nat × Page)) : (s.setStore x).log = s.log := rfl
@[simp] theorem State.setStore_ctl (s : State) (x : List (Nat × Page)) : (s.setStore x).ctl = s.ctl := rfl
@[simp] theorem State.setStore_dir (s : State) (x : List (Nat × Page)) : (s.setStore x).dir = s.dir := rfl
@[simp] theorem State.setStore_jrnl (s : State) (x : List (Nat × Page)) : (s.setStore x).jrnl = s.jrnl := rfl
@[simp] theorem State.setStore_ret (s : State) (x : List (Nat × Page)) : (s.setStore x).ret = s.ret := rfl
@[simp] theorem State.setStore_mgmt (s : State) (x : List (Nat × Page)) : (s.setStore x).mgmt = s.mgmt := rfl
@[simp] theorem State.setStore_notice (s : State) (x : List (Nat × Page)) : (s.setStore x).notice = s.notice := rfl
@[simp] theorem State.setStore_serial (s : State) (x : List (Nat × Page)) : (s.setStore x).serial = s.serial := rfl
@[simp] theorem State.setStore_free (s : State) (x : List (Nat × Page)) : (s.setStore x).free = s.free := rfl

@[simp] theorem State.setArr_pending (s : State) (x : ArrayCtl) : (s.setArr x).pending = s.pending := rfl
@[simp] theorem State.setArr_seqr (s : State) (x : ArrayCtl) : (s.setArr x).seqr = s.seqr := rfl
@[simp] theorem State.setArr_portA (s : State) (x : ArrayCtl) : (s.setArr x).portA = s.portA := rfl
@[simp] theorem State.setArr_portB (s : State) (x : ArrayCtl) : (s.setArr x).portB = s.portB := rfl
@[simp] theorem State.setArr_raised (s : State) (x : ArrayCtl) : (s.setArr x).raised = s.raised := rfl
@[simp] theorem State.setArr_cls (s : State) (x : ArrayCtl) : (s.setArr x).cls = s.cls := rfl
@[simp] theorem State.setArr_packer (s : State) (x : ArrayCtl) : (s.setArr x).packer = s.packer := rfl
@[simp] theorem State.setArr_store (s : State) (x : ArrayCtl) : (s.setArr x).store = s.store := rfl
@[simp] theorem State.setArr_arr (s : State) (x : ArrayCtl) : (s.setArr x).arr = x := rfl
@[simp] theorem State.setArr_log (s : State) (x : ArrayCtl) : (s.setArr x).log = s.log := rfl
@[simp] theorem State.setArr_ctl (s : State) (x : ArrayCtl) : (s.setArr x).ctl = s.ctl := rfl
@[simp] theorem State.setArr_dir (s : State) (x : ArrayCtl) : (s.setArr x).dir = s.dir := rfl
@[simp] theorem State.setArr_jrnl (s : State) (x : ArrayCtl) : (s.setArr x).jrnl = s.jrnl := rfl
@[simp] theorem State.setArr_ret (s : State) (x : ArrayCtl) : (s.setArr x).ret = s.ret := rfl
@[simp] theorem State.setArr_mgmt (s : State) (x : ArrayCtl) : (s.setArr x).mgmt = s.mgmt := rfl
@[simp] theorem State.setArr_notice (s : State) (x : ArrayCtl) : (s.setArr x).notice = s.notice := rfl
@[simp] theorem State.setArr_serial (s : State) (x : ArrayCtl) : (s.setArr x).serial = s.serial := rfl
@[simp] theorem State.setArr_free (s : State) (x : ArrayCtl) : (s.setArr x).free = s.free := rfl

@[simp] theorem State.setLog_pending (s : State) (x : LogManager) : (s.setLog x).pending = s.pending := rfl
@[simp] theorem State.setLog_seqr (s : State) (x : LogManager) : (s.setLog x).seqr = s.seqr := rfl
@[simp] theorem State.setLog_portA (s : State) (x : LogManager) : (s.setLog x).portA = s.portA := rfl
@[simp] theorem State.setLog_portB (s : State) (x : LogManager) : (s.setLog x).portB = s.portB := rfl
@[simp] theorem State.setLog_raised (s : State) (x : LogManager) : (s.setLog x).raised = s.raised := rfl
@[simp] theorem State.setLog_cls (s : State) (x : LogManager) : (s.setLog x).cls = s.cls := rfl
@[simp] theorem State.setLog_packer (s : State) (x : LogManager) : (s.setLog x).packer = s.packer := rfl
@[simp] theorem State.setLog_store (s : State) (x : LogManager) : (s.setLog x).store = s.store := rfl
@[simp] theorem State.setLog_arr (s : State) (x : LogManager) : (s.setLog x).arr = s.arr := rfl
@[simp] theorem State.setLog_log (s : State) (x : LogManager) : (s.setLog x).log = x := rfl
@[simp] theorem State.setLog_ctl (s : State) (x : LogManager) : (s.setLog x).ctl = s.ctl := rfl
@[simp] theorem State.setLog_dir (s : State) (x : LogManager) : (s.setLog x).dir = s.dir := rfl
@[simp] theorem State.setLog_jrnl (s : State) (x : LogManager) : (s.setLog x).jrnl = s.jrnl := rfl
@[simp] theorem State.setLog_ret (s : State) (x : LogManager) : (s.setLog x).ret = s.ret := rfl
@[simp] theorem State.setLog_mgmt (s : State) (x : LogManager) : (s.setLog x).mgmt = s.mgmt := rfl
@[simp] theorem State.setLog_notice (s : State) (x : LogManager) : (s.setLog x).notice = s.notice := rfl
@[simp] theorem State.setLog_serial (s : State) (x : LogManager) : (s.setLog x).serial = s.serial := rfl
@[simp] theorem State.setLog_free (s : State) (x : LogManager) : (s.setLog x).free = s.free := rfl

@[simp] theorem State.setCtl_pending (s : State) (x : CaptureCtl) : (s.setCtl x).pending = s.pending := rfl
@[simp] theorem State.setCtl_seqr (s : State) (x : CaptureCtl) : (s.setCtl x).seqr = s.seqr := rfl
@[simp] theorem State.setCtl_portA (s : State) (x : CaptureCtl) : (s.setCtl x).portA = s.portA := rfl
@[simp] theorem State.setCtl_portB (s : State) (x : CaptureCtl) : (s.setCtl x).portB = s.portB := rfl
@[simp] theorem State.setCtl_raised (s : State) (x : CaptureCtl) : (s.setCtl x).raised = s.raised := rfl
@[simp] theorem State.setCtl_cls (s : State) (x : CaptureCtl) : (s.setCtl x).cls = s.cls := rfl
@[simp] theorem State.setCtl_packer (s : State) (x : CaptureCtl) : (s.setCtl x).packer = s.packer := rfl
@[simp] theorem State.setCtl_store (s : State) (x : CaptureCtl) : (s.setCtl x).store = s.store := rfl
@[simp] theorem State.setCtl_arr (s : State) (x : CaptureCtl) : (s.setCtl x).arr = s.arr := rfl
@[simp] theorem State.setCtl_log (s : State) (x : CaptureCtl) : (s.setCtl x).log = s.log := rfl
@[simp] theorem State.setCtl_ctl (s : State) (x : CaptureCtl) : (s.setCtl x).ctl = x := rfl
@[simp] theorem State.setCtl_dir (s : State) (x : CaptureCtl) : (s.setCtl x).dir = s.dir := rfl
@[simp] theorem State.setCtl_jrnl (s : State) (x : CaptureCtl) : (s.setCtl x).jrnl = s.jrnl := rfl
@[simp] theorem State.setCtl_ret (s : State) (x : CaptureCtl) : (s.setCtl x).ret = s.ret := rfl
@[simp] theorem State.setCtl_mgmt (s : State) (x : CaptureCtl) : (s.setCtl x).mgmt = s.mgmt := rfl
@[simp] theorem State.setCtl_notice (s : State) (x : CaptureCtl) : (s.setCtl x).notice = s.notice := rfl
@[simp] theorem State.setCtl_serial (s : State) (x : CaptureCtl) : (s.setCtl x).serial = s.serial := rfl
@[simp] theorem State.setCtl_free (s : State) (x : CaptureCtl) : (s.setCtl x).free = s.free := rfl

@[simp] theorem State.setDir_pending (s : State) (x : Directory) : (s.setDir x).pending = s.pending := rfl
@[simp] theorem State.setDir_seqr (s : State) (x : Directory) : (s.setDir x).seqr = s.seqr := rfl
@[simp] theorem State.setDir_portA (s : State) (x : Directory) : (s.setDir x).portA = s.portA := rfl
@[simp] theorem State.setDir_portB (s : State) (x : Directory) : (s.setDir x).portB = s.portB := rfl
@[simp] theorem State.setDir_raised (s : State) (x : Directory) : (s.setDir x).raised = s.raised := rfl
@[simp] theorem State.setDir_cls (s : State) (x : Directory) : (s.setDir x).cls = s.cls := rfl
@[simp] theorem State.setDir_packer (s : State) (x : Directory) : (s.setDir x).packer = s.packer := rfl
@[simp] theorem State.setDir_store (s : State) (x : Directory) : (s.setDir x).store = s.store := rfl
@[simp] theorem State.setDir_arr (s : State) (x : Directory) : (s.setDir x).arr = s.arr := rfl
@[simp] theorem State.setDir_log (s : State) (x : Directory) : (s.setDir x).log = s.log := rfl
@[simp] theorem State.setDir_ctl (s : State) (x : Directory) : (s.setDir x).ctl = s.ctl := rfl
@[simp] theorem State.setDir_dir (s : State) (x : Directory) : (s.setDir x).dir = x := rfl
@[simp] theorem State.setDir_jrnl (s : State) (x : Directory) : (s.setDir x).jrnl = s.jrnl := rfl
@[simp] theorem State.setDir_ret (s : State) (x : Directory) : (s.setDir x).ret = s.ret := rfl
@[simp] theorem State.setDir_mgmt (s : State) (x : Directory) : (s.setDir x).mgmt = s.mgmt := rfl
@[simp] theorem State.setDir_notice (s : State) (x : Directory) : (s.setDir x).notice = s.notice := rfl
@[simp] theorem State.setDir_serial (s : State) (x : Directory) : (s.setDir x).serial = s.serial := rfl
@[simp] theorem State.setDir_free (s : State) (x : Directory) : (s.setDir x).free = s.free := rfl

@[simp] theorem State.setJrnl_pending (s : State) (x : JournalWriter) : (s.setJrnl x).pending = s.pending := rfl
@[simp] theorem State.setJrnl_seqr (s : State) (x : JournalWriter) : (s.setJrnl x).seqr = s.seqr := rfl
@[simp] theorem State.setJrnl_portA (s : State) (x : JournalWriter) : (s.setJrnl x).portA = s.portA := rfl
@[simp] theorem State.setJrnl_portB (s : State) (x : JournalWriter) : (s.setJrnl x).portB = s.portB := rfl
@[simp] theorem State.setJrnl_raised (s : State) (x : JournalWriter) : (s.setJrnl x).raised = s.raised := rfl
@[simp] theorem State.setJrnl_cls (s : State) (x : JournalWriter) : (s.setJrnl x).cls = s.cls := rfl
@[simp] theorem State.setJrnl_packer (s : State) (x : JournalWriter) : (s.setJrnl x).packer = s.packer := rfl
@[simp] theorem State.setJrnl_store (s : State) (x : JournalWriter) : (s.setJrnl x).store = s.store := rfl
@[simp] theorem State.setJrnl_arr (s : State) (x : JournalWriter) : (s.setJrnl x).arr = s.arr := rfl
@[simp] theorem State.setJrnl_log (s : State) (x : JournalWriter) : (s.setJrnl x).log = s.log := rfl
@[simp] theorem State.setJrnl_ctl (s : State) (x : JournalWriter) : (s.setJrnl x).ctl = s.ctl := rfl
@[simp] theorem State.setJrnl_dir (s : State) (x : JournalWriter) : (s.setJrnl x).dir = s.dir := rfl
@[simp] theorem State.setJrnl_jrnl (s : State) (x : JournalWriter) : (s.setJrnl x).jrnl = x := rfl
@[simp] theorem State.setJrnl_ret (s : State) (x : JournalWriter) : (s.setJrnl x).ret = s.ret := rfl
@[simp] theorem State.setJrnl_mgmt (s : State) (x : JournalWriter) : (s.setJrnl x).mgmt = s.mgmt := rfl
@[simp] theorem State.setJrnl_notice (s : State) (x : JournalWriter) : (s.setJrnl x).notice = s.notice := rfl
@[simp] theorem State.setJrnl_serial (s : State) (x : JournalWriter) : (s.setJrnl x).serial = s.serial := rfl
@[simp] theorem State.setJrnl_free (s : State) (x : JournalWriter) : (s.setJrnl x).free = s.free := rfl

@[simp] theorem State.setRet_pending (s : State) (x : Retrieval) : (s.setRet x).pending = s.pending := rfl
@[simp] theorem State.setRet_seqr (s : State) (x : Retrieval) : (s.setRet x).seqr = s.seqr := rfl
@[simp] theorem State.setRet_portA (s : State) (x : Retrieval) : (s.setRet x).portA = s.portA := rfl
@[simp] theorem State.setRet_portB (s : State) (x : Retrieval) : (s.setRet x).portB = s.portB := rfl
@[simp] theorem State.setRet_raised (s : State) (x : Retrieval) : (s.setRet x).raised = s.raised := rfl
@[simp] theorem State.setRet_cls (s : State) (x : Retrieval) : (s.setRet x).cls = s.cls := rfl
@[simp] theorem State.setRet_packer (s : State) (x : Retrieval) : (s.setRet x).packer = s.packer := rfl
@[simp] theorem State.setRet_store (s : State) (x : Retrieval) : (s.setRet x).store = s.store := rfl
@[simp] theorem State.setRet_arr (s : State) (x : Retrieval) : (s.setRet x).arr = s.arr := rfl
@[simp] theorem State.setRet_log (s : State) (x : Retrieval) : (s.setRet x).log = s.log := rfl
@[simp] theorem State.setRet_ctl (s : State) (x : Retrieval) : (s.setRet x).ctl = s.ctl := rfl
@[simp] theorem State.setRet_dir (s : State) (x : Retrieval) : (s.setRet x).dir = s.dir := rfl
@[simp] theorem State.setRet_jrnl (s : State) (x : Retrieval) : (s.setRet x).jrnl = s.jrnl := rfl
@[simp] theorem State.setRet_ret (s : State) (x : Retrieval) : (s.setRet x).ret = x := rfl
@[simp] theorem State.setRet_mgmt (s : State) (x : Retrieval) : (s.setRet x).mgmt = s.mgmt := rfl
@[simp] theorem State.setRet_notice (s : State) (x : Retrieval) : (s.setRet x).notice = s.notice := rfl
@[simp] theorem State.setRet_serial (s : State) (x : Retrieval) : (s.setRet x).serial = s.serial := rfl
@[simp] theorem State.setRet_free (s : State) (x : Retrieval) : (s.setRet x).free = s.free := rfl

@[simp] theorem State.setMgmt_pending (s : State) (x : Management) : (s.setMgmt x).pending = s.pending := rfl
@[simp] theorem State.setMgmt_seqr (s : State) (x : Management) : (s.setMgmt x).seqr = s.seqr := rfl
@[simp] theorem State.setMgmt_portA (s : State) (x : Management) : (s.setMgmt x).portA = s.portA := rfl
@[simp] theorem State.setMgmt_portB (s : State) (x : Management) : (s.setMgmt x).portB = s.portB := rfl
@[simp] theorem State.setMgmt_raised (s : State) (x : Management) : (s.setMgmt x).raised = s.raised := rfl
@[simp] theorem State.setMgmt_cls (s : State) (x : Management) : (s.setMgmt x).cls = s.cls := rfl
@[simp] theorem State.setMgmt_packer (s : State) (x : Management) : (s.setMgmt x).packer = s.packer := rfl
@[simp] theorem State.setMgmt_store (s : State) (x : Management) : (s.setMgmt x).store = s.store := rfl
@[simp] theorem State.setMgmt_arr (s : State) (x : Management) : (s.setMgmt x).arr = s.arr := rfl
@[simp] theorem State.setMgmt_log (s : State) (x : Management) : (s.setMgmt x).log = s.log := rfl
@[simp] theorem State.setMgmt_ctl (s : State) (x : Management) : (s.setMgmt x).ctl = s.ctl := rfl
@[simp] theorem State.setMgmt_dir (s : State) (x : Management) : (s.setMgmt x).dir = s.dir := rfl
@[simp] theorem State.setMgmt_jrnl (s : State) (x : Management) : (s.setMgmt x).jrnl = s.jrnl := rfl
@[simp] theorem State.setMgmt_ret (s : State) (x : Management) : (s.setMgmt x).ret = s.ret := rfl
@[simp] theorem State.setMgmt_mgmt (s : State) (x : Management) : (s.setMgmt x).mgmt = x := rfl
@[simp] theorem State.setMgmt_notice (s : State) (x : Management) : (s.setMgmt x).notice = s.notice := rfl
@[simp] theorem State.setMgmt_serial (s : State) (x : Management) : (s.setMgmt x).serial = s.serial := rfl
@[simp] theorem State.setMgmt_free (s : State) (x : Management) : (s.setMgmt x).free = s.free := rfl

@[simp] theorem State.setNotice_pending (s : State) (x : NoticeUnit) : (s.setNotice x).pending = s.pending := rfl
@[simp] theorem State.setNotice_seqr (s : State) (x : NoticeUnit) : (s.setNotice x).seqr = s.seqr := rfl
@[simp] theorem State.setNotice_portA (s : State) (x : NoticeUnit) : (s.setNotice x).portA = s.portA := rfl
@[simp] theorem State.setNotice_portB (s : State) (x : NoticeUnit) : (s.setNotice x).portB = s.portB := rfl
@[simp] theorem State.setNotice_raised (s : State) (x : NoticeUnit) : (s.setNotice x).raised = s.raised := rfl
@[simp] theorem State.setNotice_cls (s : State) (x : NoticeUnit) : (s.setNotice x).cls = s.cls := rfl
@[simp] theorem State.setNotice_packer (s : State) (x : NoticeUnit) : (s.setNotice x).packer = s.packer := rfl
@[simp] theorem State.setNotice_store (s : State) (x : NoticeUnit) : (s.setNotice x).store = s.store := rfl
@[simp] theorem State.setNotice_arr (s : State) (x : NoticeUnit) : (s.setNotice x).arr = s.arr := rfl
@[simp] theorem State.setNotice_log (s : State) (x : NoticeUnit) : (s.setNotice x).log = s.log := rfl
@[simp] theorem State.setNotice_ctl (s : State) (x : NoticeUnit) : (s.setNotice x).ctl = s.ctl := rfl
@[simp] theorem State.setNotice_dir (s : State) (x : NoticeUnit) : (s.setNotice x).dir = s.dir := rfl
@[simp] theorem State.setNotice_jrnl (s : State) (x : NoticeUnit) : (s.setNotice x).jrnl = s.jrnl := rfl
@[simp] theorem State.setNotice_ret (s : State) (x : NoticeUnit) : (s.setNotice x).ret = s.ret := rfl
@[simp] theorem State.setNotice_mgmt (s : State) (x : NoticeUnit) : (s.setNotice x).mgmt = s.mgmt := rfl
@[simp] theorem State.setNotice_notice (s : State) (x : NoticeUnit) : (s.setNotice x).notice = x := rfl
@[simp] theorem State.setNotice_serial (s : State) (x : NoticeUnit) : (s.setNotice x).serial = s.serial := rfl
@[simp] theorem State.setNotice_free (s : State) (x : NoticeUnit) : (s.setNotice x).free = s.free := rfl

@[simp] theorem State.setSerial_pending (s : State) (x : Nat) : (s.setSerial x).pending = s.pending := rfl
@[simp] theorem State.setSerial_seqr (s : State) (x : Nat) : (s.setSerial x).seqr = s.seqr := rfl
@[simp] theorem State.setSerial_portA (s : State) (x : Nat) : (s.setSerial x).portA = s.portA := rfl
@[simp] theorem State.setSerial_portB (s : State) (x : Nat) : (s.setSerial x).portB = s.portB := rfl
@[simp] theorem State.setSerial_raised (s : State) (x : Nat) : (s.setSerial x).raised = s.raised := rfl
@[simp] theorem State.setSerial_cls (s : State) (x : Nat) : (s.setSerial x).cls = s.cls := rfl
@[simp] theorem State.setSerial_packer (s : State) (x : Nat) : (s.setSerial x).packer = s.packer := rfl
@[simp] theorem State.setSerial_store (s : State) (x : Nat) : (s.setSerial x).store = s.store := rfl
@[simp] theorem State.setSerial_arr (s : State) (x : Nat) : (s.setSerial x).arr = s.arr := rfl
@[simp] theorem State.setSerial_log (s : State) (x : Nat) : (s.setSerial x).log = s.log := rfl
@[simp] theorem State.setSerial_ctl (s : State) (x : Nat) : (s.setSerial x).ctl = s.ctl := rfl
@[simp] theorem State.setSerial_dir (s : State) (x : Nat) : (s.setSerial x).dir = s.dir := rfl
@[simp] theorem State.setSerial_jrnl (s : State) (x : Nat) : (s.setSerial x).jrnl = s.jrnl := rfl
@[simp] theorem State.setSerial_ret (s : State) (x : Nat) : (s.setSerial x).ret = s.ret := rfl
@[simp] theorem State.setSerial_mgmt (s : State) (x : Nat) : (s.setSerial x).mgmt = s.mgmt := rfl
@[simp] theorem State.setSerial_notice (s : State) (x : Nat) : (s.setSerial x).notice = s.notice := rfl
@[simp] theorem State.setSerial_serial (s : State) (x : Nat) : (s.setSerial x).serial = x := rfl
@[simp] theorem State.setSerial_free (s : State) (x : Nat) : (s.setSerial x).free = s.free := rfl

@[simp] theorem State.setFree_pending (s : State) (x : Nat) : (s.setFree x).pending = s.pending := rfl
@[simp] theorem State.setFree_seqr (s : State) (x : Nat) : (s.setFree x).seqr = s.seqr := rfl
@[simp] theorem State.setFree_portA (s : State) (x : Nat) : (s.setFree x).portA = s.portA := rfl
@[simp] theorem State.setFree_portB (s : State) (x : Nat) : (s.setFree x).portB = s.portB := rfl
@[simp] theorem State.setFree_raised (s : State) (x : Nat) : (s.setFree x).raised = s.raised := rfl
@[simp] theorem State.setFree_cls (s : State) (x : Nat) : (s.setFree x).cls = s.cls := rfl
@[simp] theorem State.setFree_packer (s : State) (x : Nat) : (s.setFree x).packer = s.packer := rfl
@[simp] theorem State.setFree_store (s : State) (x : Nat) : (s.setFree x).store = s.store := rfl
@[simp] theorem State.setFree_arr (s : State) (x : Nat) : (s.setFree x).arr = s.arr := rfl
@[simp] theorem State.setFree_log (s : State) (x : Nat) : (s.setFree x).log = s.log := rfl
@[simp] theorem State.setFree_ctl (s : State) (x : Nat) : (s.setFree x).ctl = s.ctl := rfl
@[simp] theorem State.setFree_dir (s : State) (x : Nat) : (s.setFree x).dir = s.dir := rfl
@[simp] theorem State.setFree_jrnl (s : State) (x : Nat) : (s.setFree x).jrnl = s.jrnl := rfl
@[simp] theorem State.setFree_ret (s : State) (x : Nat) : (s.setFree x).ret = s.ret := rfl
@[simp] theorem State.setFree_mgmt (s : State) (x : Nat) : (s.setFree x).mgmt = s.mgmt := rfl
@[simp] theorem State.setFree_notice (s : State) (x : Nat) : (s.setFree x).notice = s.notice := rfl
@[simp] theorem State.setFree_serial (s : State) (x : Nat) : (s.setFree x).serial = s.serial := rfl
@[simp] theorem State.setFree_free (s : State) (x : Nat) : (s.setFree x).free = x := rfl

end Sys2Proof.Machine
end

