-- ==== Sys2Proof/Laws/Answers.lean ====
section
/-! SUPPORT. What answering a request does when its frame enters the local queue at once, and when the end of a
happening has nothing to do. -/

namespace Sys2Proof.Machine

/-- The owner of a code takes the request that was handed to it. -/
theorem takeRequest_handed {code : Byte} {r : Request} {s : State} (h : Handed code r s)
    (f : Request → State → State) : takeRequest code f s = f r s := by
  obtain ⟨h1, h2, h3⟩ := h
  simp [takeRequest, handedRequest, h1, h2, h3]

/-- With no request waiting the unit stays IDLE. -/
theorem nextRequest_idle {s : State} (h : s.mgmt.queue = []) : nextRequest s = s := by
  unfold nextRequest
  generalize s.mgmt.queue.length = n
  simp [runRequests, h]

/-- A frame offered to an UP port with a free place enters the local queue. -/
theorem offerLocal_room {p : Port} {who : Producer} {bytes : Bytes} {s : State} (hu : (s.port p).up = true)
    (hl : (s.port p).localQ.length < 4) :
    offerLocal p who bytes s
      = ((s.setSerial (s.serial + 1)).setPort p (startFrame { s.port p with
          localQ := (s.port p).localQ ++ [{ who := who, serial := s.serial, bytes := bytes }] }), .entered,
          s.serial) := by
  simp [offerLocal, localTake, hu, hl, Config.localPlaces]

/-- An answer whose frame finds room leaves the state that Safety calls `replied`. -/
theorem respond_replied {r : Request} {st : Status} {result : Bytes} {s : State}
    (hc : s.mgmt.current = some { req := r, stage := .handed }) (hr : ReplyRoom r s) :
    respond st result s = replied r st result s := by
  obtain ⟨hu, hl, hq⟩ := hr
  unfold respond answerWith
  rw [hc]
  unfold offerResponse
  simp only [offerLocal_room hu hl]
  unfold responseEntered replied replyFrame
  cases hp : r.port <;> by_cases hs : storable r st = true <;>
    simp [hs, thenNext, clearCurrent, nextRequest, runRequests, hq, State.setPort, State.port, cacheEntryOf] <;>
    simp [State.setMgmt, State.setPortA, State.setPortB, State.setSerial] <;>
    simp [storable] at hs <;> simp_all [and_assoc]

/-- The oldest raised happening of a kind is the one that is taken. -/
theorem takeFirst_oldest {α : Type} {kind : α → Prop} {f : α → Bool} (hf : ∀ y, f y = true ↔ kind y)
    {xs pre post : List α} {x : α} (h : Oldest kind xs pre x post) : takeFirst f xs = some (x, pre ++ post) := by
  obtain ⟨rfl, hx, hp⟩ := h
  induction pre with
  | nil => simp [takeFirst, (hf x).mpr hx]
  | cons y ys ih =>
    have hy : f y = false := by
      have := hp y (by simp)
      rw [← hf] at this
      simpa using this
    have := ih (fun z hz => hp z (by simp [hz]))
    simp [takeFirst, hy, this]

/-- None of a kind is taken when none has been raised. -/
theorem takeFirst_none {α : Type} {f : α → Bool} {xs : List α} (h : ∀ y ∈ xs, f y = false) : takeFirst f xs = none := by
  induction xs with
  | nil => rfl
  | cons y ys ih => simp [takeFirst, h y (by simp), ih (fun z hz => h z (by simp [hz]))]

/-- At the end of a happening that leaves nothing for the Log Writer and no orderly stop to move, nothing happens. -/
theorem settle_quiet {s : State} (hn : NoStop s) (hl : LogQuiet s) : settle s = s := by
  have h1 : logKick s = s := by
    unfold logKick
    split
    · rfl
    · rename_i hh
      rcases hl with h | h | h | h
      · exact absurd (.inl h) hh
      · exact absurd (.inr (.inl h)) hh
      · exact absurd (.inr (.inr h)) hh
      · rw [h]
  unfold settle
  rw [h1]
  unfold settleRestart
  unfold NoStop at hn
  split
  · rfl
  · rename_i c hc
    rw [hc] at hn
    split <;> first | rfl | (rename_i hx; simp [hx] at hn)

/-- A state with another state's ports and Management Unit has the room that one has. -/
theorem ReplyRoom.carry {r : Request} {s t : State} (h : ReplyRoom r s) (ha : t.portA = s.portA)
    (hb : t.portB = s.portB) (hm : t.mgmt = s.mgmt) : ReplyRoom r t := by
  unfold ReplyRoom at *
  cases hp : r.port <;> simpa [State.port, hp, ha, hb, hm] using h

/-- An answer leaves the Log Writer's check as it finds it. -/
theorem LogQuiet.after_reply {r : Request} {st : Status} {result : Bytes} {s : State} (h : LogQuiet s) :
    LogQuiet (replied r st result s) := by
  cases hp : r.port <;> simpa [LogQuiet, replied, State.setPort, waitingBuffer, hp] using h

/-- After an answer no orderly stop is under way. -/
theorem NoStop.after_reply {r : Request} {st : Status} {result : Bytes} {s : State} :
    NoStop (replied r st result s) := by
  simp [NoStop, replied]

/-- An answer after which the Log Writer has nothing to do ends its happening. -/
theorem settle_respond {r : Request} {st : Status} {result : Bytes} {s : State}
    (hc : s.mgmt.current = some { req := r, stage := .handed }) (hr : ReplyRoom r s) (hl : LogQuiet s) :
    settle (respond st result s) = replied r st result s := by
  rw [respond_replied hc hr, settle_quiet NoStop.after_reply hl.after_reply]

end Sys2Proof.Machine
end

