-- ==== Sys2Proof/Laws/ArraySteps.lean ====
section
/-! SUPPORT. What the Array Controller does with its next choice, and with a single request. -/

namespace Sys2Proof.Machine

/-- A waiting program of a block without an erase may run. -/
theorem waitingProgram_free {a : ArrayCtl} {b p : Nat} {h : PageHeader} {d : PageData} (e : programHeld a b = false) :
    waitingProgram a (some (.program b p h d)) = some (.program b p h d) := by
  simp [waitingProgram, e]

/-- A waiting read of a block that is not under the suspended erase may run. -/
theorem waitingRead_free {a : ArrayCtl} {b p : Nat} (e : suspendedErase a b = false) :
    waitingRead a (some (.read b p)) = some (.read b p) := by
  simp [waitingRead, e]

/-- The choice of an operation starts it, unless it is the erase of a log block with a hold. -/
theorem arrayChoose_start {s : State} {who : Requester} {req : ArrayReq}
    (hc : nextChoice (decide (s.seqr.part = .mounting)) s.arr = .start who req)
    (hh : ∀ b, req = .erase b → isLogBlock b = true → holdOf s.log b = 0) :
    arrayChoose s = (s.setArr (startRequest who req s.arr s.store).1).setStore
      (startRequest who req s.arr s.store).2 := by
  unfold arrayChoose
  rw [chooseNext]
  simp only [hc]
  cases req with
  | erase b =>
    simp only []
    rw [if_neg]
    rintro ⟨x, y⟩
    exact y (hh b rfl x)
  | read => rfl
  | program => rfl

/-- With nothing to choose the controller stays as it is. -/
theorem arrayChoose_idle {s : State} (hc : nextChoice (decide (s.seqr.part = .mounting)) s.arr = .idle) :
    arrayChoose s = s := by
  unfold arrayChoose
  rw [chooseNext]
  simp only [hc]
  rfl

/-- With no request waiting and no erase suspended there is nothing to choose. -/
theorem nextChoice_alone {a : ArrayCtl} (m : Bool) (h : ArrayAlone a) : nextChoice m a = .idle := by
  obtain ⟨a1, a2, a3, a4, a5, a6, a7⟩ := h
  cases m <;>
    simp [nextChoice, a1, a2, a3, a4, a5, a6, a7, waitingProgram, sessionChoice, waitingRead, eraseChoice,
      waitingErase]

/-- The end of an operation with nothing else to do leaves the array free. -/
theorem arrayFree_alone {s : State} (h : ArrayAlone s.arr) :
    arrayFree s = s.setArr { s.arr with running := none } :=
  arrayChoose_idle (s := s.setArr { s.arr with running := none })
    (nextChoice_alone (a := { s.arr with running := none }) _ h)

/-- A single request that is handed in is the one chosen. -/
theorem nextChoice_single {a : ArrayCtl} {m : Bool} {who : Requester} {req : ArrayReq} (hr : a.running = none)
    (h : ArrayAlone a) (hm : mayAsk who req = true)
    (hp : m = true ∧ who = .sequencer ∨ m = false ∧ who ≠ .sequencer) :
    nextChoice m (setSlot a (some req) who) = .start who req := by
  obtain ⟨a1, a2, a3, a4, a5, a6, a7⟩ := h
  rcases hp with ⟨rfl, rfl⟩ | ⟨rfl, hw⟩
  · simp [nextChoice, setSlot]
  · cases req with
    | read b q =>
      cases who with
      | session i =>
        cases i <;>
          simp [nextChoice, setSlot, a1, a2, a3, a5, a6, waitingProgram, sessionChoice, waitingRead, suspendedErase]
      | sequencer => exact absurd rfl hw
      | _ => simp [mayAsk] at hm
    | program b q hh d =>
      cases who <;> simp [mayAsk] at hm hw <;>
        simp [nextChoice, setSlot, a1, a2, a3, a4, a7, waitingProgram, programHeld, runningErase, suspendedErase,
          isEraseOf, hr]
    | erase b =>
      cases who <;> simp [mayAsk] at hm hw <;>
        simp [nextChoice, setSlot, a1, a2, a3, a4, a5, a6, waitingProgram, sessionChoice, waitingRead, eraseChoice,
          waitingErase]

/-- A single request that is handed in while the array is free starts, unless it is the erase of a log block with a
hold. -/
theorem arrayAsk_single {s : State} {who : Requester} {req : ArrayReq} (hr : s.arr.running = none)
    (h : ArrayAlone s.arr) (hm : mayAsk who req = true)
    (hp : s.seqr.part = .mounting ∧ who = .sequencer ∨ s.seqr.part ≠ .mounting ∧ who ≠ .sequencer)
    (hh : ∀ b, req = .erase b → isLogBlock b = true → holdOf s.log b = 0) :
    arrayAsk who req s
      = ((s.setArr (startRequest who req (setSlot s.arr (some req) who) s.store).1).setStore
          (startRequest who req (setSlot s.arr (some req) who) s.store).2, .accepted) := by
  have hre : readsErasing s.arr req = false := by
    cases req <;> simp [readsErasing, runningErase, suspendedErase, hr, h.1]
  have hc : nextChoice (decide ((s.setArr (setSlot s.arr (some req) who)).seqr.part = .mounting))
      (s.setArr (setSlot s.arr (some req) who)).arr = .start who req :=
    nextChoice_single hr h hm (by
      rcases hp with ⟨x, y⟩ | ⟨x, y⟩
      · exact .inl ⟨decide_eq_true (by simpa using x), y⟩
      · exact .inr ⟨decide_eq_false (by simpa using x), y⟩)
  unfold arrayAsk
  rw [if_neg (by simp [hm]), if_neg (by simp [hre])]
  simp only [hr]
  rw [arrayChoose_start hc (by simpa using hh)]
  rfl

/-- A read or a program that is handed in alone to the free array runs. -/
theorem arrayAsk_runs {s : State} {who : Requester} {req : ArrayReq} (hr : s.arr.running = none)
    (h : ArrayAlone s.arr) (hm : mayAsk who req = true)
    (hp : s.seqr.part = .mounting ∧ who = .sequencer ∨ s.seqr.part ≠ .mounting ∧ who ≠ .sequencer)
    (hne : ∀ b, req ≠ .erase b) :
    arrayAsk who req s = (s.setArr { s.arr with
      running := some { who := who, req := req, count := 0, reached := 0 },
      lastSession := (match req, who with
        | .read _ _, .session i => i
        | _, _ => s.arr.lastSession) }, .accepted) := by
  rw [arrayAsk_single hr h hm hp (fun b e => absurd e (hne b))]
  obtain ⟨a1, a2, a3, a4, a5, a6, a7⟩ := h
  cases req with
  | erase b => exact absurd rfl (hne b)
  | read b q =>
    cases who with
    | session i => cases i <;> simp [startRequest, setSlot, a5, a6, State.setArr, State.setStore]
    | sequencer => simp [startRequest, setSlot, a7, State.setArr, State.setStore]
    | _ => simp [mayAsk] at hm
  | program b q hh d =>
    cases who <;> simp [mayAsk] at hm <;> simp [startRequest, setSlot, a2, a3, a7, State.setArr, State.setStore]

end Sys2Proof.Machine
end

