-- ==== Sys2Proof/Laws/Store.lean ====
section
/-! SUPPORT. The sparse table and the Page Array: reading after writing, and that every operation on the store keeps its
canonical form and leaves other blocks alone. -/

namespace Sys2Proof.Machine

/-! ### Sparse tables -/

theorem lookup_putAt_ne {α : Type} (l : List (Nat × α)) (k key : Nat) (v : Option α) (h : key ≠ k) :
    lookup (putAt l k v) key = lookup l key := by
  induction l with
  | nil => cases v <;> simp [putAt, lookup, h.symm]
  | cons a rest ih =>
    obtain ⟨x, w⟩ := a
    unfold putAt
    split
    · cases v <;> simp [lookup, h.symm]
    · split
      · subst_vars
        cases v <;> simp [lookup, h.symm]
      · simp [lookup, ih]

@[simp] theorem lookup_putAt_some {α : Type} (l : List (Nat × α)) (k : Nat) (v : α) :
    lookup (putAt l k (some v)) k = some v := by
  induction l with
  | nil => simp [putAt, lookup]
  | cons a rest ih =>
    obtain ⟨x, w⟩ := a
    unfold putAt
    split
    · simp [lookup]
    · split
      · simp [lookup]
      · simp only [lookup]
        rw [if_neg (by omega)]
        exact ih

theorem risingAbove_mono {α : Type} (l : List (Nat × α)) (a b : Nat) (h : a ≤ b) (hb : risingAbove b l = true) :
    risingAbove a l = true := by
  cases l with
  | nil => rfl
  | cons x rest =>
    obtain ⟨k, w⟩ := x
    simp [risingAbove] at *
    exact ⟨by omega, hb.2⟩

theorem lookup_below {α : Type} (l : List (Nat × α)) (low key : Nat) (h : risingAbove low l = true)
    (hk : key ≤ low) : lookup l key = none := by
  induction l generalizing low with
  | nil => rfl
  | cons a rest ih =>
    obtain ⟨x, w⟩ := a
    simp [risingAbove] at h
    simp only [lookup]
    rw [if_neg (by omega)]
    exact ih x h.2 (by omega)

theorem risingAbove_putAt {α : Type} (l : List (Nat × α)) (low k : Nat) (v : Option α) (hk : low < k)
    (h : risingAbove low l = true) : risingAbove low (putAt l k v) = true := by
  induction l generalizing low with
  | nil => cases v <;> simp [putAt, risingAbove, hk]
  | cons a rest ih =>
    obtain ⟨x, w⟩ := a
    simp [risingAbove] at h
    unfold putAt
    split
    · cases v <;> simp [risingAbove, *]
    · split
      · subst_vars
        cases v
        · exact risingAbove_mono _ _ _ (by omega) h.2
        · simp [risingAbove, hk, h.2]
      · simp [risingAbove, h.1]
        exact ih _ (by omega) h.2

/-- Every write of a sparse table keeps its canonical form. -/
theorem sparseWf_putAt {α : Type} (l : List (Nat × α)) (k : Nat) (v : Option α) (h : sparseWf l = true) :
    sparseWf (putAt l k v) = true := by
  cases l with
  | nil => cases v <;> simp [putAt, sparseWf, risingAbove]
  | cons a rest =>
    obtain ⟨x, w⟩ := a
    simp [sparseWf] at h
    unfold putAt
    split
    · cases v <;> simp [sparseWf, risingAbove, *]
    · split
      · subst_vars
        cases v
        · cases rest with
          | nil => rfl
          | cons b r =>
            obtain ⟨y, z⟩ := b
            simp [risingAbove] at h
            exact h.2
        · simpa [sparseWf] using h
      · simp [sparseWf]
        exact risingAbove_putAt _ _ _ _ (by omega) h

/-- In a table in canonical form a key that has been unlisted reads as absent. -/
theorem lookup_putAt_none {α : Type} (l : List (Nat × α)) (k : Nat) (h : sparseWf l = true) :
    lookup (putAt l k none) k = none := by
  cases l with
  | nil => rfl
  | cons a rest =>
    obtain ⟨x, w⟩ := a
    simp [sparseWf] at h
    induction rest generalizing x w with
    | nil =>
      unfold putAt
      split
      · simp [lookup]; omega
      · split
        · rfl
        · simp [lookup, putAt]; omega
    | cons b r ih =>
      obtain ⟨y, z⟩ := b
      simp [risingAbove] at h
      unfold putAt
      split
      · simp only [lookup]
        rw [if_neg (by omega), if_neg (by omega)]
        exact lookup_below r y k h.2 (by omega)
      · split
        · subst_vars
          simp only [lookup]
          rw [if_neg (by omega)]
          exact lookup_below r y _ h.2 (by omega)
        · simp only [lookup]
          rw [if_neg (by omega)]
          exact ih y z h.2

/-! ### The Page Array keeps its canonical form -/

theorem setPage_wf {st : List (Nat × Page)} (h : sparseWf st = true) (b p : Nat) (x : Option Page) :
    sparseWf (setPage st b p x) = true := sparseWf_putAt _ _ _ h

theorem cancelMark_wf {st : List (Nat × Page)} (h : sparseWf st = true) (b p : Nat) :
    sparseWf (cancelMark st b p) = true := by
  unfold cancelMark
  split
  · exact h
  · exact setPage_wf h _ _ _

theorem cancelMarks_wf {st : List (Nat × Page)} (h : sparseWf st = true) (b n : Nat) :
    sparseWf (cancelMarks b n st) = true := by
  induction n with
  | zero => exact h
  | succ n ih => exact cancelMark_wf ih _ _

theorem partlyErased_wf {st : List (Nat × Page)} (h : sparseWf st = true) (b : Nat) (x : BitVec 16) (n : Nat) :
    sparseWf (partlyErased b x n st) = true := by
  induction n with
  | zero => exact h
  | succ n ih => exact setPage_wf ih _ _ _

theorem erasePages_wf {st : List (Nat × Page)} (h : sparseWf st = true) (b n : Nat) :
    sparseWf (erasePages b n st) = true := by
  induction n with
  | zero => exact h
  | succ n ih => exact setPage_wf ih _ _ _

theorem eraseBlock_wf {st : List (Nat × Page)} (h : sparseWf st = true) (b : Nat) (r : EraseEnd) :
    sparseWf (eraseBlock st b r).1 = true := by
  cases r with
  | erased => simp only [eraseBlock]; exact erasePages_wf h b 16
  | cancelFailed k => simp only [eraseBlock]; exact cancelMarks_wf (cancelMark_wf h b 0) b (min k 16)
  | eraseFailed x => simp only [eraseBlock]; exact partlyErased_wf h b x 16

theorem programPage_wf {st : List (Nat × Page)} (h : sparseWf st = true) (b p : Nat) (hd : PageHeader)
    (d : PageData) (r : ProgramEnd) : sparseWf (programPage st b p hd d r).1 = true := by
  unfold programPage
  split
  · exact h
  · cases r <;> first | exact h | exact setPage_wf h _ _ _

theorem cutProgram_wf {st : List (Nat × Page)} (h : sparseWf st = true) (b p : Nat) (hd : PageHeader)
    (d : PageData) (c : ProgramCut) : sparseWf (cutProgram st b p hd d c) = true := by
  unfold cutProgram
  split
  · exact h
  · cases c <;> first | exact h | exact setPage_wf h _ _ _

theorem cutErase_wf {st : List (Nat × Page)} (h : sparseWf st = true) (b n : Nat) (c : EraseCut) :
    sparseWf (cutErase st b n c) = true := by
  cases c
  · exact cancelMarks_wf h _ _
  · exact partlyErased_wf h _ _ _

/-- What a reset leaves of the Page Array is in canonical form. -/
theorem abandonOperations_wf {s : State} (h : sparseWf s.store = true) : sparseWf (abandonOperations s) = true := by
  have h1 : sparseWf (abandonRunning s.free s.store s.arr.running) = true := by
    unfold abandonRunning
    split
    · exact h
    · split
      · exact h
      · exact cutProgram_wf h _ _ _ _ _
      · exact cutErase_wf h _ _ _
  unfold abandonOperations abandonSuspended
  split
  · exact h1
  · exact cutErase_wf h1 _ _ _

/-- The Page Array right after reset is in canonical form. -/
theorem reset_store_wf : sparseWf State.reset.store = true := rfl

/-! ### Operations on a block leave other blocks alone -/

/-- Pages of blocks other than `b` read alike in two stores. -/
def SameOutside (b : Nat) (st st2 : List (Nat × Page)) : Prop :=
  ∀ c p, p ≤ 15 → c ≠ b → pageAt st2 c p = pageAt st c p

theorem sameOutside_refl (b : Nat) (st : List (Nat × Page)) : SameOutside b st st := fun _ _ _ _ => rfl

theorem sameOutside_setPage {b q : Nat} {x : Option Page} {st st2 : List (Nat × Page)} (hq : q ≤ 15)
    (h : SameOutside b st st2) : SameOutside b st (setPage st2 b q x) := by
  intro c p hp hc
  rw [← h c p hp hc]
  exact lookup_putAt_ne _ _ _ _ (by unfold pageKey; omega)

theorem sameOutside_cancelMark {b q : Nat} {st st2 : List (Nat × Page)} (hq : q ≤ 15)
    (h : SameOutside b st st2) : SameOutside b st (cancelMark st2 b q) := by
  unfold cancelMark
  split
  · exact h
  · exact sameOutside_setPage hq h

theorem sameOutside_cancelMarks {b n : Nat} {st st2 : List (Nat × Page)} (hn : n ≤ 16)
    (h : SameOutside b st st2) : SameOutside b st (cancelMarks b n st2) := by
  induction n with
  | zero => exact h
  | succ n ih => exact sameOutside_cancelMark (by omega) (ih (by omega))

theorem sameOutside_partlyErased {b n : Nat} {x : BitVec 16} {st st2 : List (Nat × Page)} (hn : n ≤ 16)
    (h : SameOutside b st st2) : SameOutside b st (partlyErased b x n st2) := by
  induction n with
  | zero => exact h
  | succ n ih => exact sameOutside_setPage (by omega) (ih (by omega))

theorem sameOutside_erasePages {b n : Nat} {st st2 : List (Nat × Page)} (hn : n ≤ 16)
    (h : SameOutside b st st2) : SameOutside b st (erasePages b n st2) := by
  induction n with
  | zero => exact h
  | succ n ih => exact sameOutside_setPage (by omega) (ih (by omega))

theorem sameOutside_eraseBlock (b : Nat) (r : EraseEnd) (st : List (Nat × Page)) :
    SameOutside b st (eraseBlock st b r).1 := by
  cases r with
  | erased => simp only [eraseBlock]; exact sameOutside_erasePages (Nat.le_refl 16) (sameOutside_refl b st)
  | cancelFailed k =>
    simp only [eraseBlock]
    exact sameOutside_cancelMarks (Nat.min_le_right k 16) (sameOutside_cancelMark (Nat.zero_le 15) (sameOutside_refl b st))
  | eraseFailed x => simp only [eraseBlock]; exact sameOutside_partlyErased (Nat.le_refl 16) (sameOutside_refl b st)

/-- A page that is not erased is not changed by a program. -/
theorem pageAt_programPage_some {st : List (Nat × Page)} {b p c q : Nat} {hd : PageHeader} {d : PageData}
    {r : ProgramEnd} {x : Page} (h : pageAt st c q = some x) :
    pageAt (programPage st b p hd d r).1 c q = some x := by
  unfold programPage
  split
  · exact h
  · rename_i hn
    have hne : pageKey c q ≠ pageKey b p := by
      intro h2
      unfold pageAt at hn h
      rw [h2, hn] at h
      simp at h
    have k : ∀ v, pageAt (setPage st b p v) c q = some x := by
      intro v
      rw [← h]
      exact lookup_putAt_ne _ _ _ _ hne
    cases r <;> first | exact h | exact k _

end Sys2Proof.Machine
end

