-- ==== Sys2Proof/Laws/Kept.lean ====
section
/-! SUPPORT. What every shared operation keeps, said once: `Kept s0 s` says that `s` has each property of Safety that
`s0` has, has its own address and its waiting commands, and that no page written in `s0` has changed but by an erase of
its block. One lemma for each operation, tagged for simp, carries it from the state before to the state after. -/

namespace Sys2Proof.Machine

theorem bump_le (n : Nat) : bump n ≤ counterMax := by
  unfold bump
  split <;> omega

theorem bumpBy_le (k n : Nat) : bumpBy k n ≤ counterMax := by
  unfold bumpBy
  split <;> omega

/-! ### The parts of a state -/

/-- Nine counters in range. -/
structure PortCountersOk (c : PortCounters) : Prop where
  rxGood : c.rxGood ≤ counterMax
  rxCheck : c.rxCheck ≤ counterMax
  rxLength : c.rxLength ≤ counterMax
  rxRunt : c.rxRunt ≤ counterMax
  rxOverlong : c.rxOverlong ≤ counterMax
  sent : c.sent ≤ counterMax
  queueFull : c.queueFull ≤ counterMax
  relayDown : c.relayDown ≤ counterMax
  localDown : c.localDown ≤ counterMax

/-- A port, its queues bounded if `q`, its counters in range if `c`. -/
structure PortOk (q c : Prop) (x : PortState) : Prop where
  bounded : q → PortBounded x
  counters : c → PortCountersOk x.counters

/-- The classifier, its settings in range if `v`, its counters if `c`. -/
structure ClsOk (v c : Prop) (x : Classifier) : Prop where
  len : v → x.rules.length = 48
  valid : v → ∀ r ∈ x.rules, ruleValid r = true
  hits : c → ∀ r ∈ x.rules, r.hits ≤ counterMax
  dflt : v → defaultValid x.dflt = true
  defaultHits : c → x.defaultHits ≤ counterMax

/-- The Packer's counters, in range if `c`. -/
structure PackerOk (c : Prop) (x : Packer) : Prop where
  packed : c → x.recordsPacked ≤ counterMax
  lost : c → x.capturesLost ≤ counterMax

/-- The Log Manager's counters, in range if `c`. -/
structure LogOk (c : Prop) (x : LogManager) : Prop where
  pages : c → x.pagesCommitted ≤ counterMax
  programs : c → x.programFailures ≤ counterMax
  erases : c → x.eraseFailures ≤ counterMax

/-- The Capture Controller, its settings in range if `v`, its counters if `c`. -/
structure CtlOk (v c : Prop) (x : CaptureCtl) : Prop where
  settings : v → settingsValid x.settings = true
  taken : c → x.taken ≤ counterMax
  ignored : c → x.ignored ≤ counterMax
  refused : c → x.refused ≤ counterMax

/-- The Journal Writer's counters, in range if `c`. -/
structure JrnlOk (c : Prop) (x : JournalWriter) : Prop where
  dir : c → x.dirFailures ≤ counterMax
  prof : c → x.profFailures ≤ counterMax

/-- The sessions' credit, bounded if `k`. -/
structure RetOk (k : Prop) (x : Retrieval) : Prop where
  s1 : k → x.s1.credit ≤ 64
  s2 : k → x.s2.credit ≤ 64

/-- The Management Unit, its queues bounded if `q`, its list in range if `v`, its counters if `c`. -/
structure MgmtOk (q v c : Prop) (x : Management) : Prop where
  queue : q → x.queue.length ≤ 4
  cache : q → x.cache.length ≤ 8
  stations : q → noRepeats (x.cache.map CacheEntry.station) = true
  managers : v → managersValid x.managers = true
  discarded : c → x.discarded ≤ counterMax
  denied : c → x.denied ≤ counterMax
  duplicates : c → x.duplicates ≤ counterMax

/-- The Notice Unit, its queue bounded if `q`, its settings in range if `v`, its attempts bounded if `a`, its counters
in range if `c`. -/
structure NoticeOk (q v a c : Prop) (x : NoticeUnit) : Prop where
  settings : v → notifyValid x.settings = true
  queue : q → x.queue.length ≤ 8
  attempts : a → x.attempts ≤ 4
  onWay : a → x.queue ≠ [] → x.head = .queued → x.attempts < 4
  dropped : c → x.dropped ≤ counterMax
  discarded : c → x.discarded ≤ counterMax

/-- `s` has what `s0` has. -/
structure Kept (s0 s : State) : Prop where
  store : StoreWf s0 → StoreWf s
  array : ArrayWf s0 → ArrayWf s
  own : s.seqr.own = s0.seqr.own
  pending : s.pending = s0.pending
  pa : PortOk (QueuesBounded s0) (CountersInRange s0) s.portA
  pb : PortOk (QueuesBounded s0) (CountersInRange s0) s.portB
  cls : ClsOk (SettingsInRange s0) (CountersInRange s0) s.cls
  packer : PackerOk (CountersInRange s0) s.packer
  log : LogOk (CountersInRange s0) s.log
  ctl : CtlOk (SettingsInRange s0) (CountersInRange s0) s.ctl
  jrnl : JrnlOk (CountersInRange s0) s.jrnl
  ret : RetOk (CreditBounded s0) s.ret
  mgmt : MgmtOk (QueuesBounded s0) (SettingsInRange s0) (CountersInRange s0) s.mgmt
  notice : NoticeOk (QueuesBounded s0) (SettingsInRange s0) (AttemptsBounded s0) (CountersInRange s0) s.notice
  pages : ArrayWf s0 → ∀ (b p : Nat) (x : Page), p ≤ 15 → pageAt s0.store b p = some x →
      pageAt s.store b p = some x ∨ eraseOut s0.arr b = true ∨ eraseOut s.arr b = true

variable {s0 s : State}

/-- A state has what it has. -/
theorem Kept.refl (s : State) : Kept s s := by
  refine ⟨id, id, rfl, rfl, ⟨fun h => h.1, ?_⟩, ⟨fun h => h.2.1, ?_⟩, ⟨fun h => h.1, ?_, ?_, fun h => h.2.2.1, ?_⟩,
    ⟨?_, ?_⟩, ⟨?_, ?_, ?_⟩, ⟨fun h => h.2.2.2.2.1, ?_, ?_, ?_⟩, ⟨?_, ?_⟩, ⟨fun h => h.1, fun h => h.2⟩,
    ⟨fun h => h.2.2.1, fun h => h.2.2.2.1, fun h => h.2.2.2.2.1, fun h => h.2.2.2.1, ?_, ?_, ?_⟩,
    ⟨fun h => h.2.2.2.2.2, fun h => h.2.2.2.2.2, fun h => h.1, fun h => h.2, ?_, ?_⟩, fun _ _ _ _ _ h => .inl h⟩
  all_goals intro h
  all_goals simp [CountersInRange, SettingsInRange, counterList, portCounterList] at h
  all_goals first | exact h.2.1 | exact h.2 | (refine ⟨?_, ?_, ?_, ?_, ?_, ?_, ?_, ?_, ?_⟩ <;> simp [h]) | simp [h]

/-- Every property of the first state holds of the second. -/
theorem Kept.counters (h : Kept s0 s) (hc : CountersInRange s0) : CountersInRange s := by
  have a := h.pa.counters hc
  have b := h.pb.counters hc
  simp [CountersInRange, counterList, portCounterList, a.1, a.2, a.3, a.4, a.5, a.6, a.7, a.8, a.9, b.1, b.2, b.3, b.4,
    b.5, b.6, b.7, b.8, b.9, h.cls.defaultHits hc, h.packer.1 hc, h.packer.2 hc, h.log.1 hc, h.log.2 hc, h.log.3 hc,
    h.ctl.taken hc, h.ctl.ignored hc, h.ctl.refused hc, h.jrnl.1 hc, h.jrnl.2 hc, h.mgmt.discarded hc,
    h.mgmt.denied hc, h.mgmt.duplicates hc, h.notice.dropped hc, h.notice.discarded hc]
  exact h.cls.hits hc

theorem Kept.queues (h : Kept s0 s) (hq : QueuesBounded s0) : QueuesBounded s :=
  ⟨h.pa.bounded hq, h.pb.bounded hq, h.mgmt.queue hq, h.mgmt.cache hq, h.mgmt.stations hq, h.notice.queue hq⟩

theorem Kept.settings (h : Kept s0 s) (hv : SettingsInRange s0) : SettingsInRange s :=
  ⟨h.cls.len hv, List.all_eq_true.mpr (h.cls.valid hv), h.cls.dflt hv, h.mgmt.managers hv, h.ctl.settings hv,
    h.notice.settings hv⟩

theorem Kept.attempts (h : Kept s0 s) (ha : AttemptsBounded s0) : AttemptsBounded s :=
  ⟨h.notice.attempts ha, h.notice.onWay ha⟩

theorem Kept.credit (h : Kept s0 s) (hc : CreditBounded s0) : CreditBounded s := ⟨h.ret.s1 hc, h.ret.s2 hc⟩

/-! ### Updates of one field -/

@[simp] theorem Kept.setSeqr (h : Kept s0 s) {x : Sequencer} (h1 : x.own = s.seqr.own) (h2 : x.part = s.seqr.part) :
    Kept s0 (s.setSeqr x) :=
  { h with
    own := by simp [h1, h.own]
    array := fun ha => by
      have := h.array ha
      simpa [ArrayWf, h2] using this
    store := h.store
    pages := h.pages }

theorem Kept.setReady (h : Kept s0 s) {x : Sequencer} (h1 : x.own = s.seqr.own) (h2 : x.part = .ready) :
    Kept s0 (s.setSeqr x) :=
  { h with
    own := by simp [h1, h.own]
    array := fun ha h3 => ⟨h2, (h.array ha h3).2⟩
    store := h.store
    pages := h.pages }

@[simp] theorem Kept.setRaised (h : Kept s0 s) {x : Raised} : Kept s0 (s.setRaised x) :=
  { h with store := h.store, array := h.array, pages := h.pages }

theorem Kept.setPortA (h : Kept s0 s) {x : PortState} (hx : PortOk (QueuesBounded s0) (CountersInRange s0) x) :
    Kept s0 (s.setPortA x) := { h with store := h.store, array := h.array, pages := h.pages, pa := hx }

theorem Kept.setPortB (h : Kept s0 s) {x : PortState} (hx : PortOk (QueuesBounded s0) (CountersInRange s0) x) :
    Kept s0 (s.setPortB x) := { h with store := h.store, array := h.array, pages := h.pages, pb := hx }

theorem Kept.setCls (h : Kept s0 s) {x : Classifier} (hx : ClsOk (SettingsInRange s0) (CountersInRange s0) x) :
    Kept s0 (s.setCls x) := { h with store := h.store, array := h.array, pages := h.pages, cls := hx }

theorem Kept.setPacker (h : Kept s0 s) {x : Packer} (hx : PackerOk (CountersInRange s0) x) : Kept s0 (s.setPacker x) :=
  { h with store := h.store, array := h.array, pages := h.pages, packer := hx }

theorem Kept.setLogOk (h : Kept s0 s) {x : LogManager} (hx : LogOk (CountersInRange s0) x) : Kept s0 (s.setLog x) :=
  { h with store := h.store, array := h.array, pages := h.pages, log := hx }

@[simp] theorem Kept.setLog (h : Kept s0 s) {x : LogManager} (h1 : x.pagesCommitted = s.log.pagesCommitted)
    (h2 : x.programFailures = s.log.programFailures) (h3 : x.eraseFailures = s.log.eraseFailures) :
    Kept s0 (s.setLog x) := h.setLogOk ⟨h1 ▸ h.log.1, h2 ▸ h.log.2, h3 ▸ h.log.3⟩

theorem Kept.setCtlOk (h : Kept s0 s) {x : CaptureCtl} (hx : CtlOk (SettingsInRange s0) (CountersInRange s0) x) :
    Kept s0 (s.setCtl x) := { h with store := h.store, array := h.array, pages := h.pages, ctl := hx }

@[simp] theorem Kept.setCtl (h : Kept s0 s) {x : CaptureCtl} (h0 : x.settings = s.ctl.settings)
    (h1 : x.taken = s.ctl.taken) (h2 : x.ignored = s.ctl.ignored) (h3 : x.refused = s.ctl.refused) :
    Kept s0 (s.setCtl x) := h.setCtlOk ⟨h0 ▸ h.ctl.1, h1 ▸ h.ctl.2, h2 ▸ h.ctl.3, h3 ▸ h.ctl.4⟩

@[simp] theorem Kept.setDir (h : Kept s0 s) {x : Directory} : Kept s0 (s.setDir x) :=
  { h with store := h.store, array := h.array, pages := h.pages }

theorem Kept.setJrnlOk (h : Kept s0 s) {x : JournalWriter} (hx : JrnlOk (CountersInRange s0) x) :
    Kept s0 (s.setJrnl x) := { h with store := h.store, array := h.array, pages := h.pages, jrnl := hx }

@[simp] theorem Kept.setJrnl (h : Kept s0 s) {x : JournalWriter} (h1 : x.dirFailures = s.jrnl.dirFailures)
    (h2 : x.profFailures = s.jrnl.profFailures) : Kept s0 (s.setJrnl x) :=
  h.setJrnlOk ⟨h1 ▸ h.jrnl.1, h2 ▸ h.jrnl.2⟩

theorem Kept.setRet (h : Kept s0 s) {x : Retrieval} (hx : RetOk (CreditBounded s0) x) : Kept s0 (s.setRet x) :=
  { h with store := h.store, array := h.array, pages := h.pages, ret := hx }

theorem Kept.setMgmt (h : Kept s0 s) {x : Management}
    (hx : MgmtOk (QueuesBounded s0) (SettingsInRange s0) (CountersInRange s0) x) : Kept s0 (s.setMgmt x) :=
  { h with store := h.store, array := h.array, pages := h.pages, mgmt := hx }

theorem Kept.setNotice (h : Kept s0 s) {x : NoticeUnit}
    (hx : NoticeOk (QueuesBounded s0) (SettingsInRange s0) (AttemptsBounded s0) (CountersInRange s0) x) :
    Kept s0 (s.setNotice x) := { h with store := h.store, array := h.array, pages := h.pages, notice := hx }

@[simp] theorem Kept.setSerial (h : Kept s0 s) {x : Nat} : Kept s0 (s.setSerial x) :=
  { h with store := h.store, array := h.array, pages := h.pages }

theorem Kept.port (h : Kept s0 s) (p : Port) : PortOk (QueuesBounded s0) (CountersInRange s0) (s.port p) := by
  cases p
  · exact h.pa
  · exact h.pb

theorem Kept.setPort (h : Kept s0 s) {p : Port} {x : PortState}
    (hx : PortOk (QueuesBounded s0) (CountersInRange s0) x) : Kept s0 (s.setPort p x) := by
  cases p
  · exact h.setPortA hx
  · exact h.setPortB hx

theorem Kept.session (h : Kept s0 s) (i : SessionId) (hk : CreditBounded s0) : (s.session i).credit ≤ 64 := by
  cases i
  · exact h.ret.s1 hk
  · exact h.ret.s2 hk

theorem Kept.setSession (h : Kept s0 s) {i : SessionId} {x : Session} (hx : CreditBounded s0 → x.credit ≤ 64) :
    Kept s0 (s.setSession i x) := by
  cases i
  · exact h.setRet ⟨hx, h.ret.s2⟩
  · exact h.setRet ⟨h.ret.s1, hx⟩

@[simp] theorem Kept.raiseEvent (h : Kept s0 s) {src : EventSource} {e : Event} :
    Kept s0 (Machine.raiseEvent src e s) := h.setRaised

@[simp] theorem Kept.raiseEnding (h : Kept s0 s) {p : Port} {f : LocalFrame} {b : Bool} :
    Kept s0 (Machine.raiseEnding p f b s) := h.setRaised

@[simp] theorem Kept.drawPageSeq (h : Kept s0 s) : Kept s0 (Machine.drawPageSeq s).2 := h.setLog rfl rfl rfl

/-! ### Ports -/

variable {q c : Prop}

theorem PortOk.startFrame {x : PortState} (h : PortOk q c x) : PortOk q c (Machine.startFrame x) := by
  unfold Machine.startFrame
  split
  · split <;> (try split) <;> refine ⟨fun hq => ?_, h.counters⟩ <;> obtain ⟨h1, h2, h3⟩ := h.bounded hq <;>
      refine ⟨?_, ?_, ?_⟩ <;> simp_all <;> omega
  · exact h

theorem PortOk.append {x : PortState} (h : PortOk q c x) (f : LocalFrame) (hl : x.localQ.length < 4) :
    PortOk q c { x with localQ := x.localQ ++ [f] } :=
  ⟨fun hq => by
    obtain ⟨h1, h2, h3⟩ := h.bounded hq
    exact ⟨h1, by simp; omega, h3⟩, h.counters⟩

theorem PortOk.localTake {x : PortState} (h : PortOk q c x) (f : LocalFrame) :
    PortOk q c (Machine.localTake x f).1 := by
  unfold Machine.localTake
  split
  · exact ⟨h.bounded, fun hc => { h.counters hc with localDown := bump_le _ }⟩
  · split
    · exact (h.append f (by assumption)).startFrame
    · exact ⟨h.bounded, h.counters⟩

theorem PortOk.relayTake {x : PortState} (h : PortOk q c x) (f : Bytes) : PortOk q c (Machine.relayTake x f) := by
  unfold Machine.relayTake
  split
  · exact ⟨h.bounded, fun hc => { h.counters hc with relayDown := bump_le _ }⟩
  · split
    · apply PortOk.startFrame
      refine ⟨fun hq => ?_, h.counters⟩
      obtain ⟨h1, h2, h3⟩ := h.bounded hq
      refine ⟨?_, h2, h3⟩
      simp [Config.relayPlaces] at *
      omega
    · exact ⟨h.bounded, fun hc => { h.counters hc with queueFull := bump_le _ }⟩

theorem PortOk.refill {x : PortState} (h : PortOk q c x) : PortOk q c (Machine.refill x).1 := by
  unfold Machine.refill
  split
  · split
    · exact h
    · exact ⟨(h.append _ (by assumption)).bounded, h.counters⟩
  · exact h

theorem PortOk.finishFrame {x : PortState} (h : PortOk q c x) : PortOk q c (Machine.finishFrame x) :=
  ⟨h.bounded, fun hc => { h.counters hc with sent := bump_le _ }⟩

theorem PortOk.portDown {x : PortState} (h : PortOk q c x) : PortOk q c (Machine.portDown x) :=
  ⟨fun _ => by simp [PortBounded, Machine.portDown],
    fun hc => { h.counters hc with relayDown := bumpBy_le _ _, localDown := bumpBy_le _ _ }⟩

theorem PortOk.portUp {x : PortState} (h : PortOk q c x) : PortOk q c (Machine.portUp x) :=
  ⟨fun hq => ⟨(h.bounded hq).1, (h.bounded hq).2.1, by simp [Machine.portUp]⟩, h.counters⟩

theorem PortOk.received {x : PortState} (h : PortOk q c x) (o : RxOutcome) (b : Bool) :
    PortOk q c { x with receiving := b, counters := countReceived x.counters o } :=
  ⟨h.bounded, fun hc => by
    cases o
    · exact { h.counters hc with rxGood := bump_le _ }
    · exact { h.counters hc with rxCheck := bump_le _ }
    · exact { h.counters hc with rxLength := bump_le _ }
    · exact { h.counters hc with rxRunt := bump_le _ }
    · exact { h.counters hc with rxOverlong := bump_le _ }⟩

@[simp] theorem Kept.offerLocal (h : Kept s0 s) {p : Port} {w : Producer} {b : Bytes} :
    Kept s0 (Machine.offerLocal p w b s).1 := by
  unfold Machine.offerLocal
  have h2 : Kept s0 ((s.setSerial (s.serial + 1)).setPort p
      (Machine.localTake (s.port p) { who := w, serial := s.serial, bytes := b }).1) :=
    h.setSerial.setPort ((h.port p).localTake _)
  simp only
  split <;> first | exact h2 | exact h2.raiseEnding

@[simp] theorem Kept.withdraw (h : Kept s0 s) {p : Port} {w : Producer} : Kept s0 (Machine.withdraw p w s) :=
  h.setPort ⟨(h.port p).bounded, (h.port p).counters⟩

end Sys2Proof.Machine
end

