-- ==== Sys2Proof/Laws/KeptArray.lean ====
section
/-! SUPPORT. What the Array Controller's choice and a request at it keep. -/

namespace Sys2Proof.Machine

@[simp] theorem setSlot_suspended (a : ArrayCtl) (x : Option ArrayReq) (who : Requester) :
    (setSlot a x who).suspended = a.suspended := by
  cases who <;> first | rfl | (rename_i i; cases i <;> rfl)

@[simp] theorem setSlot_running (a : ArrayCtl) (x : Option ArrayReq) (who : Requester) :
    (setSlot a x who).running = a.running := by
  cases who <;> first | rfl | (rename_i i; cases i <;> rfl)

theorem waitingRead_isRead {a : ArrayCtl} {o : Option ArrayReq} {r : ArrayReq} (h : waitingRead a o = some r) :
    ∃ b p, r = .read b p := by
  unfold waitingRead at h
  split at h
  · split at h <;> simp at h
    exact ⟨_, _, h.symm⟩
  · simp at h

theorem waitingProgram_isProgram {a : ArrayCtl} {o : Option ArrayReq} {r : ArrayReq}
    (h : waitingProgram a o = some r) : ∃ b p hd d, r = .program b p hd d := by
  unfold waitingProgram at h
  split at h
  · split at h <;> simp at h
    exact ⟨_, _, _, _, h.symm⟩
  · simp at h

theorem sessionChoice_isRead {a : ArrayCtl} {i : SessionId} {r : ArrayReq} (h : sessionChoice a = some (i, r)) :
    ∃ b p, r = .read b p := by
  unfold sessionChoice at h
  split at h
  · simp at h
  · rename_i hr _
    simp at h
    obtain ⟨-, rfl⟩ := h
    exact waitingRead_isRead hr
  · rename_i _ hr
    simp at h
    obtain ⟨-, rfl⟩ := h
    exact waitingRead_isRead hr
  · rename_i h1 h2
    split at h <;> simp at h <;> obtain ⟨-, rfl⟩ := h
    · exact waitingRead_isRead h2
    · exact waitingRead_isRead h1

/-- Outside a mount an erase is chosen only when none is suspended (R53). -/
theorem nextChoice_erase {a : ArrayCtl} {who : Requester} {b : Nat}
    (h : nextChoice false a = .start who (.erase b)) : a.suspended = none := by
  simp only [nextChoice, Bool.false_eq_true, if_false] at h
  split at h
  · rename_i hr
    obtain ⟨_, _, _, _, rfl⟩ := waitingProgram_isProgram hr
    simp at h
  · split at h
    · rename_i hr
      obtain ⟨_, _, _, _, rfl⟩ := waitingProgram_isProgram hr
      simp at h
    · split at h
      · rename_i hr
        obtain ⟨_, _, rfl⟩ := sessionChoice_isRead hr
        simp at h
      · split at h
        · simp at h
        · assumption

/-- Only the suspended erase is resumed, and only outside a mount (R53, R58). -/
theorem nextChoice_resume {m : Bool} {a : ArrayCtl} {e : Suspended} (h : nextChoice m a = .resume e) :
    a.suspended = some e ∧ m = false := by
  unfold nextChoice at h
  split at h
  · split at h <;> simp at h
  · refine ⟨?_, by simp_all⟩
    split at h
    · simp at h
    · split at h
      · simp at h
      · split at h
        · simp at h
        · split at h
          · simp_all
          · unfold eraseChoice at h
            split at h <;> (try split at h) <;> simp at h

/-- What a choice over a free array does: the store keeps its form, a suspended erase stays alone, an erase that was
suspended is still out, and a page changes only under an erase of its block. -/
structure Chosen (m : Bool) (a : ArrayCtl) (st : List (Nat × Page)) (a2 : ArrayCtl) (st2 : List (Nat × Page)) :
    Prop where
  wf : sparseWf st = true → sparseWf st2 = true
  alone : (a.suspended ≠ none → m = false) → a2.suspended ≠ none → m = false ∧ isErase a2.running = false
  still : a.suspended = none → a2.suspended = none
  keep : ∀ b, suspendedErase a b = true → eraseOut a2 b = true
  pages : ∀ b p, p ≤ 15 → pageAt st2 b p = pageAt st b p ∨ eraseOut a2 b = true

theorem Chosen.idle {m : Bool} {a : ArrayCtl} {st : List (Nat × Page)} (hr : a.running = none) :
    Chosen m a st a st := by
  refine ⟨id, fun h1 h2 => ⟨h1 h2, by simp [hr, isErase]⟩, id, fun b hb => ?_, fun _ _ _ => .inl rfl⟩
  simp [eraseOut, hb]

theorem startRequest_chosen {m : Bool} {who : Requester} {req : ArrayReq} {a : ArrayCtl} {st : List (Nat × Page)}
    (h : nextChoice m a = .start who req) :
    Chosen m a st (startRequest who req a st).1 (startRequest who req a st).2 := by
  have keep : ∀ b, suspendedErase a b = true → eraseOut (startRequest who req a st).1 b = true := by
    intro b hb
    cases req <;> simp [startRequest, eraseOut, suspendedErase] at * <;> right <;> exact hb
  cases req with
  | read b p =>
    refine ⟨id, fun h1 h2 => ?_, fun h2 => by simpa [startRequest] using h2, keep, fun _ _ _ => .inl rfl⟩
    simp [startRequest] at h2 ⊢
    exact ⟨h1 (by simpa using h2), rfl⟩
  | program b p hd d =>
    refine ⟨id, fun h1 h2 => ?_, fun h2 => by simpa [startRequest] using h2, keep, fun _ _ _ => .inl rfl⟩
    simp [startRequest] at h2 ⊢
    exact ⟨h1 (by simpa using h2), rfl⟩
  | erase b =>
    refine ⟨fun hw => cancelMark_wf hw _ _, fun h1 h2 => ?_, fun h2 => by simpa [startRequest] using h2, keep, ?_⟩
    · simp [startRequest] at h2
      have hm := h1 h2
      subst hm
      exact absurd (nextChoice_erase h) h2
    · intro c p hp
      by_cases hc : c = b
      · right
        subst hc
        simp [startRequest, eraseOut, runningErase]
      · left
        exact sameOutside_cancelMark (by omega) (sameOutside_refl _ _) c p hp hc

theorem chooseNext_chosen {m : Bool} {l : LogManager} {n : Nat} {a : ArrayCtl} {st : List (Nat × Page)}
    (hr : a.running = none) : Chosen m a st (chooseNext m l n a st).1 (chooseNext m l n a st).2 := by
  induction n generalizing a with
  | zero => exact Chosen.idle hr
  | succ n ih =>
    unfold chooseNext
    split
    · exact Chosen.idle hr
    · rename_i e he
      obtain ⟨hs, -⟩ := nextChoice_resume he
      refine ⟨id, fun h1 h2 => by simp [resumeErase] at h2, fun h1 => by simp [hs] at h1, fun b hb => ?_,
        fun _ _ _ => .inl rfl⟩
      simp [resumeErase, eraseOut, runningErase, suspendedErase, hs] at *
      exact hb
    · rename_i who req he
      split
      · split
        · have hx := @ih (setSlot a none who) (by simpa using hr)
          refine ⟨hx.wf, ?_, ?_, fun b hb => hx.keep b ?_, hx.pages⟩
          · simpa using hx.alone
          · simpa using hx.still
          · simpa [suspendedErase] using hb
        · exact startRequest_chosen he
      · exact startRequest_chosen he
      · exact startRequest_chosen he

variable {s0 s : State}

/-- The controller's choice over an array part `a` that is free. -/
theorem Kept.chooseOver {a : ArrayCtl} (h : Kept s0 s) (hr : a.running = none)
    (hs : ArrayWf s0 → a.suspended ≠ none → s.seqr.part = .ready)
    (hk : ArrayWf s0 → ∀ b, eraseOut s.arr b = true → suspendedErase a b = true ∨ eraseOut s0.arr b = true) :
    Kept s0 (arrayChoose (s.setArr a)) := by
  have c := @chooseNext_chosen (decide (s.seqr.part = .mounting)) s.log 4 a s.store hr
  show Kept s0 (((s.setArr a).setArr _).setStore _)
  refine { h with store := fun h0 => c.wf (h.store h0), array := fun h0 => ?_, pages := fun h0 => ?_ }
  · intro h2
    refine ⟨?_, (c.alone (fun h1 => by simp [hs h0 h1]) h2).2⟩
    by_cases ha : a.suspended = none
    · exact absurd (c.still ha) h2
    · exact hs h0 ha
  · intro b p x hp hx
    rcases h.pages h0 b p x hp hx with h1 | h1 | h1
    · rcases c.pages b p hp with h2 | h2
      · exact .inl (h2.trans h1)
      · exact .inr (.inr h2)
    · exact .inr (.inl h1)
    · rcases hk h0 b h1 with h2 | h2
      · exact .inr (.inr (c.keep b h2))
      · exact .inr (.inl h2)

theorem Kept.setSlotOf (h : Kept s0 s) (x : Option ArrayReq) (who : Requester) :
    Kept s0 (s.setArr (setSlot s.arr x who)) := by
  refine { h with store := h.store, array := fun h0 => ?_, pages := fun h0 => ?_ }
  · have := h.array h0
    intro h2
    simp at *
    exact this h2
  · intro b p y hp hy
    have := h.pages h0 b p y hp hy
    simpa [eraseOut, runningErase, suspendedErase] using this

@[simp] theorem Kept.arrayAsk (h : Kept s0 s) {who : Requester} {req : ArrayReq} :
    Kept s0 (Machine.arrayAsk who req s).1 := by
  unfold Machine.arrayAsk
  split
  · exact h
  · split
    · exact h
    · simp only
      split
      · rename_i hr
        apply h.chooseOver
        · simpa using hr
        · intro h0 h2
          exact (h.array h0 (by simpa using h2)).1
        · intro _ b hb
          left
          simpa [eraseOut, runningErase, hr, suspendedErase] using hb
      · rename_i r hr
        split
        · rename_i hsus
          obtain ⟨e, he⟩ : ∃ e, r.req = .erase e := by
            have := hsus.1
            unfold suspends at this
            split at this
            · exact ⟨_, by assumption⟩
            · simp at this
          apply h.chooseOver
          · rfl
          · intro _ _
            exact hsus.2
          · intro h0 b hb
            left
            have h4 : s.arr.suspended = none := by
              apply Classical.byContradiction
              intro h5
              have := (h.array h0 h5).2
              simp [hr, isErase, he] at this
            simp [eraseOut, runningErase, suspendedErase, hr, he, h4] at hb
            simp [suspendRunning, suspendedErase, blockOf, he, hb]
        · exact h.setSlotOf _ _

/-- The running operation ends; an erase that ends here was out at the start. -/
theorem Kept.arrayFree (h : Kept s0 s)
    (hc : ∀ r, s.arr.running = some r → ∀ b, r.req = .erase b → eraseOut s0.arr b = true) :
    Kept s0 (Machine.arrayFree s) := by
  unfold Machine.arrayFree
  apply h.chooseOver
  · rfl
  · intro h0 h1
    exact (h.array h0 h1).1
  · intro _ b hb
    simp [eraseOut] at hb
    rcases hb with hb | hb
    · right
      unfold runningErase at hb
      split at hb
      · simp at hb
      · rename_i r hr
        split at hb
        · rename_i e he
          simp at hb
          subst hb
          exact hc r hr _ he
        · simp at hb
    · left
      exact hb

/-- The store after a program. -/
theorem Kept.programStore (h : Kept s0 s) {b p : Nat} {hd : PageHeader} {d : PageData} {r : ProgramEnd} :
    Kept s0 (s.setStore (programPage s.store b p hd d r).1) :=
  { h with
    store := fun h0 => programPage_wf (h.store h0) _ _ _ _ _
    array := h.array
    pages := fun h0 c q x hq hx => (h.pages h0 c q x hq hx).imp pageAt_programPage_some id }

/-- The store after an erase that was out at the start. -/
theorem Kept.eraseStore (h : Kept s0 s) {b : Nat} {r : EraseEnd} (he : eraseOut s0.arr b = true) :
    Kept s0 (s.setStore (eraseBlock s.store b r).1) := by
  refine { h with store := fun h0 => eraseBlock_wf (h.store h0) _ _, array := h.array, pages := fun h0 => ?_ }
  intro c q x hq hx
  rcases h.pages h0 c q x hq hx with h1 | h1
  · by_cases hc : c = b
    · exact .inr (.inl (hc ▸ he))
    · left
      rw [← h1]
      exact sameOutside_eraseBlock b r _ c q hq hc
  · exact .inr h1

end Sys2Proof.Machine
end

