-- ==== Sys2Proof/Laws/KeptUnits.lean ====
section
/-! SUPPORT. What the operations of the Packer, the Retrieval Engine, the Management Unit and the Notice Unit keep. -/

namespace Sys2Proof.Machine

variable {s0 s : State}

/-! ### Packer -/

section Packing

variable {c : Prop} {p : Packer}

theorem PackerOk.of {r : Packer} (h : PackerOk c p) (h1 : r.recordsPacked = p.recordsPacked)
    (h2 : r.capturesLost = p.capturesLost) : PackerOk c r := ⟨h1 ▸ h.1, h2 ▸ h.2⟩

theorem PackerOk.setBuf (h : PackerOk c p) (x : Buffer) (i : BufId) : PackerOk c (Machine.setBuf p x i) := by
  cases i <;> exact h.of rfl rfl

theorem PackerOk.putRecord (h : PackerOk c p) (i : BufId) (r : Record) : PackerOk c (Machine.putRecord i r p) :=
  ⟨fun _ => bump_le _, (h.setBuf _ i).2⟩

theorem PackerOk.putRecords (h : PackerOk c p) (i : BufId) (rs : List Record) :
    PackerOk c (Machine.putRecords i rs p) := by
  unfold Machine.putRecords
  induction rs generalizing p with
  | nil => exact h
  | cons r rs ih => exact ih (h.putRecord i r)

theorem PackerOk.closeBuf (h : PackerOk c p) (i : BufId) : PackerOk c (Machine.closeBuf i p) :=
  (h.setBuf { getBuf p i with state := .full } i).of rfl rfl

theorem PackerOk.closeFilling (h : PackerOk c p) : PackerOk c (Machine.closeFilling p) := by
  unfold Machine.closeFilling
  split
  · exact h
  · exact h.closeBuf _

theorem PackerOk.dropTally (h : PackerOk c p) : PackerOk c (Machine.dropTally p) := by
  unfold Machine.dropTally
  split
  · exact h
  · exact h.of rfl rfl

theorem PackerOk.takeSeq (h : PackerOk c p) (t : Time) (b : RecordBody) : PackerOk c (Machine.takeSeq p t b).1 :=
  h.of rfl rfl

theorem PackerOk.takeGap (h : PackerOk c p) : PackerOk c (Machine.takeGap p).1 := h.of rfl rfl

theorem PackerOk.putSlot (h : PackerOk c p) (i : BufId) : PackerOk c (Machine.putSlot i p) :=
  (h.putRecords i p.slot).of rfl rfl

theorem PackerOk.putGap (h : PackerOk c p) (i : BufId) : PackerOk c (Machine.putGap i p) := by
  unfold Machine.putGap
  split
  · exact h
  · exact (h.takeGap.putRecord _ _).dropTally

theorem PackerOk.openBuf (h : PackerOk c p) (n : Nat) (i : BufId) : PackerOk c (Machine.openBuf n i p) :=
  (((h.setBuf _ i).putSlot i).putGap i).of rfl rfl

theorem PackerOk.closeIfEnded (h : PackerOk c p) (i : BufId) : PackerOk c (Machine.closeIfEnded i p) := by
  unfold Machine.closeIfEnded
  split
  · exact h.closeBuf _
  · exact h

theorem PackerOk.findRoom (h : PackerOk c p) (n z : Nat) : PackerOk c (Machine.findRoom n z p).1 := by
  unfold Machine.findRoom
  split
  · split
    · exact h
    · simp only
      split
      · exact (h.closeBuf _).openBuf _ _
      · exact h.closeBuf _
  · split
    · exact h.openBuf _ _
    · exact h

theorem PackerOk.loseCapture (h : PackerOk c p) (t : Time) : PackerOk c (Machine.loseCapture t p) := by
  unfold Machine.loseCapture
  simp only
  split <;> exact ⟨h.1, fun _ => bump_le _⟩

theorem PackerOk.packCapture (h : PackerOk c p) (n : Nat) (r : Result) (x : Captured) :
    PackerOk c (Machine.packCapture n r x p).1 := by
  unfold Machine.packCapture
  split
  · simp only
    split
    · exact (h.findRoom _ _).loseCapture _
    · split
      · exact (((h.findRoom _ _).takeSeq _ _).putRecord _ _).dropTally
      · exact (h.findRoom _ _).loseCapture _
  · exact h.loseCapture _

theorem PackerOk.reserveGap (h : PackerOk c p) : PackerOk c (Machine.reserveGap p).1 := by
  unfold Machine.reserveGap
  split
  · exact h
  · exact h.takeGap

theorem PackerOk.packRunStart (h : PackerOk c p) (n r : Nat) : PackerOk c (Machine.packRunStart n r p) := by
  have h1 : PackerOk c (Machine.findRoom n 16 { p with run := r, gateOpen := true }).1 :=
    PackerOk.findRoom (p := { p with run := r, gateOpen := true }) (h.of rfl rfl) _ _
  unfold Machine.packRunStart
  simp only
  split
  · exact ((h1.takeSeq _ _).putRecord _ _).dropTally
  · apply PackerOk.dropTally
    exact ⟨h1.reserveGap.1, h1.reserveGap.2⟩

theorem PackerOk.packRunStop (h : PackerOk c p) (n r : Nat) (x : StopReason) :
    PackerOk c (Machine.packRunStop n r x p) := by
  have h1 : PackerOk c { p with gateOpen := false } := h.of rfl rfl
  unfold Machine.packRunStop
  simp only
  split
  · exact (((h1.reserveGap.takeSeq _ _).findRoom _ _).putRecords _ _).closeIfEnded _
  · exact ((h1.reserveGap.takeSeq _ _).findRoom _ _).of rfl rfl

theorem PackerOk.packTimeSet (h : PackerOk c p) (n : Nat) (t : Time) : PackerOk c (Machine.packTimeSet n t p) := by
  unfold Machine.packTimeSet
  simp only
  split
  · exact h.of rfl rfl
  · exact ((((h.findRoom _ _).takeSeq _ _).putRecord _ _).dropTally).of rfl rfl

theorem PackerOk.takeBuf (h : PackerOk c p) (i : BufId) : PackerOk c (Machine.takeBuf i p) :=
  (h.setBuf { getBuf p i with state := .writing } i).of rfl rfl

theorem PackerOk.returnBuf (h : PackerOk c p) (n : Nat) (i : BufId) : PackerOk c (Machine.returnBuf n i p) := by
  unfold Machine.returnBuf
  simp only
  split
  · exact h.setBuf _ _
  · exact ((h.setBuf _ _).openBuf _ _).closeIfEnded _

end Packing

/-! ### Sessions -/

/-- A session changed in a way that does not raise its credit. -/
theorem Kept.sessionChangeBy (h : Kept s0 s) {i : SessionId} {f : Session → Session}
    (hf : ∀ x : Session, (f x).credit ≤ x.credit) : Kept s0 (Machine.sessionChange i f s) :=
  h.setSession (fun hk => Nat.le_trans (hf _) (h.session i hk))

@[simp] theorem Kept.sessionChange (h : Kept s0 s) {i : SessionId} {f : Session → Session}
    (hf : ∀ x : Session, (f x).credit = x.credit) : Kept s0 (Machine.sessionChange i f s) :=
  h.sessionChangeBy (fun x => Nat.le_of_eq (hf x))

@[simp] theorem Kept.dropOpenCount (h : Kept s0 s) {x : Session} : Kept s0 (Machine.dropOpenCount x s) := by
  unfold Machine.dropOpenCount
  split <;> simp [h]

@[simp] theorem Kept.freeIfDone (h : Kept s0 s) {i : SessionId} : Kept s0 (Machine.freeIfDone i s) := by
  unfold Machine.freeIfDone
  simp only
  split
  · exact h.setSession (fun _ => by decide)
  · exact h

@[simp] theorem Kept.placeEnd (h : Kept s0 s) {i : SessionId} : Kept s0 (Machine.placeEnd i s) := by
  unfold Machine.placeEnd
  dsimp only
  have h1 : ∀ (p : Port) (w : Producer) (b : Bytes) (o : Session → Offered),
      Kept s0 (Machine.sessionChange i (fun y => { y with endReason := none, offered := o y })
        (Machine.offerLocal p w b s).1) :=
    fun _ _ _ _ => h.offerLocal.sessionChange (fun _ => rfl)
  split
  · exact h.freeIfDone
  · split
    · split
      · exact (h1 _ _ _ Session.offered).freeIfDone
      · exact h1 _ _ _ (fun _ => .endFrame)
      · exact (h1 _ _ _ Session.offered).freeIfDone
    · exact h

@[simp] theorem Kept.closeSession (h : Kept s0 s) {i : SessionId} : Kept s0 (Machine.closeSession i s) := by
  unfold Machine.closeSession
  exact h.dropOpenCount.sessionChange (fun _ => rfl)

@[simp] theorem Kept.withdrawData (h : Kept s0 s) {i : SessionId} : Kept s0 (Machine.withdrawData i s) := by
  unfold Machine.withdrawData
  split
  · exact h.withdraw
  · exact h

@[simp] theorem Kept.endSession (h : Kept s0 s) {i : SessionId} {w : EndReason} :
    Kept s0 (Machine.endSession i w s) := by
  unfold Machine.endSession
  split
  · apply Kept.placeEnd
    exact h.closeSession.withdrawData.sessionChange (fun _ => rfl)
  · exact h

@[simp] theorem Kept.loseSession (h : Kept s0 s) {i : SessionId} : Kept s0 (Machine.loseSession i s) := by
  unfold Machine.loseSession
  dsimp only
  have h1 : Kept s0 (if sessionOpen (s.session i) then Machine.closeSession i s else s) := by
    split <;> simp [h]
  generalize (if sessionOpen (s.session i) then Machine.closeSession i s else s) = u at h1 ⊢
  split
  · exact h
  · apply Kept.freeIfDone
    apply Kept.sessionChange
    · exact h1
    · exact fun _ => rfl

theorem moveCursor_credit (x : Session) (p b : Nat) : (moveCursor x p b).credit = x.credit := by
  unfold moveCursor
  split <;> rfl

/-- The credit of the session that a fetch step decides on. -/
def fetchCredit : Fetch → Nat
  | .finish x _ => x.credit
  | .follow x => x.credit
  | .read x _ _ => x.credit

theorem recordingFetch_credit (l : LogManager) (e : Entry) (x : Session) :
    fetchCredit (recordingFetch l e x) = x.credit := by
  unfold recordingFetch
  split
  · rfl
  · simp only
    split <;> (split <;> (try split) <;> simp [fetchCredit, moveCursor_credit])

theorem liveFetch_credit (l : LogManager) (n : Nat) (x : Session) : fetchCredit (liveFetch l n x) = x.credit := by
  induction n generalizing x with
  | zero => rfl
  | succ n ih =>
    unfold liveFetch
    split
    · rfl
    · split
      · split <;> rfl
      · split
        · rfl
        · rfl
        · rename_i b bound _
          have h1 : (if x.block = some b then { x with bound := bound }
              else { x with block := some b, page := 0, bound := bound }).credit = x.credit := by
            split <;> rfl
          simp only
          generalize (if x.block = some b then { x with bound := bound }
              else { x with block := some b, page := 0, bound := bound }) = y at h1 ⊢
          split
          · rw [ih]
            exact h1
          · exact h1

@[simp] theorem Kept.fetchStep (h : Kept s0 s) {i : SessionId} : Kept s0 (Machine.fetchStep i s) := by
  unfold Machine.fetchStep
  simp only
  have key : fetchCredit (if (s.session i).source = 0 then liveFetch s.log (s.log.history.length + 3) (s.session i)
      else match findEntry s.dir (s.session i).source with
        | none => .finish (s.session i) .endOfData
        | some e => recordingFetch s.log e (s.session i)) = (s.session i).credit := by
    split
    · exact liveFetch_credit _ _ _
    · split
      · rfl
      · exact recordingFetch_credit _ _ _
  generalize (if (s.session i).source = 0 then liveFetch s.log (s.log.history.length + 3) (s.session i)
      else match findEntry s.dir (s.session i).source with
        | none => .finish (s.session i) .endOfData
        | some e => recordingFetch s.log e (s.session i)) = f at key
  have hu : ∀ x : Session, x.credit = (s.session i).credit → Kept s0 (s.setSession i x) :=
    fun x hx => h.setSession (fun hk => hx ▸ h.session i hk)
  cases f with
  | finish y w => exact (hu y key).endSession
  | follow y => exact hu _ key
  | read y b p =>
    have h1 : Kept s0 (Machine.arrayAsk (.session i) (.read b p)
        (s.setSession i { y with state := .fetching, reading := true })).1 := by
      apply Kept.arrayAsk
      exact hu _ key
    dsimp only
    split
    · exact h1
    · exact h1.sessionChange (fun _ => rfl)
    · apply Kept.endSession
      exact h1.sessionChange (fun _ => rfl)

theorem afterFrame_credit (x : Session) : (afterFrame x).credit = x.credit := by
  unfold afterFrame
  split <;> rfl

theorem Kept.spend (h : Kept s0 s) {i : SessionId} {n m : Nat} :
    Kept s0 (Machine.sessionChange i (fun y => afterFrame (spendCredit n m y)) s) :=
  h.sessionChangeBy (fun x => by
    rw [afterFrame_credit]
    exact Nat.sub_le _ _)

theorem Kept.spendLate (h : Kept s0 s) {i : SessionId} {n m : Nat} :
    Kept s0 (Machine.sessionChange i (fun y => spendCredit n m y) s) :=
  h.sessionChangeBy (fun _ => Nat.sub_le _ _)

theorem Kept.deliver (h : Kept s0 s) {i : SessionId} {n : Nat} : Kept s0 (Machine.deliver i n s) := by
  induction n generalizing s with
  | zero => exact h
  | succ n ih =>
    unfold Machine.deliver
    simp only
    split
    · split
      · split
        · exact h.offerLocal.spend.fetchStep
        · exact ih h.offerLocal.spend
      · simp [h]
      · simp [h]
    · exact h

@[simp] theorem Kept.deliverAll (h : Kept s0 s) {i : SessionId} : Kept s0 (Machine.deliverAll i s) := h.deliver

@[simp] theorem Kept.sessionPlace (h : Kept s0 s) {i : SessionId} : Kept s0 (Machine.sessionPlace i s) := by
  unfold Machine.sessionPlace
  split <;> simp [h]

@[simp] theorem Kept.replySeen (h : Kept s0 s) {i : SessionId} : Kept s0 (Machine.replySeen i s) := by
  unfold Machine.replySeen
  split
  · exact h
  · apply Kept.sessionPlace
    exact h.sessionChange (fun _ => rfl)

@[simp] theorem Kept.sessionEntered (h : Kept s0 s) {p : Port} {i : SessionId} {w : Bool} :
    Kept s0 (Machine.sessionEntered p i w s) := by
  unfold Machine.sessionEntered
  dsimp only
  split
  · exact h
  · split
    · exact h.sessionPlace
    · split
      · exact h.sessionPlace
      · apply Kept.freeIfDone
        exact h.sessionChange (fun _ => rfl)
    · split
      · exact h.spendLate.sessionPlace
      · split
        · exact h.spend.fetchStep
        · exact h.spend.deliverAll

@[simp] theorem Kept.sessionWithdrawn (h : Kept s0 s) {p : Port} {i : SessionId} :
    Kept s0 (Machine.sessionWithdrawn p i s) := by
  unfold Machine.sessionWithdrawn
  split
  · exact h
  · split
    · apply Kept.sessionPlace
      exact h.sessionChange (fun _ => rfl)
    · exact h.sessionPlace

theorem takePage_credit (x : Session) (r : ReadResult) : (takePage x r).credit = x.credit := by
  unfold takePage
  split <;> rfl

@[simp] theorem Kept.sessionRead (h : Kept s0 s) {i : SessionId} {r : ReadResult} :
    Kept s0 (Machine.sessionRead i r s) := by
  unfold Machine.sessionRead
  have h1 : Kept s0 (Machine.sessionChange i (fun y => { y with reading := false }) s) := h.sessionChange (fun _ => rfl)
  have h2 : ∀ y : Session, y.credit = (takePage ((Machine.sessionChange i (fun y => { y with reading := false })
      s).session i) r).credit → Kept s0 ((Machine.sessionChange i (fun y => { y with reading := false })
      s).setSession i y) :=
    fun y hy => h1.setSession (fun hk => by
      rw [hy, takePage_credit]
      exact h1.session i hk)
  simp only
  split
  · split
    · exact h1.endSession
    · split
      · exact (h2 _ rfl).fetchStep
      · split
        · exact h2 _ rfl
        · exact Kept.deliverAll (h2 { takePage _ r with state := .delivering } rfl)
  · exact h1.freeIfDone

theorem Kept.wakeSession (h : Kept s0 s) {i : SessionId} : Kept s0 (Machine.wakeSession i s) := by
  unfold Machine.wakeSession
  simp only
  split <;> simp [h]

theorem Kept.overtakeSession (h : Kept s0 s) {a b : Nat} {i : SessionId} :
    Kept s0 (Machine.overtakeSession a b i s) := by
  unfold Machine.overtakeSession
  simp only
  split <;> simp [h]

@[simp] theorem Kept.wakeSessions (h : Kept s0 s) : Kept s0 (Machine.wakeSessions s) := h.wakeSession.wakeSession

@[simp] theorem Kept.announceBlock (h : Kept s0 s) {a b : Nat} : Kept s0 (Machine.announceBlock a b s) :=
  h.overtakeSession.overtakeSession

theorem Kept.openSession (h : Kept s0 s) {i : SessionId} {o : OpenParams} {src : Byte} {p : Port}
    {e : Option Entry} {f : Nat} (ho : o.credit ≤ 16) : Kept s0 (Machine.openSession i o src p e f s) := by
  unfold Machine.openSession
  simp only
  apply Kept.fetchStep
  apply Kept.setSession
  · split <;> simp [h]
  · intro _
    simp only [openedSession]
    omega

/-! ### Management Unit -/

theorem cacheStore_length (l : List CacheEntry) (x : CacheEntry) (h : l.length ≤ 8) :
    (cacheStore l x).length ≤ 8 := by
  unfold cacheStore
  simp only
  split
  · rename_i h1
    simp [Config.cachePlaces] at *
    omega
  · have : (l.filter (fun y => decide (y.station ≠ x.station))).length ≤ 8 :=
      Nat.le_trans (List.length_filter_le _ _) h
    rw [List.length_append, List.length_drop]
    simp at *
    omega

theorem noRepeats_iff (l : List Byte) : noRepeats l = true ↔ l.Nodup := by
  induction l with
  | nil => simp [noRepeats]
  | cons a l ih => simp [noRepeats, ih, List.nodup_cons]

theorem cacheStore_stations (l : List CacheEntry) (x : CacheEntry)
    (h : noRepeats (l.map CacheEntry.station) = true) :
    noRepeats ((cacheStore l x).map CacheEntry.station) = true := by
  rw [noRepeats_iff] at *
  have h1 : ((l.filter (fun y => decide (y.station ≠ x.station))).map CacheEntry.station).Nodup :=
    h.sublist (List.filter_sublist.map _)
  have h3 : x.station ∉ (l.filter (fun y => decide (y.station ≠ x.station))).map CacheEntry.station := by simp
  unfold cacheStore
  simp only
  generalize l.filter (fun y => decide (y.station ≠ x.station)) = k at h1 h3 ⊢
  have h2 : ((if k.length < Config.cachePlaces then k else k.drop 1).map CacheEntry.station).Nodup
      ∧ x.station ∉ (if k.length < Config.cachePlaces then k else k.drop 1).map CacheEntry.station := by
    split
    · exact ⟨h1, h3⟩
    · exact ⟨h1.sublist ((List.drop_sublist _ _).map _), fun h4 => h3 (((List.drop_sublist _ _).map _).subset h4)⟩
  simp only [List.map_append, List.map_cons, List.map_nil]
  rw [List.nodup_append]
  refine ⟨h2.1, by simp, ?_⟩
  intro a ha b hb
  simp at hb
  subst hb
  intro h5
  subst h5
  exact h2.2 ha

theorem MgmtOk.cacheStored {q v c : Prop} {m : Management} (h : MgmtOk q v c m) (x : CacheEntry) :
    MgmtOk q v c { m with cache := Machine.cacheStore m.cache x } :=
  { h with
    cache := fun hq => cacheStore_length _ _ (h.cache hq)
    stations := fun hq => cacheStore_stations _ _ (h.stations hq) }

theorem MgmtOk.withCurrent {q v c : Prop} {m : Management} (h : MgmtOk q v c m) (x : Option Current) :
    MgmtOk q v c { m with current := x } := { h with }

@[simp] theorem Kept.setStage (h : Kept s0 s) {c : Current} {st : ExecStage} : Kept s0 (Machine.setStage c st s) :=
  h.setMgmt (h.mgmt.withCurrent _)

@[simp] theorem Kept.clearCurrent (h : Kept s0 s) : Kept s0 (Machine.clearCurrent s) :=
  h.setMgmt (h.mgmt.withCurrent _)

theorem Kept.responseEntered (h : Kept s0 s) {c : Current} {n : Nat} {b : Bytes} {st : Bool}
    {op : Option SessionId} {r : Bool} : Kept s0 (Machine.responseEntered c n b st op r s).1 := by
  unfold Machine.responseEntered
  have h1 : Kept s0 (if st = true then
      s.setMgmt { s.mgmt with cache := cacheStore s.mgmt.cache (cacheEntryOf c.req b) } else s) := by
    split
    · exact h.setMgmt (h.mgmt.cacheStored _)
    · exact h
  simp only
  (repeat' split) <;> simp_all

theorem Kept.offerResponse (h : Kept s0 s) {c : Current} {b : Bytes} {st : Bool} {op : Option SessionId} {r : Bool} :
    Kept s0 (Machine.offerResponse c b st op r s).1 := by
  unfold Machine.offerResponse
  simp only
  split
  · exact h.offerLocal.responseEntered
  · exact h.offerLocal.setStage
  · exact h.offerLocal.setStage

theorem Kept.countDenied (h : Kept s0 s) {st : Status} : Kept s0 (Machine.countDenied st s) := by
  unfold Machine.countDenied
  split
  · exact h.setMgmt { h.mgmt with denied := fun _ => bump_le _ }
  · exact h

theorem Kept.runRequests (h : Kept s0 s) {n : Nat} : Kept s0 (Machine.runRequests n s) := by
  induction n generalizing s with
  | zero => exact h
  | succ n ih =>
    unfold Machine.runRequests
    split
    · exact h
    · rename_i r rest hq
      have h1 : Kept s0 (s.setMgmt { s.mgmt with queue := rest, current := some { req := r, stage := .handed } }) := by
        apply h.setMgmt
        have h4 : QueuesBounded s0 → rest.length ≤ 4 := fun hb => by
          have := h.mgmt.queue hb
          rw [hq] at this
          simp at this
          omega
        exact { h.mgmt with queue := h4 }
      simp only
      generalize s.setMgmt { s.mgmt with queue := rest, current := some { req := r, stage := .handed } } = u at h1 ⊢
      split
      · exact h1
      · have h2 : Kept s0 (u.setMgmt { u.mgmt with duplicates := bump u.mgmt.duplicates }) :=
          h1.setMgmt { h1.mgmt with duplicates := fun _ => bump_le _ }
        split
        · exact ih h2.offerResponse
        · exact h2.offerResponse
      · split
        · exact ih h1.countDenied.offerResponse
        · exact h1.countDenied.offerResponse

@[simp] theorem Kept.nextRequest (h : Kept s0 s) : Kept s0 (Machine.nextRequest s) := h.runRequests

theorem Kept.thenNext {x : State × Bool} (h : Kept s0 x.1) : Kept s0 (Machine.thenNext x) := by
  unfold Machine.thenNext
  split <;> simp [h]

@[simp] theorem Kept.answerWith (h : Kept s0 s) {st : Status} {b : Bytes} {o : Option SessionId} {r : Bool} :
    Kept s0 (Machine.answerWith st b o r s) := by
  unfold Machine.answerWith
  split
  · exact h
  · exact h.offerResponse.thenNext

@[simp] theorem Kept.respond (h : Kept s0 s) {st : Status} {b : Bytes} : Kept s0 (Machine.respond st b s) :=
  h.answerWith

@[simp] theorem Kept.mgmtEntered (h : Kept s0 s) {n : Nat} : Kept s0 (Machine.mgmtEntered n s) := by
  unfold Machine.mgmtEntered
  split
  · exact h
  · split
    · split
      · exact h.responseEntered.thenNext
      · exact h
    · exact h

@[simp] theorem Kept.awaitStore (h : Kept s0 s) : Kept s0 (Machine.awaitStore s) := by
  unfold Machine.awaitStore
  split <;> simp [h]

@[simp] theorem Kept.discardArrival (h : Kept s0 s) : Kept s0 (Machine.discardArrival s) :=
  h.setMgmt { h.mgmt with discarded := fun _ => bump_le _ }

@[simp] theorem Kept.joinQueue (h : Kept s0 s) {r : Request} : Kept s0 (Machine.joinQueue r s) := by
  unfold Machine.joinQueue
  split
  · rename_i hl
    have h4 : (s.mgmt.queue ++ [r]).length ≤ 4 := by
      simp [Config.requestPlaces] at hl ⊢
      omega
    have h1 : Kept s0 (s.setMgmt { s.mgmt with queue := s.mgmt.queue ++ [r] }) :=
      h.setMgmt { h.mgmt with queue := fun _ => h4 }
    simp only
    split
    · exact h1.nextRequest
    · exact h1
  · exact h.discardArrival

@[simp] theorem Kept.joinCached (h : Kept s0 s) {r : Request} {x : CacheEntry} : Kept s0 (Machine.joinCached r x s) := by
  unfold Machine.joinCached
  split
  · exact (h.setMgmt (h.mgmt.cacheStored x)).joinQueue
  · simp [h]

@[simp] theorem Kept.arrive (h : Kept s0 s) {p : Port} {b : Bytes} : Kept s0 (Machine.arrive p b s) := by
  unfold Machine.arrive
  dsimp only
  (repeat' split) <;> first | exact h.discardArrival | exact h.joinCached | exact h.joinQueue

/-! ### Notice Unit -/

theorem Kept.offerHead (h : Kept s0 s) (ha : AttemptsBounded s0 → s.notice.attempts < 4) :
    Kept s0 (Machine.offerHead s) := by
  unfold Machine.offerHead
  split
  · exact h
  · simp only
    split
    · exact h.setNotice { h.notice with onWay := fun hb _ _ => ha hb }
    · exact h.offerLocal.setNotice { h.notice with onWay := fun hb _ _ => ha hb }

theorem Kept.sendHead (h : Kept s0 s) (ha : AttemptsBounded s0 → s.notice.attempts < 4) :
    Kept s0 (Machine.sendHead s) := by
  unfold Machine.sendHead
  split
  · exact h
  · split
    · exact h.offerHead ha
    · exact h.setNotice { h.notice with onWay := fun _ _ hq => by simp at hq }

/-- A notice has become the head: only what remains once its attempts are 0 is asked. -/
theorem Kept.beginHeadOf (h : Kept s0 (s.setNotice { s.notice with attempts := 0, carried := 0 })) :
    Kept s0 (Machine.beginHead s) := h.sendHead (fun _ => Nat.zero_lt_succ 3)

@[simp] theorem Kept.popHead (h : Kept s0 s) : Kept s0 (Machine.popHead s) := by
  apply Kept.beginHeadOf
  apply h.setNotice
  exact ⟨h.notice.settings, fun hq => by
    have := h.notice.queue hq
    simp
    omega, fun _ => Nat.zero_le _, fun _ _ _ => Nat.zero_lt_succ 3, h.notice.dropped, h.notice.discarded⟩

@[simp] theorem Kept.dropHead (h : Kept s0 s) : Kept s0 (Machine.dropHead s) := by
  apply Kept.popHead
  exact h.setNotice { h.notice with dropped := fun _ => bump_le _ }

@[simp] theorem Kept.noticeKick (h : Kept s0 s) : Kept s0 (Machine.noticeKick s) := by
  unfold Machine.noticeKick
  split
  · rename_i hh
    exact h.offerHead (fun ha => h.notice.onWay ha hh.1 hh.2.1)
  · exact h

@[simp] theorem Kept.takeEvent (h : Kept s0 s) {e : Event} : Kept s0 (Machine.takeEvent e s) := by
  unfold Machine.takeEvent
  simp only
  split
  · exact h
  · split
    · exact h.setNotice { h.notice with discarded := fun _ => bump_le _ }
    · rename_i hq
      simp [Config.noticePlaces] at hq
      have hlen : (s.notice.queue ++ [({ num := s.notice.nextNumber, event := e } : Notice)]).length ≤ 8 := by
        simp
        omega
      split
      · apply Kept.beginHeadOf
        exact h.setNotice ⟨h.notice.settings, fun _ => hlen, fun _ => Nat.zero_le _,
          fun _ _ _ => Nat.zero_lt_succ 3, h.notice.dropped, h.notice.discarded⟩
      · rename_i hne
        exact h.setNotice { h.notice with queue := fun _ => hlen, onWay := fun ha _ => h.notice.onWay ha hne }

@[simp] theorem Kept.noticeEnding (h : Kept s0 s) {n : Nat} {b : Bool} : Kept s0 (Machine.noticeEnding n b s) := by
  unfold Machine.noticeEnding
  simp only
  split
  · rename_i hh
    split
    · exact h.setNotice { h.notice with
        attempts := fun ha => by
          have := h.notice.onWay ha hh.1 hh.2.1
          simp
          omega
        onWay := fun _ _ hq => by simp at hq }
    · exact h.setNotice { h.notice with onWay := fun _ _ hq => by simp at hq }
  · exact h.noticeKick

@[simp] theorem Kept.retryExpired (h : Kept s0 s) : Kept s0 (Machine.retryExpired s) := by
  unfold Machine.retryExpired
  simp only
  split
  · exact h
  · split
    · rename_i hh
      refine Kept.offerHead (h.setNotice ?_) (fun _ => hh)
      exact ⟨h.notice.settings, h.notice.queue, h.notice.attempts, h.notice.onWay, h.notice.dropped,
        h.notice.discarded⟩
    · exact h.dropHead

@[simp] theorem Kept.withdrawHead (h : Kept s0 s) {p : Port} : Kept s0 (Machine.withdrawHead p s) := h.withdraw

@[simp] theorem Kept.ackHead (h : Kept s0 s) : Kept s0 (Machine.ackHead s) := by
  unfold Machine.ackHead
  simp only
  apply Kept.popHead
  have h1 := h.withdrawHead (p := s.notice.settings.port)
  apply h1.setNotice
  exact ⟨h1.notice.settings, h1.notice.queue, h1.notice.attempts, h1.notice.onWay, h1.notice.dropped,
    h1.notice.discarded⟩

theorem Kept.putNotify (h : Kept s0 s) {x : NotifySettings} (hx : notifyValid x = true) :
    Kept s0 (Machine.putNotify x s) := by
  unfold Machine.putNotify
  simp only
  split
  · exact h.setNotice { h.notice with settings := fun _ => hx }
  · exact h.withdrawHead.setNotice { h.withdrawHead.notice with
      settings := fun _ => hx
      queue := by simp
      attempts := by simp
      onWay := by simp }

theorem NoticeOk.setLink {q v a c : Prop} {n : NoticeUnit} (h : NoticeOk q v a c n) (b : Bool) (p : Port) :
    NoticeOk q v a c (setNoticeLink n b p) := by
  cases p <;> exact { h with }

@[simp] theorem Kept.noticeDown (h : Kept s0 s) {p : Port} : Kept s0 (Machine.noticeDown p s) := by
  unfold Machine.noticeDown
  simp only
  have h1 := h.notice.setLink false p
  split
  · exact h.setNotice { h1 with onWay := fun _ _ hq => by simp at hq }
  · exact h.setNotice h1

@[simp] theorem Kept.noticeUp (h : Kept s0 s) {p : Port} : Kept s0 (Machine.noticeUp p s) := by
  unfold Machine.noticeUp
  simp only
  have h1 := h.setNotice (h.notice.setLink true p)
  split
  · split
    · exact h1.offerHead (fun _ => by simpa)
    · exact h1.dropHead
  · exact h1

@[simp] theorem Kept.tellEntered (h : Kept s0 s) {p : Port} {w : Waiter} : Kept s0 (Machine.tellEntered p w s) := by
  unfold Machine.tellEntered
  split <;> simp [h]

end Sys2Proof.Machine
end

