-- ==== Sys2Proof/Laws/KeptLog.lean ====
section
/-! SUPPORT. What the operations of the Journal Writer, the Capture Controller and the Log Manager keep. -/

namespace Sys2Proof.Machine

variable {s0 s : State}

/-! ### Journal Writer -/

theorem Kept.programJournal (h : Kept s0 s) {b p r x} : Kept s0 (Machine.programJournal b p r x s) := by
  unfold Machine.programJournal
  dsimp only
  repeat' (first | assumption | rfl | split | apply Kept.drawPageSeq | apply Kept.arrayAsk | apply Kept.setJrnl)

theorem Kept.beginCompaction (h : Kept s0 s) : Kept s0 (Machine.beginCompaction s) := by
  unfold Machine.beginCompaction
  dsimp only
  repeat' (first | assumption | rfl | split | apply Kept.arrayAsk | apply Kept.setJrnl)

theorem Kept.programCopy (h : Kept s0 s) : Kept s0 (Machine.programCopy s) := by
  unfold Machine.programCopy
  dsimp only
  repeat' (first | assumption | rfl | split | apply Kept.programJournal)

theorem Kept.serveJournal (h : Kept s0 s) {j} : Kept s0 (Machine.serveJournal j s) := by
  unfold Machine.serveJournal
  repeat' (first | assumption | rfl | split | apply Kept.beginCompaction | apply Kept.programJournal
                 | apply Kept.setJrnl)

theorem Kept.serveProfile (h : Kept s0 s) : Kept s0 (Machine.serveProfile s) := by
  unfold Machine.serveProfile
  repeat' (first | assumption | rfl | split | apply Kept.arrayAsk | apply Kept.setJrnl)

theorem Kept.serveJobs (h : Kept s0 s) : Kept s0 (Machine.serveJobs s) := by
  unfold Machine.serveJobs
  repeat' (first | assumption | rfl | split | apply Kept.serveJournal | apply Kept.serveProfile
                 | apply Kept.setJrnl)

theorem Kept.serveNext (h : Kept s0 s) : Kept s0 (Machine.serveNext s) := by
  unfold Machine.serveNext
  repeat' (first | assumption | rfl | split | apply Kept.serveJobs | apply Kept.setJrnl)

theorem Kept.endFaulted (h : Kept s0 s) {j} : Kept s0 (Machine.endFaulted j s) := by
  unfold Machine.endFaulted
  repeat' (first | assumption | rfl | split | apply Kept.respond)

theorem Kept.askJob (h : Kept s0 s) {j} : Kept s0 (Machine.askJob j s) := by
  unfold Machine.askJob
  dsimp only
  repeat' (first | assumption | rfl | split | apply Kept.endFaulted | apply Kept.serveJobs | apply Kept.setJrnl)

/-! ### Capture Controller -/

theorem Kept.offerRunStop (h : Kept s0 s) {r} : Kept s0 (Machine.offerRunStop r s) := by
  unfold Machine.offerRunStop
  exact (h.setPacker (h.packer.packRunStop _ _ _)).setCtl rfl rfl rfl rfl

theorem Kept.enterStopped (h : Kept s0 s) : Kept s0 (Machine.enterStopped s) := by
  unfold Machine.enterStopped
  repeat' (first | assumption | rfl | split | apply Kept.raiseEvent | apply Kept.setCtl)

theorem Kept.keptCheck (h : Kept s0 s) : Kept s0 (Machine.keptCheck s) := by
  unfold Machine.keptCheck
  repeat' (first | assumption | rfl | split | apply Kept.askJob | apply Kept.setCtl)

theorem Kept.endPosting (h : Kept s0 s) {w} : Kept s0 (Machine.endPosting w s) := by
  unfold Machine.endPosting
  dsimp only
  repeat' (first | assumption | rfl | split | apply Kept.keptCheck | apply Kept.setDir | apply Kept.setRaised
                 | apply Kept.setCtl)

theorem Kept.stopCapture (h : Kept s0 s) {r} : Kept s0 (Machine.stopCapture r s) := by
  unfold Machine.stopCapture
  repeat' (first | assumption | rfl | split | apply Kept.endPosting | apply Kept.enterStopped
                 | apply Kept.offerRunStop | apply Kept.setCtl)

theorem Kept.faultClose (h : Kept s0 s) : Kept s0 (Machine.faultClose s) := by
  unfold Machine.faultClose
  have key : ∀ t, Kept s0 t →
      Kept s0 (Machine.enterStopped (if t.ctl.stopReason = none then Machine.offerRunStop .fault t else t)) := by
    intro t ht
    split
    · exact ht.offerRunStop.enterStopped
    · exact ht.enterStopped
  split
  · exact h
  · dsimp only
    apply key
    repeat' (first | assumption | rfl | split | apply Kept.enterStopped | apply Kept.offerRunStop
                   | apply Kept.raiseEvent | apply Kept.setDir | apply Kept.setLog | apply Kept.setCtl)

theorem Kept.captureFault (h : Kept s0 s) : Kept s0 (Machine.captureFault s) := by
  unfold Machine.captureFault
  repeat' (first | assumption | rfl | split | apply Kept.faultClose | apply Kept.stopCapture)

theorem Kept.keptCommitted (h : Kept s0 s) {n} : Kept s0 (Machine.keptCommitted n s) := by
  unfold Machine.keptCommitted
  have key : ∀ t, Kept s0 t → Kept s0 (match t.ctl.target with
      | some .running =>
        if t.ctl.settings.rearm then
          t.setCtl { t.ctl with
            state := .running, target := none,
            holdoffTimer := if t.ctl.settings.holdoff = 0 then none else some t.ctl.settings.holdoff }
        else Machine.enterStopped (Machine.offerRunStop .singleShot t)
      | some .stopped => Machine.enterStopped t
      | none => Machine.enterStopped t) := by
    intro t ht
    split
    · split
      · exact ht.setCtl rfl rfl rfl rfl
      · exact ht.offerRunStop.enterStopped
    · exact ht.enterStopped
    · exact ht.enterStopped
  split
  · exact h
  · split
    · dsimp only
      apply key
      repeat' (first | assumption | rfl | apply Kept.raiseEvent | apply Kept.setDir | apply Kept.setLog
                     | apply Kept.setCtl)
    · exact h

theorem Kept.capturingCommitted (h : Kept s0 s) {n} : Kept s0 (Machine.capturingCommitted n s) := by
  unfold Machine.capturingCommitted
  repeat' (first | assumption | rfl | split | apply Kept.keptCheck | apply Kept.raiseEvent)

/-- A run of changes of the Log Manager that leaves its counters. -/
theorem Kept.foldLog (h : Kept s0 s) {f : LogManager → Nat → LogManager}
    (hf : ∀ l b, (f l b).pagesCommitted = l.pagesCommitted ∧ (f l b).programFailures = l.programFailures
      ∧ (f l b).eraseFailures = l.eraseFailures) (bs : List Nat) : Kept s0 (s.setLog (bs.foldl f s.log)) := by
  have key : ∀ l : LogManager, (bs.foldl f l).pagesCommitted = l.pagesCommitted
      ∧ (bs.foldl f l).programFailures = l.programFailures ∧ (bs.foldl f l).eraseFailures = l.eraseFailures := by
    induction bs with
    | nil => exact fun l => ⟨rfl, rfl, rfl⟩
    | cons b bs ih =>
      intro l
      have h1 := ih (f l b)
      have h2 := hf l b
      exact ⟨h1.1.trans h2.1, h1.2.1.trans h2.2.1, h1.2.2.trans h2.2.2⟩
  exact h.setLog (key s.log).1 (key s.log).2.1 (key s.log).2.2

theorem Kept.takeTrigger (h : Kept s0 s) {t} : Kept s0 (Machine.takeTrigger t s) := by
  unfold Machine.takeTrigger
  dsimp only
  have h1 := h.foldLog (f := raiseHold) (fun _ _ => ⟨rfl, rfl, rfl⟩) (triggerBlocks s)
  apply Kept.askJob
  apply Kept.setCtlOk
  · apply Kept.setLogOk h.setDir
    exact ⟨h1.log.1, h1.log.2, h1.log.3⟩
  · exact ⟨h.ctl.settings, fun _ => bump_le _, h.ctl.ignored, h.ctl.refused⟩

theorem Kept.takeMark (h : Kept s0 s) {t} : Kept s0 (Machine.takeMark t s) := by
  unfold Machine.takeMark
  split
  · exact h
  · exact h.setCtlOk { h.ctl with ignored := fun _ => bump_le _ }
  · apply Kept.raiseEvent
    exact h.setCtlOk { h.ctl with refused := fun _ => bump_le _ }
  · exact h.takeTrigger

theorem Kept.packed (h : Kept s0 s) {n} : Kept s0 (Machine.packed n s) := by
  unfold Machine.packed
  dsimp only
  repeat' (first | assumption | rfl | split | apply Kept.endPosting | apply Kept.stopCapture)

theorem Kept.startCapture (h : Kept s0 s) : Kept s0 (Machine.startCapture s).1 := by
  unfold Machine.startCapture
  split
  · exact h
  · split
    · exact h
    · split
      · exact h
      · simp only
        apply Kept.packed
        exact (h.setPacker (h.packer.packRunStart _ _)).setCtl rfl rfl rfl rfl

theorem Kept.offerBlock (h : Kept s0 s) {b} : Kept s0 (Machine.offerBlock b s) := by
  unfold Machine.offerBlock
  dsimp only
  repeat' (first | assumption | rfl | split | apply Kept.endPosting | apply Kept.setDir | apply Kept.setLog)

/-! ### Log Manager -/

theorem Kept.logFault (h : Kept s0 s) {c} : Kept s0 (Machine.logFault c s) := by
  unfold Machine.logFault
  repeat' (first | assumption | rfl | split | apply Kept.captureFault | apply Kept.raiseEvent
                 | apply Kept.setLog)

theorem Kept.addRetired (h : Kept s0 s) {b c} : Kept s0 (Machine.addRetired b c s) := by
  unfold Machine.addRetired
  dsimp only
  repeat' (first | assumption | rfl | split | apply Kept.askJob | apply Kept.logFault | apply Kept.raiseEvent
                 | apply Kept.setLog)

theorem Kept.announceChoice (h : Kept s0 s) {l b} : Kept s0 (Machine.announceChoice l b s) := by
  unfold Machine.announceChoice
  repeat' (first | assumption | rfl | split | apply Kept.announceBlock)

theorem Kept.searchErase (h : Kept s0 s) : Kept s0 (Machine.searchErase s) := by
  unfold Machine.searchErase
  repeat' (first | assumption | rfl | split | apply Kept.announceChoice | apply Kept.arrayAsk
                 | apply Kept.setLog)

theorem Kept.handIn (h : Kept s0 s) {i b} : Kept s0 (Machine.handIn i b s) := by
  unfold Machine.handIn
  simp only
  have h1 := h.drawPageSeq
  apply Kept.arrayAsk
  refine Kept.setLog (h1.setPacker ?_) rfl rfl rfl
  split
  · exact h.packer.takeBuf _
  · exact h.packer

theorem Kept.leaveActive (h : Kept s0 s) : Kept s0 (Machine.leaveActive s) := by
  unfold Machine.leaveActive
  repeat' (first | assumption | rfl | split | apply Kept.addRetired | apply Kept.setLog)

theorem Kept.makeActive (h : Kept s0 s) {b} : Kept s0 (Machine.makeActive b s) := by
  unfold Machine.makeActive
  repeat' (first | assumption | rfl | split | apply Kept.setLog)

theorem Kept.blockChange (h : Kept s0 s) {b} : Kept s0 (Machine.blockChange b s) := by
  unfold Machine.blockChange
  dsimp only
  repeat' (first | assumption | rfl | split | apply Kept.leaveActive | apply Kept.makeActive
                 | apply Kept.offerBlock | apply Kept.searchErase)

theorem Kept.noPage (h : Kept s0 s) : Kept s0 (Machine.noPage s) := by
  unfold Machine.noPage
  repeat' (first | assumption | rfl | split | apply Kept.raiseEvent | apply Kept.setLog)

theorem Kept.handWaiting (h : Kept s0 s) {i} : Kept s0 (Machine.handWaiting i s) := by
  unfold Machine.handWaiting
  repeat' (first | assumption | rfl | split | apply Kept.handIn)

theorem Kept.logKick (h : Kept s0 s) : Kept s0 (Machine.logKick s) := by
  unfold Machine.logKick
  repeat' (first | assumption | rfl | split | apply Kept.blockChange | apply Kept.handWaiting
                 | apply Kept.noPage)

theorem Kept.returnWriting (h : Kept s0 s) : Kept s0 (Machine.returnWriting s) := by
  unfold Machine.returnWriting
  split
  · exact h
  · exact (h.setPacker (h.packer.returnBuf _ _)).packed

theorem Kept.raiseResumed (h : Kept s0 s) {q} : Kept s0 (Machine.raiseResumed q s) := by
  unfold Machine.raiseResumed
  repeat' (first | assumption | rfl | split | apply Kept.raiseEvent | apply Kept.setLog)

theorem noteFirst_log (l b h) : (noteFirst l b h).pagesCommitted = l.pagesCommitted
    ∧ (noteFirst l b h).programFailures = l.programFailures ∧ (noteFirst l b h).eraseFailures = l.eraseFailures := by
  unfold noteFirst
  split <;> exact ⟨rfl, rfl, rfl⟩

theorem Kept.logCommitted (h : Kept s0 s) {b d} : Kept s0 (Machine.logCommitted b d s) := by
  unfold Machine.logCommitted
  simp only
  obtain ⟨_, h2, h3⟩ := noteFirst_log s.log b d
  have h1 : Kept s0 (s.setLog { noteFirst s.log b d with
      nextPage := s.log.nextPage + 1, lastCommitted := d.firstSeq + d.count - 1,
      pagesCommitted := bump s.log.pagesCommitted }) :=
    h.setLogOk ⟨fun _ => bump_le _, h2 ▸ h.log.2, h3 ▸ h.log.3⟩
  repeat' (first | assumption | rfl | split | apply Kept.keptCheck | apply Kept.logKick
                 | apply Kept.raiseResumed | apply Kept.returnWriting | apply Kept.wakeSessions
                 | apply Kept.setLog)

theorem Kept.logFailed (h : Kept s0 s) : Kept s0 (Machine.logFailed s) := by
  unfold Machine.logFailed
  apply Kept.logKick
  exact h.setLogOk ⟨h.log.1, fun _ => bump_le _, h.log.3⟩

theorem Kept.eraseAheadErased (h : Kept s0 s) {b} : Kept s0 (Machine.eraseAheadErased b s) := by
  unfold Machine.eraseAheadErased
  repeat' (first | assumption | rfl | split | apply Kept.logKick | apply Kept.setLog)

theorem Kept.eraseAheadFailed (h : Kept s0 s) {b} : Kept s0 (Machine.eraseAheadFailed b s) := by
  unfold Machine.eraseAheadFailed
  simp only
  have h1 : Kept s0 (s.setLog { setBlockState s.log b .retired with
      ahead := .none, eraseFailures := bump s.log.eraseFailures }) :=
    h.setLogOk ⟨h.log.1, h.log.2, fun _ => bump_le _⟩
  repeat' (first | assumption | rfl | split | apply Kept.addRetired | apply Kept.logKick
                 | apply Kept.searchErase | apply Kept.setLog)

theorem Kept.releaseClaim (h : Kept s0 s) {bs} : Kept s0 (Machine.releaseClaim bs s) := by
  unfold Machine.releaseClaim
  simp only
  have h1 := h.foldLog (f := lowerHold) (fun _ _ => ⟨rfl, rfl, rfl⟩) bs
  repeat' (first | assumption | rfl | split | apply Kept.logKick | apply Kept.searchErase | apply Kept.setLog)

/-! ### Results of the Journal Writer -/

theorem Kept.noteJournaled (h : Kept s0 s) {r} : Kept s0 (Machine.noteJournaled r s) := by
  unfold Machine.noteJournaled
  repeat' (first | assumption | rfl | split | apply Kept.setDir)

theorem Kept.releaseCommitted (h : Kept s0 s) {r} : Kept s0 (Machine.releaseCommitted r s) := by
  unfold Machine.releaseCommitted
  repeat' (first | assumption | rfl | split | apply Kept.releaseClaim | apply Kept.respond | apply Kept.setDir)

theorem Kept.freezeCommitted (h : Kept s0 s) {r} : Kept s0 (Machine.freezeCommitted r s) := by
  unfold Machine.freezeCommitted
  repeat' (first | assumption | rfl | split | apply Kept.respond | apply Kept.setDir)

theorem Kept.reportCommit (h : Kept s0 s) {r} : Kept s0 (Machine.reportCommit r s) := by
  unfold Machine.reportCommit
  repeat' (first | assumption | rfl | split | apply Kept.capturingCommitted | apply Kept.freezeCommitted
                 | apply Kept.keptCommitted | apply Kept.releaseCommitted)

theorem Kept.foldFault (js : List Job) : ∀ {s}, Kept s0 s → Kept s0 (js.foldl (fun t j => Machine.endFaulted j t) s) := by
  induction js with
  | nil => exact fun h => h
  | cons j js ih => exact fun h => ih h.endFaulted

theorem Kept.directoryFault (h : Kept s0 s) : Kept s0 (Machine.directoryFault s) := by
  unfold Machine.directoryFault
  simp only
  apply Kept.serveNext
  apply Kept.foldFault
  repeat' (first | assumption | rfl | split | apply Kept.endFaulted | apply Kept.logFault | apply Kept.serveNext
                 | apply Kept.setJrnl)

theorem Kept.compactAgain (h : Kept s0 s) : Kept s0 (Machine.compactAgain s) := by
  unfold Machine.compactAgain
  repeat' (first | assumption | rfl | split | apply Kept.beginCompaction | apply Kept.directoryFault)

theorem Kept.appendAgain (h : Kept s0 s) {j} : Kept s0 (Machine.appendAgain j s) := by
  unfold Machine.appendAgain
  repeat' (first | assumption | rfl | split | apply Kept.compactAgain | apply Kept.programJournal
                 | apply Kept.setJrnl)

theorem Kept.appendCommitted (h : Kept s0 s) {j} : Kept s0 (Machine.appendCommitted j s) := by
  unfold Machine.appendCommitted
  dsimp only
  repeat' (first | assumption | rfl | split | apply Kept.noteJournaled | apply Kept.reportCommit
                 | apply Kept.serveNext | apply Kept.setJrnl)

theorem Kept.countDirFailure (h : Kept s0 s) {x : JournalWriter} (hx : x.profFailures = s.jrnl.profFailures) :
    Kept s0 (s.setJrnl (Machine.countDirFailure x)) := h.setJrnlOk ⟨fun _ => bump_le _, hx ▸ h.jrnl.2⟩

theorem Kept.appendFailed (h : Kept s0 s) : Kept s0 (Machine.appendFailed s) := by
  unfold Machine.appendFailed
  repeat' (first | assumption | rfl | split | apply Kept.appendAgain | apply Kept.countDirFailure
                 | apply Kept.setJrnl)

theorem Kept.copyCommitted (h : Kept s0 s) {r} : Kept s0 (Machine.copyCommitted r s) := by
  unfold Machine.copyCommitted
  dsimp only
  repeat' (first | assumption | rfl | split | apply Kept.appendAgain | apply Kept.compactAgain
                 | apply Kept.noteJournaled | apply Kept.programCopy | apply Kept.setJrnl)

theorem Kept.copyFailed (h : Kept s0 s) : Kept s0 (Machine.copyFailed s) := by
  unfold Machine.copyFailed
  dsimp only
  repeat' (first | assumption | rfl | split | apply Kept.compactAgain | apply Kept.programCopy
                 | apply Kept.countDirFailure | apply Kept.setJrnl)

theorem Kept.compactErased (h : Kept s0 s) : Kept s0 (Machine.compactErased s) := by
  unfold Machine.compactErased
  repeat' (first | assumption | rfl | split | apply Kept.programCopy | apply Kept.setJrnl)

theorem Kept.endProfile (h : Kept s0 s) {a b} : Kept s0 (Machine.endProfile a b s) := by
  unfold Machine.endProfile
  repeat' (first | assumption | rfl | split | apply Kept.respond | apply Kept.serveNext | apply Kept.setJrnl)

theorem Kept.profileFailed (h : Kept s0 s) : Kept s0 (Machine.profileFailed s) := by
  unfold Machine.profileFailed
  apply Kept.endProfile
  exact h.setJrnlOk ⟨h.jrnl.1, fun _ => bump_le _⟩

theorem Kept.programProfile (h : Kept s0 s) {a b} : Kept s0 (Machine.programProfile a b s) := by
  unfold Machine.programProfile
  dsimp only
  repeat' (first | assumption | rfl | split | apply Kept.drawPageSeq | apply Kept.arrayAsk)

theorem Kept.profileErased (h : Kept s0 s) : Kept s0 (Machine.profileErased s) := by
  unfold Machine.profileErased
  repeat' (first | assumption | rfl | split | apply Kept.endProfile | apply Kept.programProfile
                 | apply Kept.arrayAsk | apply Kept.setJrnl)

theorem Kept.profileEraseFailed (h : Kept s0 s) : Kept s0 (Machine.profileEraseFailed s) := by
  unfold Machine.profileEraseFailed
  repeat' (first | assumption | rfl | split | apply Kept.profileFailed | apply Kept.setJrnl)

theorem Kept.profileCommitted (h : Kept s0 s) : Kept s0 (Machine.profileCommitted s) := by
  unfold Machine.profileCommitted
  repeat' (first | assumption | rfl | split | apply Kept.endProfile | apply Kept.programProfile
                 | apply Kept.setJrnl)

theorem Kept.journalProgrammed (h : Kept s0 s) {a b} : Kept s0 (Machine.journalProgrammed a b s) := by
  unfold Machine.journalProgrammed
  repeat' (first | assumption | rfl | split | apply Kept.appendCommitted | apply Kept.appendFailed
                 | apply Kept.copyCommitted | apply Kept.copyFailed | apply Kept.profileCommitted
                 | apply Kept.profileFailed)

theorem Kept.journalErased (h : Kept s0 s) {a} : Kept s0 (Machine.journalErased a s) := by
  unfold Machine.journalErased
  repeat' (first | assumption | rfl | split | apply Kept.compactErased | apply Kept.directoryFault
                 | apply Kept.profileEraseFailed | apply Kept.profileErased)

end Sys2Proof.Machine
end

