-- ==== Sys2Proof/Laws/KeptMount.lean ====
section
/-! SUPPORT. What the operations of the mount scan keep. -/

namespace Sys2Proof.Machine

variable {s0 s : State}

theorem Kept.scanAsk (h : Kept s0 s) {a b} : Kept s0 (Machine.scanAsk a b s) := by
  unfold Machine.scanAsk
  repeat' (first | with_reducible assumption | exact rfl | split | with_reducible apply Kept.arrayAsk
                 | apply Kept.setSeqr)

theorem Kept.setPhase (h : Kept s0 s) {a} : Kept s0 (Machine.setPhase a s) := by
  unfold Machine.setPhase
  repeat' (first | with_reducible assumption | exact rfl | split | apply Kept.setSeqr)

theorem readProfile_valid {r0 r1 g p} (h : readProfile r0 r1 = some (g, p)) : profileValid p = true := by
  unfold readProfile at h
  split at h
  · simp only at h
    split at h
    · rename_i hh
      simp only [Option.some.injEq, Prod.mk.injEq] at h
      obtain ⟨_, rfl⟩ := h
      exact hh.2.2.2.2
    · simp at h
  · simp at h

theorem chooseProfile_mem {p2 p3 b g p} (h : chooseProfile p2 p3 = some (b, g, p)) : p2 = some (g, p) ∨ p3 = some (g, p) := by
  unfold chooseProfile at h
  split at h
  · simp at h
  · simp at h
    left
    simp [h]
  · simp at h
    right
    simp [h]
  · split at h <;> simp at h
    · right
      simp [h]
    · left
      simp [h]

theorem Kept.installProfile (h : Kept s0 s) {b g p} (hp : profileValid p = true) : Kept s0 (Machine.installProfile b g p s) := by
  unfold Machine.installProfile
  simp [profileValid] at hp
  obtain ⟨⟨⟨⟨⟨h1, h2⟩, h3⟩, h4⟩, h5⟩, h6⟩ := hp
  apply Kept.setJrnlOk
  · apply Kept.setNotice
    · apply Kept.setMgmt
      · apply Kept.setCtlOk
        · apply Kept.setCls h
          refine ⟨fun _ => ?_, fun _ => ?_, fun _ => ?_, fun _ => h2, h.cls.defaultHits⟩
          · simpa [installRules, Config.ruleCount] using h5
          · intro r hr
            simp [installRules] at hr
            obtain ⟨q, hq, rfl⟩ := hr
            have := h6 q hq
            simp [profileRuleValid] at this
            exact this.1.1
          · intro r hr
            simp [installRules] at hr
            obtain ⟨q, hq, rfl⟩ := hr
            exact Nat.zero_le _
        · exact { h.ctl with settings := fun _ => h1 }
      · exact { h.mgmt with managers := fun _ => h3 }
    · exact { h.notice with settings := fun _ => h4 }
  · exact { h.jrnl with }

theorem Kept.endPhase1 (h : Kept s0 s) {g} : Kept s0 (Machine.endPhase1 g s) := by
  unfold Machine.endPhase1
  dsimp only
  apply Kept.scanAsk
  apply Kept.setPhase
  split
  · exact h
  · rename_i hc
    apply h.installProfile
    rcases chooseProfile_mem hc with h1 | h1 <;> exact readProfile_valid h1

theorem Kept.mountProfile (h : Kept s0 s) {a b} : Kept s0 (Machine.mountProfile a b s) := by
  unfold Machine.mountProfile
  dsimp only
  repeat' (first | with_reducible assumption | exact rfl | split | with_reducible apply Kept.endPhase1
                 | with_reducible apply Kept.scanAsk | apply Kept.setSeqr)

theorem Kept.endPhase2 (h : Kept s0 s) : Kept s0 (Machine.endPhase2 s) := by
  unfold Machine.endPhase2
  apply Kept.scanAsk
  apply Kept.setPhase
  apply Kept.setSeqr
  · apply Kept.setLog
    · exact h.setDir
    all_goals rfl
  all_goals rfl

theorem noteEnd_own (q b p r) : (noteEnd q b p r).own = q.own ∧ (noteEnd q b p r).part = q.part := by
  unfold noteEnd
  split
  exact ⟨rfl, rfl⟩
  split <;> exact ⟨rfl, rfl⟩

theorem Kept.mountJournal (h : Kept s0 s) {a b} : Kept s0 (Machine.mountJournal a b s) := by
  unfold Machine.mountJournal
  dsimp only
  obtain ⟨h1, h2⟩ := noteEnd_own s.seqr (a / 16) (a % 16) b
  have h3 : ∀ x m, Kept s0 (s.setSeqr { noteEnd s.seqr (a / 16) (a % 16) b with jpages := x, maxSeq := m }) :=
    fun _ _ => h.setSeqr h1 h2
  split
  · exact (h3 _ _).scanAsk
  · exact (h3 _ _).endPhase2

theorem Kept.noteTail (h : Kept s0 s) {a b} : Kept s0 (Machine.noteTail a b s) := by
  unfold Machine.noteTail
  split
  · exact h
  · exact h.setSeqr rfl rfl

theorem Kept.noteRead (h : Kept s0 s) {a b} : Kept s0 (Machine.noteRead a b s) := by
  unfold Machine.noteRead
  repeat' (first | with_reducible assumption | exact rfl | split | apply Kept.setSeqr)

theorem Kept.enterBlock (h : Kept s0 s) {a b} : Kept s0 (Machine.enterBlock a b s) := by
  unfold Machine.enterBlock
  repeat' (first | with_reducible assumption | exact rfl | split | apply Kept.setLog)

theorem Kept.reviveBlock (h : Kept s0 s) {a} : Kept s0 (Machine.reviveBlock a s) := by
  unfold Machine.reviveBlock
  dsimp only
  repeat' (first | with_reducible assumption | exact rfl | split | apply Kept.setLog)

theorem Kept.setSequences (h : Kept s0 s) : Kept s0 (Machine.setSequences s) := by
  unfold Machine.setSequences
  split
  · apply Kept.setPacker
    · repeat' (first | with_reducible assumption | exact rfl | split | with_reducible apply Kept.reviveBlock
                     | apply Kept.setPacker | apply Kept.setLog | apply Kept.setCtl)
    · exact ⟨h.packer.1, h.packer.2⟩
  · rename_i b d _
    dsimp only
    have h1 : Kept s0 (Machine.reviveBlock b s) := h.reviveBlock
    refine Kept.setCtl ?_ ?_ ?_ ?_ ?_
    · apply Kept.setPacker
      · repeat' (first | with_reducible assumption | exact rfl | split | with_reducible apply Kept.reviveBlock
                       | apply Kept.setPacker | apply Kept.setLog | apply Kept.setCtl)
      · exact ⟨h1.packer.1, h1.packer.2⟩
    all_goals rfl

theorem Kept.computeHolds (h : Kept s0 s) : Kept s0 (Machine.computeHolds s) := by
  unfold Machine.computeHolds
  exact h.foldLog (f := raiseHold) (fun _ _ => ⟨rfl, rfl, rfl⟩) _

theorem Kept.becomeReady (h : Kept s0 s) : Kept s0 (Machine.becomeReady s) := by
  unfold Machine.becomeReady
  dsimp only
  have h1 := h.setReady (x := { s.seqr with
    part := .ready, phase := 0, scan := .none, dirEnd0 := 0, dirEnd1 := 0, dirCur := none, dirNext := 16, leftCur := none,
    leftNext := 16, maxSeq := 0, heads := [], tails := [], work := [], comp := Compaction.initial, dirFault := false,
    retiredNow := none }) rfl rfl
  have k4 : ∀ t, Kept s0 t →
      Kept s0 (if t.ctl.settings.autostart = true then (Machine.startCapture t).1 else t) := by
    intro t ht
    split
    · exact ht.startCapture
    · exact ht
  have k3 : ∀ t, Kept s0 t →
      Kept s0 (match t.log.ahead with | .underWay b => (Machine.arrayAsk .eraseAhead (.erase b) t).1 | _ => t) := by
    intro t ht
    split
    · exact ht.arrayAsk
    · exact ht
  have k2 : ∀ t, Kept s0 t →
      Kept s0 (match t.log.condition with | .fault cause => Machine.raiseEvent .log (.storeFault cause) t | _ => t) := by
    intro t ht
    split
    · exact ht.raiseEvent
    · exact ht
  apply k4
  apply k3
  apply k2
  split
  · repeat' (first | with_reducible assumption | exact rfl | split | with_reducible apply Kept.askJob
                   | with_reducible apply Kept.raiseEvent | with_reducible apply Kept.startCapture
                   | with_reducible apply Kept.arrayAsk | apply Kept.setJrnl | apply Kept.setSeqr)
  · apply Kept.raiseEvent
    apply Kept.askJob
    repeat' (first | with_reducible assumption | exact rfl | split | with_reducible apply Kept.askJob
                   | with_reducible apply Kept.raiseEvent | with_reducible apply Kept.startCapture
                   | with_reducible apply Kept.arrayAsk | apply Kept.setJrnl | apply Kept.setSeqr)

theorem Kept.beginPhase6 (h : Kept s0 s) : Kept s0 (Machine.beginPhase6 s) := by
  unfold Machine.beginPhase6
  have h1 : Kept s0 (Machine.setPhase 6 s) := h.setPhase
  generalize Machine.setPhase 6 s = t at h1 ⊢
  dsimp only
  split
  · exact h1.setPhase.becomeReady
  · split
    · apply Kept.becomeReady
      apply Kept.setPhase
      exact h1.setLog rfl rfl rfl
    · apply Kept.scanAsk
      exact h1.setLog rfl rfl rfl

theorem Kept.firstErased (h : Kept s0 s) {a b} : Kept s0 (Machine.firstErased a b s) := by
  unfold Machine.firstErased
  dsimp only
  repeat' (first | with_reducible assumption | exact rfl | split | with_reducible apply Kept.becomeReady
                 | apply Kept.setPhase | apply Kept.setLog | apply Kept.setSeqr)

theorem Kept.beginPhase5 (h : Kept s0 s) : Kept s0 (Machine.beginPhase5 s) := by
  unfold Machine.beginPhase5
  dsimp only
  repeat' (first | with_reducible assumption | exact rfl | split | with_reducible apply Kept.beginPhase6
                 | with_reducible apply Kept.computeHolds | apply Kept.setPhase | apply Kept.setLog)

theorem Kept.mountCompact (h : Kept s0 s) {a} : Kept s0 (Machine.mountCompact a s) := by
  unfold Machine.mountCompact
  dsimp only
  repeat' (first | with_reducible assumption | exact rfl | split | with_reducible apply Kept.scanAsk
                 | apply Kept.setSeqr)

theorem Kept.mountProgram (h : Kept s0 s) {a b c d e} : Kept s0 (Machine.mountProgram a b c d e s) := by
  unfold Machine.mountProgram
  dsimp only
  repeat' (first | with_reducible assumption | exact rfl | split | with_reducible apply Kept.drawPageSeq
                 | with_reducible apply Kept.scanAsk)

theorem Kept.completeEntry (h : Kept s0 s) {a b c} : Kept s0 (Machine.completeEntry a b c s) := by
  unfold Machine.completeEntry
  repeat' (first | with_reducible assumption | exact rfl | split | apply Kept.setDir)

theorem Kept.journalEntry (h : Kept s0 s) {n t} (ht : Machine.journalEntry n s = some t) : Kept s0 t := by
  unfold Machine.journalEntry at ht
  split at ht
  · simp at ht
  · split at ht
    · simp at ht
      subst ht
      repeat' (first | with_reducible assumption | exact rfl | split | with_reducible apply Kept.mountCompact
                     | with_reducible apply Kept.mountProgram)
    · simp at ht
      subst ht
      repeat' (first | with_reducible assumption | exact rfl | split | with_reducible apply Kept.mountCompact
                     | with_reducible apply Kept.mountProgram)
    · simp at ht

theorem Kept.mountDirFault (h : Kept s0 s) : Kept s0 (Machine.mountDirFault s) := by
  unfold Machine.mountDirFault
  repeat' (first | with_reducible assumption | exact rfl | split | apply Kept.setSeqr)

theorem Kept.workOn {n} : ∀ {s}, Kept s0 s → Kept s0 (Machine.workOn n s) := by
  induction n with
  | zero => exact fun h => h.beginPhase5
  | succ n ih =>
    intro s h
    unfold Machine.workOn
    split
    · repeat' (first | with_reducible assumption | exact rfl | split | with_reducible apply Kept.beginPhase5
                     | with_reducible apply Kept.completeEntry | with_reducible apply Kept.scanAsk
                     | apply Kept.setDir | apply Kept.setSeqr)
    · split
      · apply ih
        repeat' (first | with_reducible assumption | exact rfl | split | with_reducible apply Kept.beginPhase5
                       | with_reducible apply Kept.completeEntry | with_reducible apply Kept.scanAsk
                       | apply Kept.setDir | apply Kept.setSeqr)
      · dsimp only
        split
        · repeat' (first | with_reducible assumption | exact rfl | split | with_reducible apply Kept.beginPhase5
                         | with_reducible apply Kept.completeEntry | with_reducible apply Kept.scanAsk
                         | apply Kept.setDir | apply Kept.setSeqr)
        · have h1 : ∀ a b c x, x.own = s.seqr.own → x.part = s.seqr.part →
            Kept s0 ((Machine.completeEntry a b c s).setSeqr x) := by
            intro a b c x hx hy
            exact h.completeEntry.setSeqr hx hy
          split
          · rename_i hj
            refine Kept.journalEntry ?_ hj
            apply h1 <;> rfl
          · apply ih
            apply h1 <;> rfl

theorem Kept.nextWork (h : Kept s0 s) : Kept s0 (Machine.nextWork s) := h.workOn

theorem Kept.beginPhase4 (h : Kept s0 s) : Kept s0 (Machine.beginPhase4 s) := by
  unfold Machine.beginPhase4
  repeat' (first | with_reducible assumption | exact rfl | split | with_reducible apply Kept.nextWork
                 | apply Kept.setPhase | apply Kept.setSeqr)

theorem Kept.journalAgain (h : Kept s0 s) {n} : Kept s0 (Machine.journalAgain n s) := by
  unfold Machine.journalAgain
  split
  · rename_i hj
    exact h.journalEntry hj
  · repeat' (first | with_reducible assumption | exact rfl | split | with_reducible apply Kept.mountDirFault
                   | with_reducible apply Kept.nextWork)

theorem Kept.mountLastBlock (h : Kept s0 s) {a b c d} : Kept s0 (Machine.mountLastBlock a b c d s) := by
  unfold Machine.mountLastBlock
  dsimp only
  have h0 : Kept s0 (Machine.noteTail b d s) := h.noteTail
  generalize Machine.noteTail b d s = t at h0
  split
  · repeat' (first | with_reducible assumption | exact rfl | split | with_reducible apply Kept.completeEntry
                   | with_reducible apply Kept.nextWork | with_reducible apply Kept.noteTail
                   | with_reducible apply Kept.scanAsk | apply Kept.setSeqr)
  · split
    · repeat' (first | with_reducible assumption | exact rfl | split | with_reducible apply Kept.completeEntry
                     | with_reducible apply Kept.nextWork | with_reducible apply Kept.noteTail
                     | with_reducible apply Kept.scanAsk | apply Kept.setSeqr)
    · have h1 : ∀ a' b' c' x, x.own = t.seqr.own → x.part = t.seqr.part →
            Kept s0 ((Machine.completeEntry a' b' c' t).setSeqr x) := by
        intro a b c x hx hy
        exact h0.completeEntry.setSeqr hx hy
      split
      · rename_i hj
        refine Kept.journalEntry ?_ hj
        apply h1 <;> rfl
      · apply Kept.nextWork
        apply h1 <;> rfl

theorem Kept.mountAppended (h : Kept s0 s) {a b} : Kept s0 (Machine.mountAppended a b s) := by
  unfold Machine.mountAppended
  dsimp only
  repeat' (first | with_reducible assumption | exact rfl | split | with_reducible apply Kept.journalAgain
                 | with_reducible apply Kept.nextWork | apply Kept.setDir | apply Kept.setSeqr)

theorem Kept.mountCompactAgain (h : Kept s0 s) {a} : Kept s0 (Machine.mountCompactAgain a s) := by
  unfold Machine.mountCompactAgain
  repeat' (first | with_reducible assumption | exact rfl | split | with_reducible apply Kept.mountCompact
                 | with_reducible apply Kept.mountDirFault | with_reducible apply Kept.nextWork)

theorem Kept.mountCopy (h : Kept s0 s) {a} : Kept s0 (Machine.mountCopy a s) := by
  unfold Machine.mountCopy
  dsimp only
  repeat' (first | with_reducible assumption | exact rfl | split | with_reducible apply Kept.mountProgram)

theorem Kept.mountCompErased (h : Kept s0 s) {a b} : Kept s0 (Machine.mountCompErased a b s) := by
  unfold Machine.mountCompErased
  repeat' (first | with_reducible assumption | exact rfl | split | with_reducible apply Kept.mountCopy
                 | with_reducible apply Kept.mountDirFault | with_reducible apply Kept.nextWork
                 | apply Kept.setSeqr)

theorem Kept.mountCopied (h : Kept s0 s) {a b} : Kept s0 (Machine.mountCopied a b s) := by
  unfold Machine.mountCopied
  dsimp only
  repeat' (first | with_reducible assumption | exact rfl | split | with_reducible apply Kept.journalAgain
                 | with_reducible apply Kept.mountCompactAgain | with_reducible apply Kept.mountCopy
                 | apply Kept.setSeqr)

theorem Kept.endPhase3 (h : Kept s0 s) : Kept s0 (Machine.endPhase3 s) := by
  unfold Machine.endPhase3
  repeat' (first | with_reducible assumption | exact rfl | split | with_reducible apply Kept.beginPhase4
                 | apply Kept.setSequences)

theorem Kept.scanNewest (h : Kept s0 s) : Kept s0 (Machine.scanNewest s) := by
  unfold Machine.scanNewest
  repeat' (first | with_reducible assumption | exact rfl | split | with_reducible apply Kept.endPhase3
                 | with_reducible apply Kept.scanAsk)

theorem Kept.scanBlock (h : Kept s0 s) {a} : Kept s0 (Machine.scanBlock a s) := by
  unfold Machine.scanBlock
  repeat' (first | with_reducible assumption | exact rfl | split | with_reducible apply Kept.scanNewest
                 | with_reducible apply Kept.scanAsk)

theorem Kept.mountLogHead (h : Kept s0 s) {a b} : Kept s0 (Machine.mountLogHead a b s) := by
  unfold Machine.mountLogHead
  repeat' (first | with_reducible assumption | exact rfl | split | with_reducible apply Kept.enterBlock
                 | with_reducible apply Kept.noteRead | with_reducible apply Kept.scanBlock
                 | with_reducible apply Kept.scanAsk)

theorem Kept.mountLogRest (h : Kept s0 s) {a b c} : Kept s0 (Machine.mountLogRest a b c s) := by
  unfold Machine.mountLogRest
  dsimp only
  repeat' (first | with_reducible assumption | exact rfl | split | with_reducible apply Kept.enterBlock
                 | with_reducible apply Kept.noteRead | with_reducible apply Kept.scanBlock
                 | with_reducible apply Kept.scanAsk)

theorem Kept.mountNewest (h : Kept s0 s) {a b c} : Kept s0 (Machine.mountNewest a b c s) := by
  unfold Machine.mountNewest
  dsimp only
  repeat' (first | with_reducible assumption | exact rfl | split | with_reducible apply Kept.endPhase3
                 | with_reducible apply Kept.noteRead | with_reducible apply Kept.scanAsk)

theorem Kept.mountReadDone (h : Kept s0 s) {a} : Kept s0 (Machine.mountReadDone a s) := by
  unfold Machine.mountReadDone
  repeat' (first | with_reducible assumption | exact rfl | split | with_reducible apply Kept.mountJournal
                 | with_reducible apply Kept.mountLastBlock | with_reducible apply Kept.mountLogHead
                 | with_reducible apply Kept.mountLogRest | with_reducible apply Kept.mountNewest
                 | with_reducible apply Kept.mountProfile)

theorem Kept.mountProgramDone (h : Kept s0 s) {a} : Kept s0 (Machine.mountProgramDone a s) := by
  unfold Machine.mountProgramDone
  repeat' (first | with_reducible assumption | exact rfl | split | with_reducible apply Kept.mountAppended
                 | with_reducible apply Kept.mountCopied)

theorem Kept.mountEraseDone (h : Kept s0 s) {a} : Kept s0 (Machine.mountEraseDone a s) := by
  unfold Machine.mountEraseDone
  split <;> first | exact h | exact h.mountCompErased | exact h.firstErased

theorem Kept.beginMount (h : Kept s0 s) : Kept s0 (Machine.beginMount s) := by
  unfold Machine.beginMount
  exact h.setPhase.scanAsk

end Sys2Proof.Machine
end

