-- ==== Sys2Proof/Laws/Staging.lean ====
section
/-! SUPPORT. What the operations of the Capture Packer do to the order of the staging buffers, said once for each. -/

namespace Sys2Proof.Machine

variable {p : Packer} {i : BufId}

/-- The buffers are in order but that buffer `i`, which is FILLING, may have no record yet (2.5). -/
structure StagingOpen (i : BufId) (p : Packer) : Prop where
  self : (getBuf p i).state = .filling
  filling : ∀ j, (getBuf p j).state = .filling → j = i
  writing : ∀ j k, (getBuf p j).state = .writing → (getBuf p k).state = .writing → j = k
  empty : ∀ j, j ≠ i → ((getBuf p j).state = .empty ↔ (getBuf p j).recs = [])
  full : ∀ j, (getBuf p j).state = .full ↔ j ∈ p.fullOrder
  order : p.fullOrder.Nodup
  slot : p.slot = []

@[simp] theorem getBuf_setBuf_self (p : Packer) (x : Buffer) (i : BufId) : getBuf (setBuf p x i) i = x := by
  cases i <;> rfl

theorem getBuf_setBuf_ne (p : Packer) (x : Buffer) {i j : BufId} (h : j ≠ i) :
    getBuf (setBuf p x i) j = getBuf p j := by
  cases i <;> cases j <;> first | rfl | exact absurd rfl h

@[simp] theorem setBuf_fullOrder (p : Packer) (x : Buffer) (i : BufId) : (setBuf p x i).fullOrder = p.fullOrder := by
  cases i <;> rfl

@[simp] theorem setBuf_slot (p : Packer) (x : Buffer) (i : BufId) : (setBuf p x i).slot = p.slot := by
  cases i <;> rfl

@[simp] theorem setBuf_flushTimer (p : Packer) (x : Buffer) (i : BufId) : (setBuf p x i).flushTimer = p.flushTimer := by
  cases i <;> rfl

/-- Two of two buffers: of any three, two are the same. -/
theorem buf_other {i j k : BufId} (h1 : j ≠ i) (h2 : k ≠ i) : j = k := by
  cases i <;> cases j <;> cases k <;> first | rfl | exact absurd rfl h1 | exact absurd rfl h2

/-- What bufIn finds is in the state; it finds nothing only when no buffer is. -/
theorem bufIn_some {st : BufState} (h : bufIn p st = some i) : (getBuf p i).state = st := by
  unfold bufIn at h
  split at h
  · cases h; assumption
  · split at h
    · cases h; assumption
    · cases h

theorem bufIn_none {st : BufState} (h : bufIn p st = none) (j : BufId) : (getBuf p j).state ≠ st := by
  unfold bufIn at h
  split at h
  · cases h
  · split at h
    · cases h
    · cases j <;> assumption

/-- Packers that agree on the buffers, their order, the slot and the flush timer are in order together. -/
theorem StagingWf.of_eq {q : Packer} (h : StagingWf p) (h0 : q.sb0 = p.sb0) (h1 : q.sb1 = p.sb1)
    (h2 : q.fullOrder = p.fullOrder) (h3 : q.slot = p.slot) (h4 : q.flushTimer = p.flushTimer) : StagingWf q := by
  have hb : ∀ j, getBuf q j = getBuf p j := by intro j; cases j <;> assumption
  exact ⟨by simpa only [hb] using h.filling, by simpa only [hb] using h.writing, by simpa only [hb] using h.empty,
    by simpa only [hb, h2] using h.full, h2 ▸ h.order, by simpa only [hb, h3] using h.slot,
    by simpa only [hb, h4] using h.timer⟩

/-- With a record in it, the open buffer leaves the buffers in order. -/
theorem StagingOpen.wf (h : StagingOpen i p) (hr : (getBuf p i).recs ≠ []) : StagingWf p where
  filling j k hj hk := (h.filling j hj).trans (h.filling k hk).symm
  writing := h.writing
  empty j := by
    by_cases hj : j = i
    · subst hj; simp [h.self, hr]
    · exact h.empty j hj
  full := h.full
  order := h.order
  slot hs := absurd h.slot hs
  timer _ := ⟨i, h.self⟩

/-- A FILLING buffer is open. -/
theorem StagingWf.opens (h : StagingWf p) (hi : (getBuf p i).state = .filling) : StagingOpen i p where
  self := hi
  filling j hj := h.filling j i hj hi
  writing := h.writing
  empty j _ := h.empty j
  full := h.full
  order := h.order
  slot := by
    refine Classical.byContradiction fun hs => ?_
    have := h.slot hs i
    simp [hi] at this

theorem StagingOpen.of_eq {q : Packer} (h : StagingOpen i p) (h0 : q.sb0 = p.sb0) (h1 : q.sb1 = p.sb1)
    (h2 : q.fullOrder = p.fullOrder) (h3 : q.slot = p.slot) : StagingOpen i q := by
  have hb : ∀ j, getBuf q j = getBuf p j := by intro j; cases j <;> assumption
  exact ⟨by simpa only [hb] using h.self, by simpa only [hb] using h.filling, by simpa only [hb] using h.writing,
    by simpa only [hb] using h.empty, by simpa only [hb, h2] using h.full, h2 ▸ h.order, h3 ▸ h.slot⟩

/-! ### Records -/

theorem getBuf_putRecord (r : Record) (p : Packer) : getBuf (putRecord i r p) i =
    { getBuf p i with recs := (getBuf p i).recs ++ [r] } := by cases i <;> rfl

theorem StagingOpen.put (h : StagingOpen i p) {r : Record} : StagingOpen i (putRecord i r p) := by
  have hs : ∀ j, (getBuf (putRecord i r p) j).state = (getBuf p j).state := by
    intro j; cases i <;> cases j <;> rfl
  refine ⟨by simpa only [hs] using h.self, by simpa only [hs] using h.filling, by simpa only [hs] using h.writing, ?_,
    by intro j; rw [hs, h.full]; cases i <;> rfl, by cases i <;> exact h.order, by cases i <;> exact h.slot⟩
  intro j hj
  have : getBuf (putRecord i r p) j = getBuf p j := by cases i <;> cases j <;> first | rfl | exact absurd rfl hj
  rw [this]
  exact h.empty j hj

theorem putRecord_recs (r : Record) (p : Packer) : (getBuf (putRecord i r p) i).recs ≠ [] := by
  rw [getBuf_putRecord]; simp

theorem StagingOpen.puts (h : StagingOpen i p) {rs : List Record} : StagingOpen i (putRecords i rs p) := by
  unfold putRecords
  induction rs generalizing p with
  | nil => exact h
  | cons r rs ih => exact ih h.put

theorem putRecords_recs {rs : List Record} (h : rs ≠ [] ∨ (getBuf p i).recs ≠ []) :
    (getBuf (putRecords i rs p) i).recs ≠ [] := by
  unfold putRecords
  induction rs generalizing p with
  | nil => exact h.resolve_left (fun x => x rfl)
  | cons r rs ih => exact ih (.inr (putRecord_recs r p))

theorem StagingOpen.drop (h : StagingOpen i p) : StagingOpen i (dropTally p) := by
  unfold dropTally
  split
  · exact h
  · exact h.of_eq rfl rfl rfl rfl

theorem dropTally_buf (p : Packer) (j : BufId) : getBuf (dropTally p) j = getBuf p j := by
  unfold dropTally
  split <;> cases j <;> rfl

theorem StagingWf.drop (h : StagingWf p) : StagingWf (dropTally p) := by
  unfold dropTally
  split
  · exact h
  · exact h.of_eq rfl rfl rfl rfl rfl

/-- A record put in an open buffer, behind which a tally may be dropped, leaves the buffers in order. -/
theorem StagingOpen.putWf (h : StagingOpen i p) {r : Record} : StagingWf (dropTally (putRecord i r p)) :=
  (h.put.wf (putRecord_recs r p)).drop

/-! ### Opening and closing -/

theorem StagingWf.close (h : StagingWf p) (hi : (getBuf p i).state = .filling) : StagingWf (closeBuf i p) := by
  have hself : getBuf (closeBuf i p) i = { getBuf p i with state := .full } := by cases i <;> rfl
  have hne : ∀ j, j ≠ i → getBuf (closeBuf i p) j = getBuf p j := by
    intro j hj; cases i <;> cases j <;> first | rfl | exact absurd rfl hj
  have hfull : (closeBuf i p).fullOrder = p.fullOrder ++ [i] := by cases i <;> rfl
  have hslot : (closeBuf i p).slot = [] := by
    have : (closeBuf i p).slot = p.slot := by cases i <;> rfl
    rw [this]; exact (h.opens hi).slot
  have hn : i ∉ p.fullOrder := by
    rw [← h.full, hi]; nofun
  constructor
  · intro j k hj hk
    by_cases hj' : j = i
    · subst hj'; simp [hself] at hj
    · exact absurd (h.filling j i (by rwa [hne j hj'] at hj) hi) hj'
  · intro j k hj hk
    by_cases hj' : j = i
    · subst hj'; simp [hself] at hj
    · by_cases hk' : k = i
      · subst hk'; simp [hself] at hk
      · exact buf_other hj' hk'
  · intro j
    by_cases hj' : j = i
    · subst hj'
      have : (getBuf p j).recs ≠ [] := fun e => by
        have := (h.empty j).2 e
        rw [hi] at this; cases this
      simp [hself, this]
    · rw [hne j hj']; exact h.empty j
  · intro j
    rw [hfull]
    by_cases hj' : j = i
    · subst hj'; simp [hself]
    · rw [hne j hj', h.full]; simp [hj']
  · rw [hfull]
    exact List.nodup_append.2 ⟨h.order, by simp, by
      intro a ha b hb e
      simp only [List.mem_singleton] at hb
      subst hb; subst e; exact hn ha⟩
  · intro hs; exact absurd hslot hs
  · intro ht
    exact absurd (by cases i <;> rfl) ht

theorem StagingWf.closeFilling (h : StagingWf p) : StagingWf (closeFilling p) := by
  unfold Machine.closeFilling
  split
  · exact h
  · rename_i i hi
    exact h.close (bufIn_some hi)

/-- Without a flush timer the buffers are in order as with it. -/
theorem StagingWf.noTimer (h : StagingWf p) : StagingWf { p with flushTimer := none } :=
  have hb : ∀ j, getBuf { p with flushTimer := none } j = getBuf p j := by intro j; cases j <;> rfl
  ⟨by simpa only [hb] using h.filling, by simpa only [hb] using h.writing, by simpa only [hb] using h.empty,
    by simpa only [hb] using h.full, h.order, by simpa only [hb] using h.slot, fun x => absurd rfl x⟩

/-- An opened buffer is FILLING, with the records of the Control Slot, which is empty; before, it was EMPTY, no buffer
was FILLING, and but for the slot the buffers were in order. -/
theorem StagingWf.openBuf {t : Nat} (h : StagingWf { p with slot := [] }) (hi : (getBuf p i).state = .empty)
    (hf : ∀ j, (getBuf p j).state ≠ .filling) :
    StagingOpen i (openBuf t i p) ∧ (p.slot ≠ [] → (getBuf (openBuf t i p) i).recs ≠ []) := by
  have hb : ∀ j, getBuf { p with slot := [] } j = getBuf p j := by intro j; cases j <;> rfl
  have h1 : StagingOpen i { setBuf p { state := .filling, recs := [], run := p.run } i with slot := [] } := by
    have hself : getBuf { setBuf p { state := .filling, recs := [], run := p.run } i with slot := [] } i =
      { state := .filling, recs := [], run := p.run } := by cases i <;> rfl
    have hne : ∀ j, j ≠ i →
        getBuf { setBuf p { state := .filling, recs := [], run := p.run } i with slot := [] } j = getBuf p j := by
      intro j hj; cases i <;> cases j <;> first | rfl | exact absurd rfl hj
    refine ⟨by rw [hself], ?_, ?_, ?_, ?_, by cases i <;> exact h.order, by cases i <;> rfl⟩
    · intro j hj
      refine Classical.byContradiction fun hj' => ?_
      rw [hne j hj'] at hj
      exact hf j hj
    · intro j k hj hk
      by_cases hj' : j = i
      · rw [hj', hself] at hj; cases hj
      · by_cases hk' : k = i
        · rw [hk', hself] at hk; cases hk
        · exact buf_other hj' hk'
    · intro j hj
      rw [hne j hj, ← hb j]
      exact h.empty j
    · intro j
      have hfo : ({ setBuf p { state := .filling, recs := [], run := p.run } i with slot := [] } : Packer).fullOrder
        = p.fullOrder := by cases i <;> rfl
      rw [hfo]
      have := h.full j
      rw [hb] at this
      by_cases hj : j = i
      · subst hj
        rw [hself]
        rw [hi] at this
        exact ⟨nofun, fun x => absurd (this.2 x) nofun⟩
      · rw [hne j hj]
        exact this
  have hslot : (setBuf p { state := .filling, recs := [], run := p.run } i).slot = p.slot := by simp
  have h2 : StagingOpen i (putSlot i (setBuf p { state := .filling, recs := [], run := p.run } i)) := by
    have key : ∀ rs : List Record, ∀ q : Packer,
        { putRecords i rs q with slot := [] } = putRecords i rs { q with slot := [] } := by
      intro rs
      induction rs with
      | nil => intro q; rfl
      | cons r rs ih =>
        intro q
        have := ih (putRecord i r q)
        simp only [putRecords, List.foldl_cons] at this ⊢
        rw [this]
        cases i <;> rfl
    rw [putSlot, key]
    exact h1.puts
  have h3 : StagingOpen i (putGap i (putSlot i (setBuf p { state := .filling, recs := [], run := p.run } i))) := by
    unfold putGap
    split
    · exact h2
    · exact (h2.of_eq (q := (takeGap (putSlot i (setBuf p { state := .filling, recs := [], run := p.run } i))).1)
        rfl rfl rfl rfl).put.drop
  refine ⟨h3.of_eq rfl rfl rfl rfl, fun hs => ?_⟩
  have h4 : (getBuf (putSlot i (setBuf p { state := .filling, recs := [], run := p.run } i)) i).recs ≠ [] := by
    have : ∀ q : Packer, getBuf (putSlot i q) i = getBuf (putRecords i q.slot q) i := by
      intro q; cases i <;> rfl
    rw [this]
    exact putRecords_recs (.inl (by rwa [hslot]))
  have h5 : (getBuf (putGap i (putSlot i (setBuf p { state := .filling, recs := [], run := p.run } i))) i).recs ≠ [] := by
    unfold putGap
    split
    · exact h4
    · simp only
      rw [dropTally_buf]
      exact putRecord_recs _ _
  have : getBuf (Machine.openBuf t i p) i
      = getBuf (putGap i (putSlot i (setBuf p { state := .filling, recs := [], run := p.run } i))) i := by
    cases i <;> rfl
  rwa [this]

theorem putRecord_nextSeq (r : Record) (q : Packer) : (putRecord i r q).nextSeq = q.nextSeq := by cases i <;> rfl

theorem dropTally_nextSeq (q : Packer) : (dropTally q).nextSeq = q.nextSeq := by
  unfold dropTally; split <;> rfl

/-- An opening that takes a sequence has placed a GAP record. -/
theorem openBuf_gap {t : Nat} (h : (Machine.openBuf t i p).nextSeq ≠ p.nextSeq) :
    (getBuf (Machine.openBuf t i p) i).recs ≠ [] := by
  have hs : ∀ (rs : List Record) (q : Packer), (putRecords i rs q).nextSeq = q.nextSeq := by
    intro rs
    induction rs with
    | nil => exact fun _ => rfl
    | cons r rs ih => exact fun q => (ih (putRecord i r q)).trans (putRecord_nextSeq r q)
  have h0 : (putSlot i (setBuf p { state := .filling, recs := [], run := p.run } i)).nextSeq = p.nextSeq := by
    refine (hs _ _).trans ?_
    cases i <;> rfl
  have hb : getBuf (Machine.openBuf t i p) i
      = getBuf (putGap i (putSlot i (setBuf p { state := .filling, recs := [], run := p.run } i))) i := by
    cases i <;> rfl
  have hn : (Machine.openBuf t i p).nextSeq
      = (putGap i (putSlot i (setBuf p { state := .filling, recs := [], run := p.run } i))).nextSeq := rfl
  rw [hb]
  rw [hn] at h
  unfold putGap at h ⊢
  split at h
  · exact absurd h0 h
  · rename_i hc
    rw [if_neg hc]
    simp only
    rw [dropTally_buf]
    exact putRecord_recs _ _

/-- What findRoom answers: an open buffer, or none, when no buffer is EMPTY or FILLING. -/
theorem StagingWf.findRoom {t n : Nat} (h : StagingWf p) :
    (∀ i, (findRoom t n p).2 = some i → StagingOpen i (Machine.findRoom t n p).1
        ∧ ((Machine.findRoom t n p).1.nextSeq ≠ p.nextSeq → (getBuf (Machine.findRoom t n p).1 i).recs ≠ []))
      ∧ ((findRoom t n p).2 = none → StagingWf (Machine.findRoom t n p).1
        ∧ ∀ j, (getBuf (Machine.findRoom t n p).1 j).state = .full
          ∨ (getBuf (Machine.findRoom t n p).1 j).state = .writing) := by
  have open' : ∀ {q : Packer} {j : BufId}, StagingWf q → bufIn q .empty = some j →
      (∀ k, (getBuf q k).state ≠ .filling) →
      StagingOpen j (Machine.openBuf t j q)
        ∧ ((Machine.openBuf t j q).nextSeq ≠ q.nextSeq → (getBuf (Machine.openBuf t j q) j).recs ≠ []) := by
    intro q j hq hj hf
    have hs : q.slot = [] := by
      refine Classical.byContradiction fun hs => ?_
      have := hq.slot hs j
      simp [bufIn_some hj] at this
    exact ⟨(StagingWf.openBuf (hq.of_eq rfl rfl rfl hs.symm rfl) (bufIn_some hj) hf).1, openBuf_gap⟩
  have none' : ∀ {q : Packer}, bufIn q .empty = none → (∀ k, (getBuf q k).state ≠ .filling) →
      ∀ j, (getBuf q j).state = .full ∨ (getBuf q j).state = .writing := by
    intro q he hf j
    have h1 := bufIn_none he j
    have h2 := hf j
    cases hst : (getBuf q j).state <;> simp_all
  unfold Machine.findRoom
  split
  · rename_i i hi
    split
    · exact ⟨fun j hj => by cases hj; exact ⟨h.opens (bufIn_some hi), fun x => absurd rfl x⟩, nofun⟩
    · have hc := h.close (bufIn_some hi)
      have hseq : (closeBuf i p).nextSeq = p.nextSeq := by cases i <;> rfl
      have hf : ∀ k, (getBuf (closeBuf i p) k).state ≠ .filling := by
        intro k hk
        by_cases hk' : k = i
        · subst hk'
          have : (getBuf (closeBuf k p) k).state = .full := by cases k <;> rfl
          rw [this] at hk; cases hk
        · have : getBuf (closeBuf i p) k = getBuf p k := by
            cases i <;> cases k <;> first | rfl | exact absurd rfl hk'
          rw [this] at hk
          exact hk' (h.filling k i hk (bufIn_some hi))
      simp only
      split
      · rename_i j hj
        exact ⟨fun k hk => by cases hk; exact hseq ▸ open' hc hj hf, nofun⟩
      · rename_i hj
        exact ⟨nofun, fun _ => ⟨hc, none' hj hf⟩⟩
  · rename_i hi
    split
    · rename_i j hj
      exact ⟨fun k hk => by cases hk; exact open' h hj (bufIn_none hi), nofun⟩
    · rename_i hj
      exact ⟨nofun, fun _ => ⟨h, none' hj (bufIn_none hi)⟩⟩

theorem StagingWf.closeIfEnded (h : StagingWf p) : StagingWf (closeIfEnded i p) := by
  unfold Machine.closeIfEnded
  split
  · rename_i hh
    exact h.close hh.2
  · exact h

/-- With both buffers FULL or WRITING the Control Slot may hold records. -/
theorem StagingWf.slots {q : Packer} (h : StagingWf p)
    (hb : ∀ j, (getBuf p j).state = .full ∨ (getBuf p j).state = .writing) (h0 : q.sb0 = p.sb0) (h1 : q.sb1 = p.sb1)
    (h2 : q.fullOrder = p.fullOrder) (h4 : q.flushTimer = p.flushTimer) : StagingWf q := by
  have he : ∀ j, getBuf q j = getBuf p j := by intro j; cases j <;> assumption
  exact ⟨by simpa only [he] using h.filling, by simpa only [he] using h.writing, by simpa only [he] using h.empty,
    by simpa only [he, h2] using h.full, h2 ▸ h.order, fun _ => by simpa only [he] using hb,
    by simpa only [he, h4] using h.timer⟩

/-! ### Captures and control records -/

theorem StagingWf.lose (h : StagingWf p) {t : Time} : StagingWf (loseCapture t p) := by
  unfold loseCapture
  simp only
  split <;> exact h.of_eq rfl rfl rfl rfl rfl

theorem StagingWf.packCapture {t : Nat} {r : Result} {c : Captured} (h : StagingWf p) :
    StagingWf (packCapture t r c p).1 := by
  unfold Machine.packCapture
  split
  · obtain ⟨h1, h2⟩ := h.findRoom (t := t) (n := 15 + c.bytes.length)
    simp only
    split
    · rename_i e
      exact (h2 e).1.lose
    · rename_i i e
      obtain ⟨ho, hg⟩ := h1 i e
      split
      · exact (ho.of_eq (q := (takeSeq _ r.time (frameBody r c)).1) rfl rfl rfl rfl).putWf
      · exact (ho.wf (hg (by omega))).lose
  · exact h.lose

theorem StagingWf.packRunStart {t n : Nat} (h : StagingWf p) : StagingWf (packRunStart t n p) := by
  unfold Machine.packRunStart
  have h0 : StagingWf { p with run := n, gateOpen := true } := h.of_eq rfl rfl rfl rfl rfl
  obtain ⟨h1, h2⟩ := h0.findRoom (t := t) (n := 16)
  simp only
  split
  · rename_i i e
    exact ((h1 i e).1.of_eq (q := (takeSeq _ _ (.runStart n)).1) rfl rfl rfl rfl).putWf
  · rename_i e
    obtain ⟨h3, h4⟩ := h2 e
    unfold reserveGap
    split <;> refine StagingWf.drop (h3.slots h4 ?_ ?_ ?_ ?_) <;> rfl

theorem StagingWf.packRunStop {t n : Nat} {r : StopReason} (h : StagingWf p) : StagingWf (packRunStop t n r p) := by
  unfold Machine.packRunStop
  have h0 : StagingWf (takeSeq (reserveGap { p with gateOpen := false }).1 p.timeBase (.runStop n r)).1 := by
    unfold reserveGap
    split <;> exact h.of_eq rfl rfl rfl rfl rfl
  obtain ⟨h1, h2⟩ := h0.findRoom (t := t)
    (n := recordsSize ((reserveGap { p with gateOpen := false }).2
      ++ [(takeSeq (reserveGap { p with gateOpen := false }).1 p.timeBase (.runStop n r)).2]))
  simp only
  split
  · rename_i i e
    exact ((h1 i e).1.puts.wf (putRecords_recs (.inl (by simp)))).closeIfEnded
  · rename_i e
    obtain ⟨h3, h4⟩ := h2 e
    exact h3.slots h4 rfl rfl rfl rfl

theorem StagingWf.packTimeSet {t : Nat} {v : Time} (h : StagingWf p) : StagingWf (packTimeSet t v p) := by
  unfold Machine.packTimeSet
  obtain ⟨h1, h2⟩ := h.findRoom (t := t) (n := 22)
  simp only
  split
  · exact h.of_eq rfl rfl rfl rfl rfl
  · rename_i i e
    exact (((h1 i e).1.of_eq (q := (takeSeq _ v (.timeSet p.timeBase v)).1) rfl rfl rfl rfl).putWf).of_eq
      rfl rfl rfl rfl rfl

/-! ### Hand-over -/

/-- The oldest FULL buffer is taken while none is WRITING. -/
theorem StagingWf.takeBuf (h : StagingWf p) (hi : (getBuf p i).state = .full)
    (hw : ∀ j, (getBuf p j).state ≠ .writing) : StagingWf (takeBuf i p) := by
  have hself : getBuf (Machine.takeBuf i p) i = { getBuf p i with state := .writing } := by cases i <;> rfl
  have hne : ∀ j, j ≠ i → getBuf (Machine.takeBuf i p) j = getBuf p j := by
    intro j hj; cases i <;> cases j <;> first | rfl | exact absurd rfl hj
  have hfull : (Machine.takeBuf i p).fullOrder = p.fullOrder.filter (fun j => decide (j ≠ i)) := by cases i <;> rfl
  have hslot : (Machine.takeBuf i p).slot = p.slot := by cases i <;> rfl
  have htimer : (Machine.takeBuf i p).flushTimer = p.flushTimer := by cases i <;> rfl
  constructor
  · intro j k hj hk
    by_cases hj' : j = i
    · rw [hj', hself] at hj; cases hj
    · by_cases hk' : k = i
      · rw [hk', hself] at hk; cases hk
      · exact buf_other hj' hk'
  · intro j k hj hk
    have : ∀ j, (getBuf (Machine.takeBuf i p) j).state = .writing → j = i := by
      intro j hj
      refine Classical.byContradiction fun hj' => ?_
      rw [hne j hj'] at hj
      exact hw j hj
    exact (this j hj).trans (this k hk).symm
  · intro j
    by_cases hj' : j = i
    · subst hj'
      have : (getBuf p j).recs ≠ [] := fun e => by
        have := (h.empty j).2 e
        rw [hi] at this; cases this
      simp [hself, this]
    · rw [hne j hj']; exact h.empty j
  · intro j
    rw [hfull]
    by_cases hj' : j = i
    · subst hj'; simp [hself]
    · rw [hne j hj', h.full]; simp [hj']
  · rw [hfull]; exact h.order.filter _
  · intro hs j
    rw [hslot] at hs
    by_cases hj' : j = i
    · subst hj'; simp [hself]
    · rw [hne j hj']; exact h.slot hs j
  · intro ht
    rw [htimer] at ht
    obtain ⟨j, hj⟩ := h.timer ht
    refine ⟨j, ?_⟩
    rw [hne j (fun e => by rw [e, hi] at hj; cases hj)]
    exact hj

/-- A WRITING buffer returns EMPTY, or opened with the Control Slot's records. -/
theorem StagingWf.returnBuf {t : Nat} (h : StagingWf p) (hi : (getBuf p i).state = .writing) :
    StagingWf (returnBuf t i p) := by
  have hself : getBuf (setBuf p Buffer.initial i) i = Buffer.initial := by simp
  have hne : ∀ j, j ≠ i → getBuf (setBuf p Buffer.initial i) j = getBuf p j := fun j hj => getBuf_setBuf_ne _ _ hj
  have hq : StagingWf { setBuf p Buffer.initial i with slot := [] } := by
    have hb : ∀ j, getBuf { setBuf p Buffer.initial i with slot := [] } j = getBuf (setBuf p Buffer.initial i) j := by
      intro j; cases j <;> rfl
    constructor <;> simp only [hb]
    · intro j k hj hk
      by_cases hj' : j = i
      · rw [hj', hself] at hj; cases hj
      · by_cases hk' : k = i
        · rw [hk', hself] at hk; cases hk
        · exact buf_other hj' hk'
    · intro j k hj hk
      by_cases hj' : j = i
      · rw [hj', hself] at hj; cases hj
      · by_cases hk' : k = i
        · rw [hk', hself] at hk; cases hk
        · exact buf_other hj' hk'
    · intro j
      by_cases hj' : j = i
      · subst hj'; simp [Buffer.initial]
      · rw [hne j hj']; exact h.empty j
    · intro j
      rw [setBuf_fullOrder]
      by_cases hj' : j = i
      · subst hj'
        have := h.full j
        rw [hi] at this
        rw [hself]
        exact ⟨nofun, fun x => absurd (this.2 x) nofun⟩
      · rw [hne j hj']; exact h.full j
    · rw [setBuf_fullOrder]; exact h.order
    · intro hs; exact absurd rfl hs
    · intro ht
      rw [setBuf_flushTimer] at ht
      obtain ⟨j, hj⟩ := h.timer ht
      refine ⟨j, ?_⟩
      rw [hne j (fun e => by rw [e, hi] at hj; cases hj)]
      exact hj
  unfold Machine.returnBuf
  simp only
  split
  · rename_i hs
    exact hq.of_eq rfl rfl rfl hs rfl
  · rename_i hs
    have hf : ∀ j, (getBuf (setBuf p Buffer.initial i) j).state ≠ .filling := by
      intro j hj
      by_cases hj' : j = i
      · rw [hj', hself] at hj; cases hj
      · rw [hne j hj'] at hj
        have := h.slot (by rwa [setBuf_slot] at hs) j
        simp [hj] at this
    obtain ⟨h1, h2⟩ := hq.openBuf (t := t) (i := i) (by rw [hself]; rfl) hf
    exact (h1.wf (h2 hs)).closeIfEnded

end Sys2Proof.Machine
end

