-- ==== Sys2Proof/Laws/Steady.lean ====
section
/-! SUPPORT. A property that the primitive updates of the Relay, the Retrieval Engine, the Management Unit, the Notice
Unit and the Journal Writer leave is one that all their operations leave: said once for every such property. -/

namespace Sys2Proof.Machine

/-- A property of states that does not look at ports, raised happenings, Management Unit, Notice Unit, sessions, Journal
Writer, the open-session counts, the controller beyond its state, and that a drawn page sequence and a request of the
journal or of a session at the array leave. -/
structure Steady (P : State → Prop) : Prop where
  raised : ∀ {s x}, P s → P (s.setRaised x)
  portA : ∀ {s x}, P s → P (s.setPortA x)
  portB : ∀ {s x}, P s → P (s.setPortB x)
  mgmt : ∀ {s x}, P s → P (s.setMgmt x)
  notice : ∀ {s x}, P s → P (s.setNotice x)
  ret : ∀ {s x}, P s → P (s.setRet x)
  serial : ∀ {s x}, P s → P (s.setSerial x)
  jrnl : ∀ {s x}, P s → P (s.setJrnl x)
  ctl : ∀ {s : State} {x : CaptureCtl}, x.state = s.ctl.state → P s → P (s.setCtl x)
  count : ∀ {s : State} {n : Nat} {f : Entry → Nat}, P s →
    P (s.setDir (changeEntry s.dir n (fun e => { e with sessions := f e })))
  draw : ∀ {s : State}, P s → P (drawPageSeq s).2
  journal : ∀ {s : State} {r : ArrayReq}, P s → P (arrayAsk .journal r s).1
  session : ∀ {s : State} {i : SessionId} {r : ArrayReq}, P s → P (arrayAsk (.session i) r s).1

variable {P : State → Prop} {s : State}

namespace Steady

theorem port (hP : Steady P) (h : P s) {p : Port} {x : PortState} : P (s.setPort p x) := by
  cases p
  · exact hP.portA h
  · exact hP.portB h

theorem slot (hP : Steady P) (h : P s) {i : SessionId} {x : Session} : P (s.setSession i x) := by
  cases i <;> exact hP.ret h

theorem raiseEvent (hP : Steady P) (h : P s) {src : EventSource} {e : Event} : P (Machine.raiseEvent src e s) :=
  hP.raised h

theorem offerLocal (hP : Steady P) (h : P s) {p : Port} {w : Producer} {b : Bytes} :
    P (Machine.offerLocal p w b s).1 := by
  unfold Machine.offerLocal
  have h1 : ∀ {x : PortState}, P ((s.setSerial (s.serial + 1)).setPort p x) := hP.port (hP.serial h)
  simp only
  split <;> first | exact h1 | exact hP.raised h1

theorem withdraw (hP : Steady P) (h : P s) {p : Port} {w : Producer} : P (Machine.withdraw p w s) := hP.port h

/-! ### Sessions -/

theorem sessionChange (hP : Steady P) (h : P s) {i : SessionId} {f : Session → Session} :
    P (Machine.sessionChange i f s) := hP.slot h

theorem dropOpenCount (hP : Steady P) (h : P s) {x : Session} : P (Machine.dropOpenCount x s) := by
  unfold Machine.dropOpenCount
  split
  · exact h
  · exact hP.count h

theorem freeIfDone (hP : Steady P) (h : P s) {i : SessionId} : P (Machine.freeIfDone i s) := by
  unfold Machine.freeIfDone
  simp only
  split
  · exact hP.slot h
  · exact h

theorem placeEnd (hP : Steady P) (h : P s) {i : SessionId} : P (Machine.placeEnd i s) := by
  unfold Machine.placeEnd
  dsimp only
  repeat' (first | exact h | split | apply hP.freeIfDone | apply hP.sessionChange | apply hP.offerLocal)

theorem closeSession (hP : Steady P) (h : P s) {i : SessionId} : P (Machine.closeSession i s) := by
  unfold Machine.closeSession
  exact hP.sessionChange (hP.dropOpenCount h)

theorem withdrawData (hP : Steady P) (h : P s) {i : SessionId} : P (Machine.withdrawData i s) := by
  unfold Machine.withdrawData
  split
  · exact hP.withdraw h
  · exact h

theorem endSession (hP : Steady P) (h : P s) {i : SessionId} {w : EndReason} : P (Machine.endSession i w s) := by
  unfold Machine.endSession
  split
  · exact hP.placeEnd (hP.sessionChange (hP.withdrawData (hP.closeSession h)))
  · exact h

theorem loseSession (hP : Steady P) (h : P s) {i : SessionId} : P (Machine.loseSession i s) := by
  unfold Machine.loseSession
  dsimp only
  split
  · exact h
  · apply hP.freeIfDone
    apply hP.sessionChange
    split
    · exact hP.closeSession h
    · exact h

theorem fetchStep (hP : Steady P) (h : P s) {i : SessionId} : P (Machine.fetchStep i s) := by
  unfold Machine.fetchStep
  dsimp only
  split
  · exact hP.endSession (hP.slot h)
  · exact hP.slot h
  · repeat' (first | exact h | split | apply hP.endSession | apply hP.sessionChange | apply hP.session
                   | apply hP.slot)

theorem deliver (hP : Steady P) {i : SessionId} {n : Nat} : ∀ {s}, P s → P (Machine.deliver i n s) := by
  induction n with
  | zero => exact fun h => h
  | succ n ih =>
    intro s h
    unfold Machine.deliver
    dsimp only
    repeat' (first | exact h | split | apply hP.fetchStep | apply ih | apply hP.sessionChange | apply hP.offerLocal)

theorem deliverAll (hP : Steady P) (h : P s) {i : SessionId} : P (Machine.deliverAll i s) := hP.deliver h

theorem sessionPlace (hP : Steady P) (h : P s) {i : SessionId} : P (Machine.sessionPlace i s) := by
  unfold Machine.sessionPlace
  split
  · exact hP.placeEnd h
  · exact hP.deliverAll h

theorem replySeen (hP : Steady P) (h : P s) {i : SessionId} : P (Machine.replySeen i s) := by
  unfold Machine.replySeen
  split
  · exact h
  · exact hP.sessionPlace (hP.sessionChange h)

theorem sessionEntered (hP : Steady P) (h : P s) {p : Port} {i : SessionId} {w : Bool} :
    P (Machine.sessionEntered p i w s) := by
  unfold Machine.sessionEntered
  dsimp only
  repeat' (first | exact h | split | apply hP.sessionPlace | apply hP.freeIfDone | apply hP.fetchStep
                 | apply hP.deliverAll | apply hP.sessionChange)

theorem sessionWithdrawn (hP : Steady P) (h : P s) {p : Port} {i : SessionId} :
    P (Machine.sessionWithdrawn p i s) := by
  unfold Machine.sessionWithdrawn
  repeat' (first | exact h | split | apply hP.sessionPlace | apply hP.sessionChange)

theorem sessionRead (hP : Steady P) (h : P s) {i : SessionId} {r : ReadResult} : P (Machine.sessionRead i r s) := by
  unfold Machine.sessionRead
  dsimp only
  repeat' (first | exact h | split | apply hP.freeIfDone | apply hP.endSession | apply hP.fetchStep
                 | apply hP.deliverAll | apply hP.slot | apply hP.sessionChange)

theorem wakeSession (hP : Steady P) (h : P s) {i : SessionId} : P (Machine.wakeSession i s) := by
  unfold Machine.wakeSession
  dsimp only
  split
  · exact hP.fetchStep h
  · exact h

theorem wakeSessions (hP : Steady P) (h : P s) : P (Machine.wakeSessions s) := hP.wakeSession (hP.wakeSession h)

theorem overtakeSession (hP : Steady P) (h : P s) {a b : Nat} {i : SessionId} :
    P (Machine.overtakeSession a b i s) := by
  unfold Machine.overtakeSession
  dsimp only
  split
  · exact hP.endSession h
  · exact h

theorem announceBlock (hP : Steady P) (h : P s) {a b : Nat} : P (Machine.announceBlock a b s) :=
  hP.overtakeSession (hP.overtakeSession h)

theorem openSession (hP : Steady P) (h : P s) {i : SessionId} {o : OpenParams} {src : Byte} {p : Port}
    {e : Option Entry} {f : Nat} : P (Machine.openSession i o src p e f s) := by
  unfold Machine.openSession
  dsimp only
  apply hP.fetchStep
  apply hP.slot
  split
  · exact h
  · exact hP.count h

/-! ### Management Unit -/

theorem setStage (hP : Steady P) (h : P s) {c : Current} {st : ExecStage} : P (Machine.setStage c st s) := hP.mgmt h

theorem clearCurrent (hP : Steady P) (h : P s) : P (Machine.clearCurrent s) := hP.mgmt h

theorem responseEntered (hP : Steady P) (h : P s) {c : Current} {n : Nat} {b : Bytes} {st : Bool}
    {op : Option SessionId} {r : Bool} : P (Machine.responseEntered c n b st op r s).1 := by
  unfold Machine.responseEntered
  dsimp only
  repeat' (first | exact h | split | apply hP.setStage | apply hP.clearCurrent | apply hP.replySeen | apply hP.mgmt)

theorem offerResponse (hP : Steady P) (h : P s) {c : Current} {b : Bytes} {st : Bool} {op : Option SessionId}
    {r : Bool} : P (Machine.offerResponse c b st op r s).1 := by
  unfold Machine.offerResponse
  dsimp only
  repeat' (first | exact h | split | apply hP.responseEntered | apply hP.setStage | apply hP.offerLocal)

theorem countDenied (hP : Steady P) (h : P s) {st : Status} : P (Machine.countDenied st s) := by
  unfold Machine.countDenied
  split
  · exact hP.mgmt h
  · exact h

theorem runRequests (hP : Steady P) {n : Nat} : ∀ {s}, P s → P (Machine.runRequests n s) := by
  induction n with
  | zero => exact fun h => h
  | succ n ih =>
    intro s h
    unfold Machine.runRequests
    dsimp only
    repeat' (first | exact h | split | apply ih | apply hP.offerResponse | apply hP.countDenied | apply hP.mgmt)

theorem nextRequest (hP : Steady P) (h : P s) : P (Machine.nextRequest s) := hP.runRequests h

theorem thenNext (hP : Steady P) {x : State × Bool} (h : P x.1) : P (Machine.thenNext x) := by
  unfold Machine.thenNext
  split
  · exact hP.nextRequest h
  · exact h

theorem answerWith (hP : Steady P) (h : P s) {st : Status} {b : Bytes} {o : Option SessionId} {r : Bool} :
    P (Machine.answerWith st b o r s) := by
  unfold Machine.answerWith
  split
  · exact h
  · exact hP.thenNext (hP.offerResponse h)

theorem respond (hP : Steady P) (h : P s) {st : Status} {b : Bytes} : P (Machine.respond st b s) := hP.answerWith h

theorem mgmtEntered (hP : Steady P) (h : P s) {n : Nat} : P (Machine.mgmtEntered n s) := by
  unfold Machine.mgmtEntered
  repeat' (first | exact h | split | apply hP.thenNext | apply hP.responseEntered)

theorem awaitStore (hP : Steady P) (h : P s) : P (Machine.awaitStore s) := by
  unfold Machine.awaitStore
  split
  · exact h
  · exact hP.setStage h

theorem joinQueue (hP : Steady P) (h : P s) {r : Request} : P (Machine.joinQueue r s) := by
  unfold Machine.joinQueue Machine.discardArrival
  dsimp only
  repeat' (first | exact h | split | apply hP.nextRequest | apply hP.mgmt)

theorem arrive (hP : Steady P) (h : P s) {p : Port} {b : Bytes} : P (Machine.arrive p b s) := by
  unfold Machine.arrive Machine.joinCached Machine.discardArrival
  dsimp only
  repeat' (first | exact h | split | apply hP.joinQueue | apply hP.mgmt)

/-! ### Notice Unit -/

theorem offerHead (hP : Steady P) (h : P s) : P (Machine.offerHead s) := by
  unfold Machine.offerHead
  split
  · exact h
  · simp only
    split
    · exact hP.notice h
    · exact hP.notice (hP.offerLocal h)

theorem sendHead (hP : Steady P) (h : P s) : P (Machine.sendHead s) := by
  unfold Machine.sendHead
  split
  · exact h
  · split
    · exact hP.offerHead h
    · exact hP.notice h

theorem beginHead (hP : Steady P) (h : P s) : P (Machine.beginHead s) := hP.sendHead (hP.notice h)

theorem popHead (hP : Steady P) (h : P s) : P (Machine.popHead s) := hP.beginHead (hP.notice h)

theorem dropHead (hP : Steady P) (h : P s) : P (Machine.dropHead s) := hP.popHead (hP.notice h)

theorem noticeKick (hP : Steady P) (h : P s) : P (Machine.noticeKick s) := by
  unfold Machine.noticeKick
  split
  · exact hP.offerHead h
  · exact h

theorem takeEvent (hP : Steady P) (h : P s) {e : Event} : P (Machine.takeEvent e s) := by
  unfold Machine.takeEvent
  simp only
  split
  · exact h
  · split
    · exact hP.notice h
    · split
      · exact hP.beginHead (hP.notice h)
      · exact hP.notice h

theorem noticeEnding (hP : Steady P) (h : P s) {n : Nat} {b : Bool} : P (Machine.noticeEnding n b s) := by
  unfold Machine.noticeEnding
  simp only
  split
  · split <;> exact hP.notice h
  · exact hP.noticeKick h

theorem retryExpired (hP : Steady P) (h : P s) : P (Machine.retryExpired s) := by
  unfold Machine.retryExpired
  simp only
  split
  · exact h
  · split
    · exact hP.offerHead (hP.notice h)
    · exact hP.dropHead h

theorem ackHead (hP : Steady P) (h : P s) : P (Machine.ackHead s) := by
  unfold Machine.ackHead
  exact hP.popHead (hP.notice (hP.withdraw h))

theorem putNotify (hP : Steady P) (h : P s) {x : NotifySettings} : P (Machine.putNotify x s) := by
  unfold Machine.putNotify
  simp only
  split
  · exact hP.notice h
  · exact hP.notice (hP.withdraw h)

theorem noticeDown (hP : Steady P) (h : P s) {p : Port} : P (Machine.noticeDown p s) := by
  unfold Machine.noticeDown
  simp only
  split <;> exact hP.notice h

theorem noticeUp (hP : Steady P) (h : P s) {p : Port} : P (Machine.noticeUp p s) := by
  unfold Machine.noticeUp
  simp only
  split
  · split
    · exact hP.offerHead (hP.notice h)
    · exact hP.dropHead (hP.notice h)
  · exact hP.notice h

theorem tellEntered (hP : Steady P) (h : P s) {p : Port} {w : Waiter} : P (Machine.tellEntered p w s) := by
  unfold Machine.tellEntered
  split
  · exact hP.mgmtEntered h
  · exact hP.sessionEntered h
  · exact hP.noticeKick h

/-! ### Journal Writer -/

theorem programJournal (hP : Steady P) (h : P s) {b p : Nat} {r : JournalRole} {x : PageRecord} :
    P (Machine.programJournal b p r x s) := by
  unfold Machine.programJournal
  dsimp only
  exact hP.journal (hP.jrnl (hP.draw h))

theorem beginCompaction (hP : Steady P) (h : P s) : P (Machine.beginCompaction s) := hP.journal (hP.jrnl h)

theorem programCopy (hP : Steady P) (h : P s) : P (Machine.programCopy s) := hP.programJournal h

theorem serveJournal (hP : Steady P) (h : P s) {j : Job} : P (Machine.serveJournal j s) := by
  unfold Machine.serveJournal
  repeat' (first | exact h | split | apply hP.beginCompaction | apply hP.programJournal | apply hP.jrnl)

theorem serveProfile (hP : Steady P) (h : P s) : P (Machine.serveProfile s) := hP.journal (hP.jrnl h)

theorem serveJobs (hP : Steady P) (h : P s) : P (Machine.serveJobs s) := by
  unfold Machine.serveJobs
  repeat' (first | exact h | split | apply hP.serveJournal | apply hP.serveProfile | apply hP.jrnl)

theorem serveNext (hP : Steady P) (h : P s) : P (Machine.serveNext s) := hP.serveJobs (hP.jrnl h)

theorem endFaulted (hP : Steady P) (h : P s) {j : Job} : P (Machine.endFaulted j s) := by
  unfold Machine.endFaulted
  split <;> first | exact h | exact hP.respond h

theorem askJob (hP : Steady P) (h : P s) {j : Job} : P (Machine.askJob j s) := by
  unfold Machine.askJob
  dsimp only
  repeat' (first | exact h | split | apply hP.endFaulted | apply hP.serveJobs | apply hP.jrnl)

end Steady

end Sys2Proof.Machine
end

