-- ==== Sys2Proof/Laws/Staged.lean ====
section
/-! SUPPORT. What every operation does to the order of the staging buffers, said once for each: an operation that leaves
the Packer as it is leaves every property of it (`Has`), and the others keep the buffers in order (`Staged`). -/

namespace Sys2Proof.Machine

variable {s : State}

/-- A property of the Packer, as one of states. -/
def Has (q : Packer → Prop) (s : State) : Prop := q s.packer

/-- The staging buffers are in order (R28, 2.5). -/
abbrev Staged : State → Prop := Has StagingWf

variable {q : Packer → Prop}

theorem arrayAsk_packer (w : Requester) (r : ArrayReq) (s : State) : (arrayAsk w r s).1.packer = s.packer := by
  unfold arrayAsk
  dsimp only
  repeat' (first | rfl | split)

theorem drawPageSeq_packer (s : State) : (drawPageSeq s).2.packer = s.packer := by
  unfold drawPageSeq
  repeat' (first | rfl | split)

theorem Has.steady : Steady (Has q) where
  raised h := h
  portA h := h
  portB h := h
  mgmt h := h
  notice h := h
  ret h := h
  serial h := h
  jrnl h := h
  ctl _ h := h
  count h := h
  draw h := by unfold Has; rw [drawPageSeq_packer]; exact h
  journal h := by unfold Has; rw [arrayAsk_packer]; exact h
  session h := by unfold Has; rw [arrayAsk_packer]; exact h

theorem Has.setLog (h : Has q s) {x} : Has q (s.setLog x) := h
theorem Has.setDir (h : Has q s) {x} : Has q (s.setDir x) := h
theorem Has.setCtl (h : Has q s) {x} : Has q (s.setCtl x) := h
theorem Has.setSeqr (h : Has q s) {x} : Has q (s.setSeqr x) := h
theorem Has.setJrnl (h : Has q s) {x} : Has q (s.setJrnl x) := h
theorem Has.setRaised (h : Has q s) {x} : Has q (s.setRaised x) := h
theorem Has.setNotice (h : Has q s) {x} : Has q (s.setNotice x) := h
theorem Has.setMgmt (h : Has q s) {x} : Has q (s.setMgmt x) := h
theorem Has.setCls (h : Has q s) {x} : Has q (s.setCls x) := h
theorem Has.setPacker {x} (hx : q x) : Has q (s.setPacker x) := hx
theorem Has.arrayAsk (h : Has q s) {w r} : Has q (Machine.arrayAsk w r s).1 := by
  unfold Has; rw [arrayAsk_packer]; exact h
theorem Has.drawPageSeq (h : Has q s) : Has q (Machine.drawPageSeq s).2 := Has.steady.draw h

theorem Staged.offerRunStop (h : Staged s) {r} : Staged (Machine.offerRunStop r s) := by
  unfold Machine.offerRunStop
  exact (Has.setPacker (StagingWf.packRunStop h)).setCtl

theorem Has.enterStopped (h : Has q s) : Has q (Machine.enterStopped s) := by
  unfold Machine.enterStopped
  repeat' (with_reducible first | assumption | split | apply Has.steady.raiseEvent | apply Has.setCtl)

theorem Has.keptCheck (h : Has q s) : Has q (Machine.keptCheck s) := by
  unfold Machine.keptCheck
  repeat' (with_reducible first | assumption | split | apply Has.steady.askJob | apply Has.setCtl)

theorem Has.endPosting (h : Has q s) {w} : Has q (Machine.endPosting w s) := by
  unfold Machine.endPosting
  dsimp only
  repeat' (with_reducible first | assumption | split | apply Has.keptCheck | apply Has.setDir | apply Has.setRaised
                                | apply Has.setCtl)

theorem Staged.stopCapture (h : Staged s) {r} : Staged (Machine.stopCapture r s) := by
  unfold Machine.stopCapture
  repeat' (with_reducible first | assumption | split | apply Has.endPosting | apply Has.enterStopped
                                | apply Staged.offerRunStop | apply Has.setCtl)

theorem Staged.faultClose (h : Staged s) : Staged (Machine.faultClose s) := by
  unfold Machine.faultClose
  have key : ∀ t, Staged t →
      Staged (Machine.enterStopped (if t.ctl.stopReason = none then Machine.offerRunStop .fault t else t)) := by
    intro t ht
    split
    · exact ht.offerRunStop.enterStopped
    · exact ht.enterStopped
  split
  · exact h
  · dsimp only
    apply key
    repeat' (with_reducible first | assumption | split | apply Has.enterStopped | apply Staged.offerRunStop
                                  | apply Has.steady.raiseEvent | apply Has.setDir | apply Has.setLog
                                  | apply Has.setCtl)

theorem Staged.captureFault (h : Staged s) : Staged (Machine.captureFault s) := by
  unfold Machine.captureFault
  repeat' (with_reducible first | assumption | split | apply Staged.faultClose | apply Staged.stopCapture)

theorem Staged.keptCommitted (h : Staged s) {n} : Staged (Machine.keptCommitted n s) := by
  unfold Machine.keptCommitted
  have key : ∀ t, Staged t → Staged (match t.ctl.target with
      | some .running =>
        if t.ctl.settings.rearm then
          t.setCtl { t.ctl with
            state := .running, target := none,
            holdoffTimer := if t.ctl.settings.holdoff = 0 then none else some t.ctl.settings.holdoff }
        else Machine.enterStopped (Machine.offerRunStop .singleShot t)
      | some .stopped => Machine.enterStopped t
      | none => Machine.enterStopped t) := by
    intro t ht
    split
    · split
      · exact ht.setCtl
      · exact ht.offerRunStop.enterStopped
    · exact ht.enterStopped
    · exact ht.enterStopped
  split
  · exact h
  · split
    · dsimp only
      apply key
      repeat' (with_reducible first | assumption | apply Has.steady.raiseEvent | apply Has.setDir | apply Has.setLog
                                    | apply Has.setCtl)
    · exact h

theorem Has.capturingCommitted (h : Has q s) {n} : Has q (Machine.capturingCommitted n s) := by
  unfold Machine.capturingCommitted
  repeat' (with_reducible first | assumption | split | apply Has.keptCheck | apply Has.steady.raiseEvent)

theorem Has.takeTrigger (h : Has q s) {t} : Has q (Machine.takeTrigger t s) := by
  unfold Machine.takeTrigger
  dsimp only
  apply Has.steady.askJob
  exact h

theorem Has.takeMark (h : Has q s) {t} : Has q (Machine.takeMark t s) := by
  unfold Machine.takeMark
  split
  · exact h
  · exact h
  · exact h
  · exact h.takeTrigger

theorem Staged.packed (h : Staged s) {n} : Staged (Machine.packed n s) := by
  unfold Machine.packed
  dsimp only
  repeat' (with_reducible first | assumption | split | apply Has.endPosting | apply Staged.stopCapture)

theorem Staged.startCapture (h : Staged s) : Staged (Machine.startCapture s).1 := by
  unfold Machine.startCapture
  split
  · exact h
  · split
    · exact h
    · split
      · exact h
      · simp only
        apply Staged.packed
        exact (Has.setPacker (StagingWf.packRunStart h)).setCtl

theorem Has.offerBlock (h : Has q s) {b} : Has q (Machine.offerBlock b s) := by
  unfold Machine.offerBlock
  dsimp only
  repeat' (with_reducible first | assumption | split | apply Has.endPosting | apply Has.setDir | apply Has.setLog)

theorem Staged.logFault (h : Staged s) {c} : Staged (Machine.logFault c s) := by
  unfold Machine.logFault
  repeat' (with_reducible first | assumption | split | apply Staged.captureFault | apply Has.steady.raiseEvent
                                | apply Has.setLog)

theorem Staged.addRetired (h : Staged s) {b c} : Staged (Machine.addRetired b c s) := by
  unfold Machine.addRetired
  dsimp only
  repeat' (with_reducible first | assumption | split | apply Has.steady.askJob | apply Staged.logFault
                                | apply Has.steady.raiseEvent | apply Has.setLog)

theorem Has.announceChoice (h : Has q s) {l b} : Has q (Machine.announceChoice l b s) := by
  unfold Machine.announceChoice
  repeat' (with_reducible first | assumption | split | apply Has.steady.announceBlock)

theorem Has.searchErase (h : Has q s) : Has q (Machine.searchErase s) := by
  unfold Machine.searchErase
  repeat' (with_reducible first | assumption | split | apply Has.announceChoice | apply Has.arrayAsk
                                | apply Has.setLog)

/-- A FULL buffer may be handed in only while none is WRITING. -/
abbrev Ready (i : BufId) : State → Prop :=
  Has (fun p => StagingWf p ∧ ((getBuf p i).state = .full → ∀ j, (getBuf p j).state ≠ .writing))

theorem Ready.handIn {i : BufId} (h : Ready i s) {b} : Staged (Machine.handIn i b s) := by
  unfold Machine.handIn
  simp only
  apply Has.arrayAsk
  apply Has.setLog
  apply Has.setPacker
  split
  · rename_i hf
    exact h.1.takeBuf hf (h.2 hf)
  · exact h.1

theorem Staged.leaveActive (h : Staged s) : Staged (Machine.leaveActive s) := by
  unfold Machine.leaveActive
  repeat' (with_reducible first | assumption | split | apply Staged.addRetired | apply Has.setLog)

theorem Has.makeActive (h : Has q s) {b} : Has q (Machine.makeActive b s) := by
  unfold Machine.makeActive
  repeat' (with_reducible first | assumption | split | apply Has.setLog)

theorem condition_steady (c : LogCondition) : Steady (fun s => s.log.condition = c) where
  raised h := h
  portA h := h
  portB h := h
  mgmt h := h
  notice h := h
  ret h := h
  serial h := h
  jrnl h := h
  ctl _ h := h
  count h := h
  draw h := by unfold Machine.drawPageSeq; repeat' (first | exact h | split)
  journal h := by unfold Machine.arrayAsk; dsimp only; repeat' (first | exact h | split)
  session h := by unfold Machine.arrayAsk; dsimp only; repeat' (first | exact h | split)

/-- The controller hears of a fault, and the condition stands. -/
theorem captureFault_condition : (Machine.captureFault s).log.condition = s.log.condition := by
  have hk : ∀ t : State, (Machine.keptCheck t).log.condition = t.log.condition := by
    intro t
    unfold Machine.keptCheck
    repeat' (first | rfl | split)
    refine (condition_steady t.log.condition).askJob ?_
    rfl
  have hp : ∀ t : State, ∀ w, (Machine.endPosting w t).log.condition = t.log.condition := by
    intro t w
    unfold Machine.endPosting
    dsimp only
    repeat' (first | rfl | split | (rw [hk]; rfl))
  unfold Machine.captureFault
  split
  · rfl
  · unfold Machine.stopCapture
    repeat' (first | rfl | split | exact hp _ _)
  all_goals
    unfold Machine.faultClose
    dsimp only
    repeat' (first | rfl | split)

theorem inFault_condition {l m : LogManager} (h : l.condition = m.condition) : inFault l = inFault m := by
  unfold inFault; rw [h]

/-- A left active block leaves the Packer, or the log is in FAULT. -/
theorem leaveActive_packer (h : Has q s) (hf : inFault (Machine.leaveActive s).log = false) :
    Has q (Machine.leaveActive s) := by
  unfold Machine.leaveActive at hf ⊢
  split
  · exact h
  · split
    · rename_i a ha hfail
      simp only [ha, hfail, if_true] at hf
      unfold Machine.addRetired at hf ⊢
      simp only at hf ⊢
      split
      · rename_i hr
        rw [if_pos hr] at hf
        unfold Machine.logFault at hf ⊢
        split
        · refine Has.steady.raiseEvent (Has.steady.askJob ?_)
          exact h
        · rename_i hn
          rw [if_neg hn] at hf
          have h1 : ∀ src e u, (raiseEvent src e u).log = u.log := fun _ _ _ => rfl
          rw [h1, inFault_condition (captureFault_condition)] at hf
          exact absurd hf nofun
      · refine Has.steady.raiseEvent (Has.steady.askJob ?_)
        exact h
    · exact h

/-- A block change leaves the Packer, or the log is in FAULT. -/
theorem blockChange_packer (h : Has q s) {b} (hf : inFault (Machine.blockChange b s).log = false) :
    Has q (Machine.blockChange b s) := by
  unfold Machine.blockChange at hf ⊢
  simp only at hf ⊢
  split
  · rename_i h1
    rw [if_pos h1] at hf
    rw [h1] at hf
    cases hf
  · rename_i h1
    exact (leaveActive_packer h (Bool.eq_false_iff.2 h1)).makeActive.offerBlock.searchErase

theorem Staged.blockChange (h : Staged s) {b} : Staged (Machine.blockChange b s) := by
  unfold Machine.blockChange
  dsimp only
  split
  · exact h.leaveActive
  · exact h.leaveActive.makeActive.offerBlock.searchErase

theorem Has.noPage (h : Has q s) : Has q (Machine.noPage s) := by
  unfold Machine.noPage
  repeat' (with_reducible first | assumption | split | apply Has.steady.raiseEvent | apply Has.setLog)

theorem Staged.handWaiting {i : BufId} (h : Staged s) (hr : inFault s.log = false → Ready i s) :
    Staged (Machine.handWaiting i s) := by
  unfold Machine.handWaiting
  split
  · exact h
  · split
    · rename_i hc
      exact (hr hc.2).handIn
    · exact h

/-- The waiting buffer may be handed in. -/
theorem Staged.waiting {i : BufId} (h : Staged s) (hi : waitingBuffer s = some i) : Ready i s := by
  unfold waitingBuffer at hi
  refine ⟨h, fun hf j hj => ?_⟩
  split at hi
  · rename_i k hk
    split at hi
    · cases hi
    · cases hi
      rw [bufIn_some hk] at hf
      cases hf
  · rename_i hk
    exact bufIn_none hk j hj

theorem Staged.logKick (h : Staged s) : Staged (Machine.logKick s) := by
  unfold Machine.logKick
  split
  · exact h
  · split
    · exact h
    · rename_i i hi
      have hr := h.waiting hi
      split
      · exact h.handWaiting fun _ => hr
      · split
        · exact h.blockChange.handWaiting fun hf => blockChange_packer hr hf
        · exact h.noPage
        · exact h.noPage

theorem Staged.returnWriting (h : Staged s) : Staged (Machine.returnWriting s) := by
  unfold Machine.returnWriting
  split
  · exact h
  · rename_i i hi
    exact Staged.packed (Has.setPacker (StagingWf.returnBuf h (bufIn_some hi)))

theorem Has.raiseResumed (h : Has q s) {n} : Has q (Machine.raiseResumed n s) := by
  unfold Machine.raiseResumed
  repeat' (with_reducible first | assumption | split | apply Has.steady.raiseEvent | apply Has.setLog)

theorem Staged.logCommitted (h : Staged s) {b d} : Staged (Machine.logCommitted b d s) := by
  unfold Machine.logCommitted
  exact Staged.logKick
    (Has.raiseResumed (Has.keptCheck (Has.steady.wakeSessions (Staged.returnWriting (Has.setLog h)))))

theorem Staged.logFailed (h : Staged s) : Staged (Machine.logFailed s) := by
  unfold Machine.logFailed
  apply Staged.logKick
  exact Has.setLog h

theorem Staged.eraseAheadErased (h : Staged s) {b} : Staged (Machine.eraseAheadErased b s) := by
  unfold Machine.eraseAheadErased
  repeat' (with_reducible first | assumption | split | apply Staged.logKick | apply Has.setLog)

theorem Staged.eraseAheadFailed (h : Staged s) {b} : Staged (Machine.eraseAheadFailed b s) := by
  unfold Machine.eraseAheadFailed
  simp only
  have h1 : Staged (s.setLog { setBlockState s.log b .retired with
      ahead := .none, eraseFailures := bump s.log.eraseFailures }) :=
    Has.setLog h
  repeat' (with_reducible first | assumption | split | apply Staged.addRetired | apply Staged.logKick
                                | apply Has.searchErase | apply Has.setLog)

theorem Staged.releaseClaim (h : Staged s) {bs} : Staged (Machine.releaseClaim bs s) := by
  unfold Machine.releaseClaim
  simp only
  repeat' (with_reducible first | assumption | split | apply Staged.logKick | apply Has.searchErase
                                | apply Has.setLog)

theorem Has.noteJournaled (h : Has q s) {r} : Has q (Machine.noteJournaled r s) := by
  unfold Machine.noteJournaled
  repeat' (with_reducible first | assumption | split | apply Has.setDir)

theorem Staged.releaseCommitted (h : Staged s) {r} : Staged (Machine.releaseCommitted r s) := by
  unfold Machine.releaseCommitted
  repeat' (with_reducible first | assumption | split | apply Staged.releaseClaim | apply Has.steady.respond
                                | apply Has.setDir)

theorem Has.freezeCommitted (h : Has q s) {r} : Has q (Machine.freezeCommitted r s) := by
  unfold Machine.freezeCommitted
  repeat' (with_reducible first | assumption | split | apply Has.steady.respond | apply Has.setDir)

theorem Staged.reportCommit (h : Staged s) {r} : Staged (Machine.reportCommit r s) := by
  unfold Machine.reportCommit
  repeat' (with_reducible first | assumption | split | apply Has.capturingCommitted | apply Has.freezeCommitted
                                | apply Staged.keptCommitted | apply Staged.releaseCommitted)

theorem Staged.foldFault (js : List Job) :
    ∀ {s}, Staged s → Staged (js.foldl (fun t j => Machine.endFaulted j t) s) := by
  induction js with
  | nil => exact fun h => h
  | cons j js ih => exact fun h => ih (Has.steady.endFaulted h)

theorem Staged.directoryFault (h : Staged s) : Staged (Machine.directoryFault s) := by
  unfold Machine.directoryFault
  simp only
  apply Has.steady.serveNext
  apply Staged.foldFault
  repeat' (with_reducible first | assumption | split | apply Has.steady.endFaulted | apply Staged.logFault
                                | apply Has.steady.serveNext | apply Has.setJrnl)

theorem Staged.compactAgain (h : Staged s) : Staged (Machine.compactAgain s) := by
  unfold Machine.compactAgain
  repeat' (with_reducible first | assumption | split | apply Has.steady.beginCompaction
                                | apply Staged.directoryFault)

theorem Staged.appendAgain (h : Staged s) {j} : Staged (Machine.appendAgain j s) := by
  unfold Machine.appendAgain
  repeat' (with_reducible first | assumption | split | apply Staged.compactAgain | apply Has.steady.programJournal
                                | apply Has.setJrnl)

theorem Staged.appendCommitted (h : Staged s) {j} : Staged (Machine.appendCommitted j s) := by
  unfold Machine.appendCommitted
  dsimp only
  repeat' (with_reducible first | assumption | split | apply Has.noteJournaled | apply Staged.reportCommit
                                | apply Has.steady.serveNext | apply Has.setJrnl)

theorem Has.countDirFailure (h : Has q s) {x : JournalWriter} :
    Has q (s.setJrnl (Machine.countDirFailure x)) := h

theorem Staged.appendFailed (h : Staged s) : Staged (Machine.appendFailed s) := by
  unfold Machine.appendFailed
  repeat' (with_reducible first | assumption | split | apply Staged.appendAgain | apply Has.countDirFailure
                                | apply Has.setJrnl)

theorem Staged.copyCommitted (h : Staged s) {r} : Staged (Machine.copyCommitted r s) := by
  unfold Machine.copyCommitted
  dsimp only
  repeat' (with_reducible first | assumption | split | apply Staged.appendAgain | apply Staged.compactAgain
                                | apply Has.noteJournaled | apply Has.steady.programCopy | apply Has.setJrnl)

theorem Staged.copyFailed (h : Staged s) : Staged (Machine.copyFailed s) := by
  unfold Machine.copyFailed
  dsimp only
  repeat' (with_reducible first | assumption | split | apply Staged.compactAgain | apply Has.steady.programCopy
                                | apply Has.countDirFailure | apply Has.setJrnl)

theorem Staged.compactErased (h : Staged s) : Staged (Machine.compactErased s) := by
  unfold Machine.compactErased
  repeat' (with_reducible first | assumption | split | apply Has.steady.programCopy | apply Has.setJrnl)

theorem Staged.endProfile (h : Staged s) {a b} : Staged (Machine.endProfile a b s) := by
  unfold Machine.endProfile
  repeat' (with_reducible first | assumption | split | apply Has.steady.respond | apply Has.steady.serveNext
                                | apply Has.setJrnl)

theorem Staged.profileFailed (h : Staged s) : Staged (Machine.profileFailed s) := by
  unfold Machine.profileFailed
  apply Staged.endProfile
  exact h

theorem Staged.programProfile (h : Staged s) {a b} : Staged (Machine.programProfile a b s) :=
  Has.arrayAsk (Has.drawPageSeq h)

theorem Staged.profileErased (h : Staged s) : Staged (Machine.profileErased s) := by
  unfold Machine.profileErased
  split
  · exact Staged.programProfile (Has.setJrnl h)
  · split
    · exact Has.arrayAsk (Has.setJrnl h)
    · exact Staged.endProfile (Has.setJrnl h)
  · exact h

theorem Staged.profileEraseFailed (h : Staged s) : Staged (Machine.profileEraseFailed s) := by
  unfold Machine.profileEraseFailed
  repeat' (with_reducible first | assumption | split | apply Staged.profileFailed | apply Has.setJrnl)

theorem Staged.profileCommitted (h : Staged s) : Staged (Machine.profileCommitted s) := by
  unfold Machine.profileCommitted
  repeat' (with_reducible first | assumption | split | apply Staged.endProfile | apply Staged.programProfile
                                | apply Has.setJrnl)

theorem Staged.journalProgrammed (h : Staged s) {a b} : Staged (Machine.journalProgrammed a b s) := by
  unfold Machine.journalProgrammed
  repeat' (with_reducible first | assumption | split | apply Staged.appendCommitted | apply Staged.appendFailed
                                | apply Staged.copyCommitted | apply Staged.copyFailed
                                | apply Staged.profileCommitted | apply Staged.profileFailed)

theorem Staged.journalErased (h : Staged s) {a} : Staged (Machine.journalErased a s) := by
  unfold Machine.journalErased
  repeat' (with_reducible first | assumption | split | apply Staged.compactErased | apply Staged.directoryFault
                                | apply Staged.profileEraseFailed | apply Staged.profileErased)

/-! ### The mount scan -/

theorem Staged.scanAsk (h : Staged s) {a b} : Staged (Machine.scanAsk a b s) := Has.arrayAsk (Has.setSeqr h)

theorem Staged.setPhase (h : Staged s) {a} : Staged (Machine.setPhase a s) := by
  unfold Machine.setPhase
  repeat' (with_reducible first | assumption | split | apply Has.setSeqr)

theorem Staged.installProfile (h : Staged s) {b g p} : Staged (Machine.installProfile b g p s) := h

theorem Staged.endPhase1 (h : Staged s) {g} : Staged (Machine.endPhase1 g s) := by
  unfold Machine.endPhase1
  dsimp only
  apply Staged.scanAsk
  apply Staged.setPhase
  split
  · exact h
  · rename_i hc
    exact Staged.installProfile h

theorem Staged.mountProfile (h : Staged s) {a b} : Staged (Machine.mountProfile a b s) := by
  unfold Machine.mountProfile
  dsimp only
  repeat' (with_reducible first | assumption | split | apply Staged.endPhase1 | apply Staged.scanAsk
                                | apply Has.setSeqr)

theorem Staged.endPhase2 (h : Staged s) : Staged (Machine.endPhase2 s) := by
  unfold Machine.endPhase2
  apply Staged.scanAsk
  apply Staged.setPhase
  exact Has.setSeqr (Has.setLog (Has.setDir h))

theorem Staged.mountJournal (h : Staged s) {a b} : Staged (Machine.mountJournal a b s) := by
  unfold Machine.mountJournal
  dsimp only
  split
  · exact Staged.scanAsk (Has.setSeqr h)
  · exact Staged.endPhase2 (Has.setSeqr h)

theorem Staged.noteTail (h : Staged s) {a b} : Staged (Machine.noteTail a b s) := by
  unfold Machine.noteTail
  split
  · exact h
  · exact Has.setSeqr h

theorem Staged.noteRead (h : Staged s) {a b} : Staged (Machine.noteRead a b s) := by
  unfold Machine.noteRead
  repeat' (with_reducible first | assumption | split | apply Has.setSeqr)

theorem Staged.enterBlock (h : Staged s) {a b} : Staged (Machine.enterBlock a b s) := by
  unfold Machine.enterBlock
  repeat' (with_reducible first | assumption | split | apply Has.setLog)

theorem Staged.reviveBlock (h : Staged s) {a} : Staged (Machine.reviveBlock a s) := by
  unfold Machine.reviveBlock
  dsimp only
  repeat' (with_reducible first | assumption | split | apply Has.setLog)

theorem Staged.setSequences (h : Staged s) : Staged (Machine.setSequences s) := by
  unfold Machine.setSequences
  split
  · exact Has.setPacker (h.of_eq rfl rfl rfl rfl rfl)
  · rename_i b d _
    have h1 : Staged (Machine.reviveBlock b s) := Staged.reviveBlock h
    dsimp only
    apply Has.setCtl
    apply Has.setPacker
    exact StagingWf.of_eq h1 rfl rfl rfl rfl rfl

theorem Staged.computeHolds (h : Staged s) : Staged (Machine.computeHolds s) := h

theorem Staged.becomeReady (h : Staged s) : Staged (Machine.becomeReady s) := by
  unfold Machine.becomeReady
  dsimp only
  have k4 : ∀ t, Staged t → Staged (if t.ctl.settings.autostart = true then (Machine.startCapture t).1 else t) := by
    intro t ht
    split
    · exact ht.startCapture
    · exact ht
  have k3 : ∀ t, Staged t →
      Staged (match t.log.ahead with | .underWay b => (Machine.arrayAsk .eraseAhead (.erase b) t).1 | _ => t) := by
    intro t ht
    split
    · exact Has.arrayAsk ht
    · exact ht
  have k2 : ∀ t, Staged t →
      Staged (match t.log.condition with | .fault cause => Machine.raiseEvent .log (.storeFault cause) t | _ => t) := by
    intro t ht
    split
    · exact Has.steady.raiseEvent ht
    · exact ht
  apply k4
  apply k3
  apply k2
  split
  · apply Has.steady.raiseEvent
    exact h
  · apply Has.steady.raiseEvent
    apply Has.steady.askJob
    apply Has.steady.raiseEvent
    exact h

theorem Staged.beginPhase6 (h : Staged s) : Staged (Machine.beginPhase6 s) := by
  unfold Machine.beginPhase6
  have h1 : Staged (Machine.setPhase 6 s) := h.setPhase
  generalize Machine.setPhase 6 s = t at h1 ⊢
  dsimp only
  split
  · exact h1.setPhase.becomeReady
  · split
    · apply Staged.becomeReady
      apply Staged.setPhase
      exact Has.setLog h1
    · apply Staged.scanAsk
      exact Has.setLog h1

theorem Staged.firstErased (h : Staged s) {a b} : Staged (Machine.firstErased a b s) := by
  unfold Machine.firstErased
  dsimp only
  repeat' (with_reducible first | assumption | split | apply Staged.becomeReady | apply Staged.setPhase
                                | apply Has.setLog | apply Has.setSeqr)

theorem Staged.beginPhase5 (h : Staged s) : Staged (Machine.beginPhase5 s) := by
  unfold Machine.beginPhase5
  dsimp only
  repeat' (with_reducible first | assumption | split | apply Staged.beginPhase6 | apply Staged.computeHolds
                                | apply Staged.setPhase | apply Has.setLog)

theorem Staged.mountCompact (h : Staged s) {a} : Staged (Machine.mountCompact a s) := by
  unfold Machine.mountCompact
  dsimp only
  repeat' (with_reducible first | assumption | split | apply Staged.scanAsk | apply Has.setSeqr)

theorem Staged.mountProgram (h : Staged s) {a b c d e} : Staged (Machine.mountProgram a b c d e s) := by
  unfold Machine.mountProgram
  dsimp only
  repeat' (with_reducible first | assumption | split | apply Has.drawPageSeq | apply Staged.scanAsk)

theorem Staged.completeEntry (h : Staged s) {a b c} : Staged (Machine.completeEntry a b c s) := by
  unfold Machine.completeEntry
  repeat' (with_reducible first | assumption | split | apply Has.setDir)

theorem Staged.journalEntry (h : Staged s) {n t} (ht : Machine.journalEntry n s = some t) : Staged t := by
  unfold Machine.journalEntry at ht
  split at ht
  · simp at ht
  · split at ht
    · simp at ht
      subst ht
      repeat' (with_reducible first | assumption | split | apply Staged.mountCompact | apply Staged.mountProgram)
    · simp at ht
      subst ht
      repeat' (with_reducible first | assumption | split | apply Staged.mountCompact | apply Staged.mountProgram)
    · simp at ht

theorem Staged.mountDirFault (h : Staged s) : Staged (Machine.mountDirFault s) := by
  unfold Machine.mountDirFault
  repeat' (with_reducible first | assumption | split | apply Has.setSeqr)

theorem Staged.workOn {n} : ∀ {s}, Staged s → Staged (Machine.workOn n s) := by
  induction n with
  | zero => exact fun h => h.beginPhase5
  | succ n ih =>
    intro s h
    unfold Machine.workOn
    split
    · repeat' (with_reducible first | assumption | split | apply Staged.beginPhase5 | apply Staged.completeEntry
                                    | apply Staged.scanAsk | apply Has.setDir | apply Has.setSeqr)
    · split
      · apply ih
        repeat' (with_reducible first | assumption | split | apply Staged.beginPhase5 | apply Staged.completeEntry
                                      | apply Staged.scanAsk | apply Has.setDir | apply Has.setSeqr)
      · dsimp only
        split
        · repeat' (with_reducible first | assumption | split | apply Staged.beginPhase5 | apply Staged.completeEntry
                                        | apply Staged.scanAsk | apply Has.setDir | apply Has.setSeqr)
        · have h1 : ∀ a b c x, Staged ((Machine.completeEntry a b c s).setSeqr x) := by
            intro a b c x
            exact Has.setSeqr (Staged.completeEntry h)
          split
          · rename_i hj
            refine Staged.journalEntry ?_ hj
            apply h1
          · apply ih
            apply h1

theorem Staged.nextWork (h : Staged s) : Staged (Machine.nextWork s) := h.workOn

theorem Staged.beginPhase4 (h : Staged s) : Staged (Machine.beginPhase4 s) := by
  unfold Machine.beginPhase4
  repeat' (with_reducible first | assumption | split | apply Staged.nextWork | apply Staged.setPhase
                                | apply Has.setSeqr)

theorem Staged.journalAgain (h : Staged s) {n} : Staged (Machine.journalAgain n s) := by
  unfold Machine.journalAgain
  split
  · rename_i hj
    exact h.journalEntry hj
  · repeat' (with_reducible first | assumption | split | apply Staged.mountDirFault | apply Staged.nextWork)

theorem Staged.mountLastBlock (h : Staged s) {a b c d} : Staged (Machine.mountLastBlock a b c d s) := by
  unfold Machine.mountLastBlock
  dsimp only
  have h0 : Staged (Machine.noteTail b d s) := h.noteTail
  generalize Machine.noteTail b d s = t at h0
  split
  · repeat' (with_reducible first | assumption | split | apply Staged.completeEntry | apply Staged.nextWork
                                  | apply Staged.noteTail | apply Staged.scanAsk | apply Has.setSeqr)
  · split
    · repeat' (with_reducible first | assumption | split | apply Staged.completeEntry | apply Staged.nextWork
                                    | apply Staged.noteTail | apply Staged.scanAsk | apply Has.setSeqr)
    · have h1 : ∀ a' b' c' x, Staged ((Machine.completeEntry a' b' c' t).setSeqr x) := by
        intro a b c x
        exact Has.setSeqr (Staged.completeEntry h0)
      split
      · rename_i hj
        refine Staged.journalEntry ?_ hj
        apply h1
      · apply Staged.nextWork
        apply h1

theorem Staged.mountAppended (h : Staged s) {a b} : Staged (Machine.mountAppended a b s) := by
  unfold Machine.mountAppended
  dsimp only
  repeat' (with_reducible first | assumption | split | apply Staged.journalAgain | apply Staged.nextWork
                                | apply Has.setDir | apply Has.setSeqr)

theorem Staged.mountCompactAgain (h : Staged s) {a} : Staged (Machine.mountCompactAgain a s) := by
  unfold Machine.mountCompactAgain
  repeat' (with_reducible first | assumption | split | apply Staged.mountCompact | apply Staged.mountDirFault
                                | apply Staged.nextWork)

theorem Staged.mountCopy (h : Staged s) {a} : Staged (Machine.mountCopy a s) := by
  unfold Machine.mountCopy
  dsimp only
  repeat' (with_reducible first | assumption | split | apply Staged.mountProgram)

theorem Staged.mountCompErased (h : Staged s) {a b} : Staged (Machine.mountCompErased a b s) := by
  unfold Machine.mountCompErased
  repeat' (with_reducible first | assumption | split | apply Staged.mountCopy | apply Staged.mountDirFault
                                | apply Staged.nextWork | apply Has.setSeqr)

theorem Staged.mountCopied (h : Staged s) {a b} : Staged (Machine.mountCopied a b s) := by
  unfold Machine.mountCopied
  dsimp only
  repeat' (with_reducible first | assumption | split | apply Staged.journalAgain | apply Staged.mountCompactAgain
                                | apply Staged.mountCopy | apply Has.setSeqr)

theorem Staged.endPhase3 (h : Staged s) : Staged (Machine.endPhase3 s) := by
  unfold Machine.endPhase3
  repeat' (with_reducible first | assumption | split | apply Staged.beginPhase4 | apply Staged.setSequences)

theorem Staged.scanNewest (h : Staged s) : Staged (Machine.scanNewest s) := by
  unfold Machine.scanNewest
  repeat' (with_reducible first | assumption | split | apply Staged.endPhase3 | apply Staged.scanAsk)

theorem Staged.scanBlock (h : Staged s) {a} : Staged (Machine.scanBlock a s) := by
  unfold Machine.scanBlock
  repeat' (with_reducible first | assumption | split | apply Staged.scanNewest | apply Staged.scanAsk)

theorem Staged.mountLogHead (h : Staged s) {a b} : Staged (Machine.mountLogHead a b s) := by
  unfold Machine.mountLogHead
  repeat' (with_reducible first | assumption | split | apply Staged.enterBlock | apply Staged.noteRead
                                | apply Staged.scanBlock | apply Staged.scanAsk)

theorem Staged.mountLogRest (h : Staged s) {a b c} : Staged (Machine.mountLogRest a b c s) := by
  unfold Machine.mountLogRest
  dsimp only
  repeat' (with_reducible first | assumption | split | apply Staged.enterBlock | apply Staged.noteRead
                                | apply Staged.scanBlock | apply Staged.scanAsk)

theorem Staged.mountNewest (h : Staged s) {a b c} : Staged (Machine.mountNewest a b c s) := by
  unfold Machine.mountNewest
  dsimp only
  repeat' (with_reducible first | assumption | split | apply Staged.endPhase3 | apply Staged.noteRead
                                | apply Staged.scanAsk)

theorem Staged.mountReadDone (h : Staged s) {a} : Staged (Machine.mountReadDone a s) := by
  unfold Machine.mountReadDone
  repeat' (with_reducible first | assumption | split | apply Staged.mountJournal | apply Staged.mountLastBlock
                                | apply Staged.mountLogHead | apply Staged.mountLogRest | apply Staged.mountNewest
                                | apply Staged.mountProfile)

theorem Staged.mountProgramDone (h : Staged s) {a} : Staged (Machine.mountProgramDone a s) := by
  unfold Machine.mountProgramDone
  repeat' (with_reducible first | assumption | split | apply Staged.mountAppended | apply Staged.mountCopied)

theorem Staged.mountEraseDone (h : Staged s) {a} : Staged (Machine.mountEraseDone a s) := by
  unfold Machine.mountEraseDone
  split <;> first | exact h | exact h.mountCompErased | exact h.firstErased

theorem Staged.beginMount (h : Staged s) : Staged (Machine.beginMount s) := by
  unfold Machine.beginMount
  exact h.setPhase.scanAsk

/-! ### Commands -/

theorem Has.arrayChoose (h : Has q s) : Has q (Machine.arrayChoose s) := by
  unfold Machine.arrayChoose
  repeat' (first | exact h | split)

theorem Has.arrayFree (h : Has q s) : Has q (Machine.arrayFree s) := by
  apply Has.arrayChoose
  exact h

theorem Has.takeRequest (h : Has q s) {c f} (hf : ∀ r t, Has q t → Has q (f r t)) :
    Has q (Machine.takeRequest c f s) := by
  unfold Machine.takeRequest
  repeat' (with_reducible first | assumption | split | apply hf)

theorem StagingWf.initial : StagingWf Packer.initial := by
  refine ⟨?_, ?_, ?_, ?_, ?_, ?_, ?_⟩
  · intro i j h; cases i <;> cases h
  · intro i j h; cases i <;> cases h
  · intro i; cases i <;> exact ⟨fun _ => rfl, fun _ => rfl⟩
  · intro i; cases i <;> exact ⟨nofun, nofun⟩
  · exact List.nodup_nil
  · exact fun h => absurd rfl h
  · exact fun h => absurd rfl h

theorem Staged.beginReset {c o} : Staged (Machine.beginReset c o s) := by
  exact StagingWf.initial

theorem Staged.settleRestart (h : Staged s) : Staged (Machine.settleRestart s) := by
  have hd : ∀ t, Staged t → Staged (Machine.drainTest t) := by
    intro t ht
    unfold Machine.drainTest
    split
    · exact Staged.beginReset
    · exact ht
  unfold Machine.settleRestart
  split
  · exact h
  · split
    · split
      · exact Staged.beginReset
      · split
        · apply hd
          apply Staged.logKick
          apply Has.steady.setStage
          exact Has.setPacker (StagingWf.closeFilling h)
        · exact h
    · exact hd _ h
    all_goals exact h

theorem Staged.settle (h : Staged s) : Staged (Machine.settle s) := (Staged.logKick h).settleRestart

theorem Staged.beginStop (h : Staged s) {c} : Staged (Machine.beginStop c s) :=
  Staged.stopCapture (Has.steady.setStage h)

theorem Staged.mgmtEnding (h : Staged s) {n b} : Staged (Machine.mgmtEnding n b s) := by
  unfold Machine.mgmtEnding
  repeat' (with_reducible first | assumption | split | apply Staged.beginStop | apply Has.steady.loseSession
                                | apply Has.steady.nextRequest | apply Has.steady.clearCurrent)

theorem Staged.takeEnding (h : Staged s) {e} : Staged (Machine.takeEnding e s) := by
  unfold Machine.takeEnding
  split
  · exact h.mgmtEnding
  · exact h
  · exact Has.steady.noticeEnding h

theorem Staged.readDone (h : Staged s) {w r} : Staged (Machine.readDone w r s) := by
  unfold Machine.readDone
  split
  · exact Has.steady.sessionRead h
  · exact Staged.mountReadDone h
  all_goals exact h

theorem Staged.programDone (h : Staged s) {w b x d r} : Staged (Machine.programDone w b x d r s) := by
  unfold Machine.programDone
  split
  · exact Staged.journalProgrammed h
  · split
    · exact Staged.logCommitted h
    · exact Staged.logFailed h
  · exact Staged.mountProgramDone h
  all_goals exact h

theorem Staged.eraseDone (h : Staged s) {w b r} : Staged (Machine.eraseDone w b r s) := by
  unfold Machine.eraseDone
  split
  · exact Staged.journalErased h
  · split
    · exact Staged.eraseAheadErased h
    · exact Staged.eraseAheadFailed h
  · exact Staged.mountEraseDone h
  all_goals exact h

theorem Staged.takeResult (h : Staged s) {r} : Staged (Machine.takeResult r s) := by
  have pm : ∀ b t, Staged t → Staged (Machine.passMark r b t) := by
    intro b t ht
    unfold Machine.passMark
    split
    · exact Has.setRaised ht
    · exact ht
  unfold Machine.takeResult
  split
  · exact pm _ _ h
  · rename_i c _
    dsimp only
    have h1 : Staged (s.setPacker (packCapture (flushInterval s) r c s.packer).1) :=
      Has.setPacker (StagingWf.packCapture h)
    apply Staged.packed
    apply pm
    split
    · exact h1
    · unfold noteLoss
      split
      · exact h1
      · apply Has.steady.raiseEvent
        apply Has.setPacker
        exact StagingWf.of_eq h1 rfl rfl rfl rfl rfl

theorem staged_port {p x} (h : Staged s) : Staged (s.setPort p x) := Has.steady.port h

theorem takeLink_staged {w p u t} (h : Staged s) (ht : takeLink w p u s = some t) : Staged t := by
  unfold takeLink at ht
  repeat' (split at ht)
  all_goals (cases ht)
  · exact h
  · exact Has.setRaised (staged_port h)

theorem ite_staged {c : Prop} [Decidable c] {a b : State} (ha : Staged a) (hb : Staged b) :
    Staged (if c then a else b) := by
  split <;> assumption

end Sys2Proof.Machine
end

