-- ==== Sys2Proof/WellFormed.lean ====
section
/-! DEFINITION. Which commands can be sent: a block has 16 pages (3.1), so a failed cancellation names a page
from 0 to 15. Every other operand type holds only values that the spec names. -/

namespace Sys2Proof

/-- A well-formed end of an erase: the page whose mark could not be cancelled is a page of the block (R50). -/
def EraseEnd.wellFormed : EraseEnd → Bool
  | .erased => true
  | .cancelFailed page => decide (page < 16)
  | .eraseFailed _ => true

/-- A well-formed command. -/
def Instr.wellFormed : Instr → Bool
  | .powerOn _ => true
  | .lineReset _ => true
  | .leaveReset _ _ => true
  | .linkDown _ => true
  | .linkUp _ => true
  | .sessionLinkLost _ => true
  | .noticeLinkDown _ => true
  | .noticeLinkUp _ => true
  | .frameEnd _ _ => true
  | .relayOffer _ => true
  | .frameReceived _ => true
  | .classificationResult => true
  | .triggerMark => true
  | .postingClosure => true
  | .flushTimerExpiry => true
  | .postTimeExpiry => true
  | .holdoffExpiry => true
  | .idleTimerExpiry _ => true
  | .retryTimerExpiry => true
  | .readPageEnd => true
  | .programPageEnd _ => true
  | .eraseBlockEnd r => r.wellFormed
  | .frameWithdrawal _ who => match who with
    | .mgmt => false
    | .session _ => true
    | .notice => true
  | .transmissionEnd _ => true
  | .localFrameEnding _ _ => true
  | .requestArrival _ => true
  | .discover => true
  | .readStatus => true
  | .readCounters => true
  | .clearCounters => true
  | .setManagers => true
  | .restart => true
  | .writeRule => true
  | .readRule => true
  | .enableRule => true
  | .disableRule => true
  | .clearRule => true
  | .clearHits => true
  | .setDefaultAction => true
  | .flush => true
  | .setTime => true
  | .setCapture => true
  | .startCapture => true
  | .stopCapture => true
  | .forceTrigger => true
  | .listRecordings => true
  | .readRecording => true
  | .releaseRecording => true
  | .freezeRecording => true
  | .saveProfile => true
  | .clearProfile => true
  | .openRetrieval => true
  | .grantCredit => true
  | .closeRetrieval => true
  | .setNotify => true
  | .ackNotice => true
  | .noticeEvent _ => true
  | .frameStart _ => true

end Sys2Proof
end

