-- ==== Sys2Proof/Tests/Slice0.lean ====
section
/-! SUPPORT. Tests: the well-formedness smoke, the check of 12.1 and small steps from the spec's own text; and for every
obligation with hypotheses a witness, a concrete state and operands that meet them, clause by clause. -/

set_option Elab.async false

namespace Sys2Proof.Tests

open Sys2Proof Sys2Proof.Machine

/-! ### Small states -/

/-- READY, both ports UP, everything else as after reset. -/
def ready : State := { State.reset with
  seqr := { State.reset.seqr with part := .ready, bypass := false },
  portA := { PortState.initial with line := true, up := true }, portB := { PortState.initial with line := true, up := true },
  notice := { NoticeUnit.initial with linkA := true, linkB := true } }

/-- A request of station 17 that arrived on Port A with tag 7. -/
def request (code : Byte) (params : Bytes) : Request :=
  { src := 17, port := .a, code := code, tag := 7, params := params, broadcast := false, cached := none }

/-- The state with that request handed to its owner. -/
def asked (s : State) (code : Byte) (params : Bytes) : State :=
  { s with mgmt := { s.mgmt with current := some { req := request code params, stage := .handed } } }

/-- The next state of an outcome has a property. -/
def nextIs (o : Host.Outcome State Fault Refusal) (f : State → Bool) : Bool :=
  match o with
  | .next t => f t
  | .fault _ => false
  | .refused _ => false

/-- A page of a log block with one RUN_START record of sequence `n`. -/
def logPage (n : Nat) : Page :=
  { mark := .present, headerFlaw := 0, dataFlaw := 0,
    header := { kind := .log, pageSeq := 1, run := 1, capturing := 0, firstSeq := n, count := 1, used := 16 },
    data := .log [{ seq := n, time := 0, body := .runStart 1 }] }

/-- The array running one operation. -/
def running (s : State) (who : Requester) (req : ArrayReq) : State :=
  { s with arr := { s.arr with running := some { who := who, req := req, count := 0, reached := 0 } } }

/-- SB0 in a state with records, SB1 in a state without. -/
def buffers (s : State) (st0 : BufState) (recs : List Record) (st1 : BufState) : State :=
  { s with packer := { s.packer with
      sb0 := { state := st0, recs := recs, run := 1 }, sb1 := { state := st1, recs := [], run := 1 }, gateOpen := true } }

/-- A directory entry. -/
def entry (num : Nat) (st : RecState) : Entry :=
  { num := num, state := st, source := .forced, trigTime := 5, trigSeq := 3, trigLost := false, first := 1, last := some 9,
    reason := some .count, blocks := [4], sessions := 0, journaled := .kept }

/-- A local frame of the Management Unit. -/
def frame (n : Nat) : LocalFrame := { who := .mgmt, serial := n, bytes := [1, 2, 125, 0, 0] }

/-- Record 3, a RUN_START. -/
def record3 : Record := { seq := 3, time := 0, body := .runStart 1 }

/-- A state in which the Journal Writer serves a job. -/
def writing (s : State) : State := { s with jrnl := { s.jrnl with state := .appending, jobs := [.kept 9] } }

/-! ### Well-formedness, decoding, formats -/

theorem test_wellFormed_refuses_page_16 : Instr.wellFormed (.eraseBlockEnd (.cancelFailed 16)) = false := by decide

theorem test_wellFormed_accepts_page_15 : Instr.wellFormed (.eraseBlockEnd (.cancelFailed 15)) = true := by decide

theorem test_wellFormed_refuses_withdrawal_by_mgmt : Instr.wellFormed (.frameWithdrawal .a .mgmt) = false := by decide

theorem test_no_word_spells_a_command : decodeTableWord 8 0x31 = none := rfl

theorem test_fetch_word_leaves_reset : State.reset.withFetchWord 8 0x31 = State.reset := rfl

/-- 12.1: the check of the nine bytes 0x31 to 0x39 is 0x29B1. -/
theorem test_check_value : crc16 [0x31, 0x32, 0x33, 0x34, 0x35, 0x36, 0x37, 0x38, 0x39] = 0x29B1#16 := by
  decide +kernel

/-- 11.1: straps 0 and 251 to 255 give address 250. -/
theorem test_straps : [0, 1, 250, 251, 255].map strapAddress = [(250 : Byte), 1, 250, 250, 250] := by decide +kernel

/-- 5.2: run numbers wrap from 65535 to 1. -/
theorem test_number_wraps : [nextNumber 1, nextNumber 65534, nextNumber 65535] = [2, 65535, 1] := by decide

/-! ### Small steps from the spec's text -/

/-- 11.1: POWER_ON with strap 7 answers at address 7. -/
theorem test_power_on_samples_straps :
    nextIs (exec (.powerOn 7) ready) (fun t => decide (t.seqr.own = 7 ∧ t.seqr.part = .reset)) = true := by
  decide +kernel

/-- 1.5, steps 4 and 7: entry 1 matches the class 9 frame whose first payload byte is 0x13, and no frame without
payload. -/
theorem test_example_payload_test :
    let r : Rule := { Rule.cleared with
      state := .enabled, kind := .good, classLow := 9, classHigh := 9, action := .trigger, snap := 32,
      test := some { offset := 0, length := 1, value := 0x03, mask := 0x0F, sense := .equal } }
    ruleMatches r .b { outcome := .good, bytes := [5, 20, 9, 0, 6, 0x13, 1, 2, 3, 4, 5, 0, 0], count := 13,
                       mounting := false } = true
      ∧ ruleMatches r .b { outcome := .good, bytes := [5, 20, 9, 0, 0, 0, 0], count := 7,
                               mounting := false } = false := by
  decide +kernel

/-- 1.5, step 2: 100 payload bytes under snap length 64 give 69 captured bytes, TRUNCATED. -/
theorem test_example_capture :
    let d : Delivered :=
      { outcome := .good, bytes := [20, 5, 17, 0, 100] ++ List.replicate 100 1 ++ [0, 0], count := 107,
        mounting := false }
    (captureOf 64 d).bytes.length = 69 ∧ (captureOf 64 d).truncated = true := by
  decide +kernel

/-- 2.1: sizes of the five kinds of record, a FRAME record with 5 captured bytes among them. -/
theorem test_record_sizes :
    [RecordBody.frame .a .good false false 0 12 [1, 2, 3, 4, 5], .gap 1 0 0, .runStart 1, .runStop 1 .request,
      .timeSet 0 1].map (fun b => recordSize { seq := 1, time := 0, body := b }) = [20, 26, 16, 17, 22] := by
  decide +kernel

/-- 9.9, step 3: a repeat of the request being executed is discarded and counted. -/
theorem test_repeat_is_discarded :
    let s := asked ready 0x36 [0, 41]
    nextIs (exec (.requestArrival .a) { s with
        raised := { s.raised with requests := [(.a, [250, 17, 124, 0, 5, 0x36, 0, 7, 0, 41, 0, 0])] } })
      (fun t => decide (t.mgmt.discarded = 1 ∧ t.mgmt.queue = [])) = true := by
  decide +kernel

/-- 12.5, 12.8: DENIED is 5, and a response to tag 7 carries code, tag and status. -/
theorem test_response_layout :
    responseFrame 250 (request 0x11 [9]) .denied [1, 2] = [17, 250, 125, 0, 4, 0x11, 0, 7, 5] := by decide +kernel

/-- 3.3: a page whose data check fails reads CORRUPT with its header. -/
theorem test_read_corrupt :
    headerOf (readPage [(64, { logPage 1 with dataFlaw := 1 })] 4 0) = some (logPage 1).header
      ∧ logPageOf (readPage [(64, { logPage 1 with headerFlaw := 1 })] 4 0) = none := by decide +kernel

/-- 3.2, 12.1: the data check of a LOG page is that of its record bytes, here a RUN_START of run 1. -/
theorem test_data_check :
    (computedChecks (logPage 1).header (logPage 1).data).data
      = crc16 ((recordBytes { seq := 1, time := 0, body := .runStart 1 })) := by decide +kernel

/-- 3.5: an erase cut short in its first stage leaves page 0 UNCOMMITTED. -/
theorem test_cancelled_page_reads_uncommitted :
    readPage (eraseBlock [(64, logPage 1), (65, logPage 2)] 4 (.cancelFailed 1)).1 4 0 = .uncommitted
      ∧ headerOf (readPage (eraseBlock [(64, logPage 1), (65, logPage 2)] 4 (.cancelFailed 1)).1 4 1)
        = some (logPage 2).header := by
  decide +kernel

/-- 4.3: the candidate after block 1023 is block 4 when it is STALE without a hold. -/
theorem test_candidate_wraps : candidate LogManager.initial = some 4 := by decide +kernel

/-! ### Witnesses: steps, invariants and resets -/

theorem witness_StepRunsTheFrontCommand :
    ({ State.reset with pending := [.holdoffExpiry] } : State).pending = .holdoffExpiry :: [] := rfl

theorem witness_IdleStepCountsTheTimeBase :
    ready.pending = [] ∧ ready.seqr.part ≠ .reset ∧ State.reset.pending = [] ∧ State.reset.seqr.part = .reset := by
  decide +kernel

theorem witness_PageArrayAndSuspendedEraseStaySound : StoreWf ready ∧ ArrayWf ready ∧ step ready = .next (tick ready) :=
  ⟨rfl, by decide +kernel, rfl⟩

theorem witness_WrittenPagesLastUntilTheirBlockIsErased :
    let s := { ready with store := [(79, logPage 1)] }
    ArrayWf s ∧ step s = .next (tick s) ∧ (tick s).seqr.part ≠ .reset ∧ (15 ≤ 15) ∧ pageAt s.store 4 15 = some (logPage 1) :=
  ⟨by decide +kernel, rfl, by decide +kernel, by decide, rfl⟩

theorem witness_QueuesCountersAndCreditKeepTheirBounds :
    QueuesBounded ready ∧ CountersInRange ready ∧ AttemptsBounded ready ∧ CreditBounded ready
      ∧ step ready = .next (tick ready) :=
  ⟨by decide +kernel, by decide +kernel, by decide +kernel, by decide +kernel, rfl⟩

theorem witness_SettingsAndOwnAddressStayInRange :
    SettingsInRange ready ∧ OwnIsStation ready ∧ step ready = .next (tick ready) ∧ (tick ready).seqr.part ≠ .reset :=
  ⟨by decide +kernel, by decide +kernel, rfl, by decide +kernel⟩

/-- SB0 FULL, SB1 WRITING and a record in the Control Slot; a log in order, with an active block, a prepared one, a
FILLED one that a recording holds, and another without a hold. -/
def orderly : State := { ready with
  packer := { ready.packer with
    sb0 := { state := .full, recs := [record3], run := 1 }, sb1 := { state := .writing, recs := [record3], run := 1 },
    fullOrder := [.sb0], slot := [record3] },
  ctl := { ready.ctl with state := .running },
  dir := { entries := [{ entry 7 .kept with blocks := [5] }], nextNumber := 8 },
  log := { ready.log with
    active := some 1023, nextPage := 3, ahead := .prepared 4, history := [5, 6], ringPos := 1023, nextPageSeq := 9,
    table := [(4, { state := .erased, hold := 0, firstSeq := none, firstPage := none }),
      (5, { state := .filled, hold := 1, firstSeq := some 1, firstPage := some 1 }),
      (6, { state := .filled, hold := 0, firstSeq := some 2, firstPage := some 2 }),
      (1023, { state := .active, hold := 0, firstSeq := some 3, firstPage := some 8 })] } }

theorem witness_StagingBuffersStayInOrder : StagingWf orderly.packer ∧ step orderly = .next (tick orderly) := by
  refine ⟨⟨?_, ?_, ?_, ?_, by decide +kernel, ?_, fun h => absurd rfl h⟩, rfl⟩
  · intro i j; cases i <;> cases j <;> decide +kernel
  · intro i j; cases i <;> cases j <;> decide +kernel
  · intro i; cases i <;> decide +kernel
  · intro i; cases i <;> decide +kernel
  · intro _ i; cases i <;> decide +kernel

/-- The Block Table of that state. -/
theorem orderly_block (b : Nat) : (b = 4 ∨ b = 5 ∨ b = 6 ∨ b = 1023)
    ∨ (b ≠ 4 ∧ b ≠ 5 ∧ b ≠ 6 ∧ b ≠ 1023) ∧ blockEntry orderly.log b = BlockEntry.initial := by
  by_cases h : b = 4 ∨ b = 5 ∨ b = 6 ∨ b = 1023
  · exact .inl h
  · simp only [not_or] at h
    refine .inr ⟨h, ?_⟩
    simp [blockEntry, orderly, lookup, h.1, h.2.1, h.2.2.1, h.2.2.2, eq_comm (b := b)]

theorem orderly_ring : RingWf orderly.log := by
  have hh : orderly.log.history = [5, 6] := rfl
  have ha : orderly.log.active = some 1023 := rfl
  have hp : orderly.log.ahead = .prepared 4 := rfl
  refine ⟨rfl, ?_, by decide +kernel, by decide +kernel, ?_, ?_, ?_, ?_, rfl, ?_, ?_, ?_, ?_, ?_, by decide +kernel⟩
  all_goals intro b
  all_goals first
    | (rcases orderly_block b with (rfl | rfl | rfl | rfl) | ⟨h, he⟩
       all_goals first | decide +kernel | simp [he, hh, ha, hp, h, BlockEntry.initial, eq_comm (b := b)])
    | (intro e; cases e; decide +kernel)

theorem witness_TheReadyPartStaysConsistent : ReadyWf orderly ∧ step orderly = .next (tick orderly) := by
  have hr : orderly.arr.running = none := rfl
  have hs : orderly.arr.suspended = none := rfl
  refine ⟨⟨rfl, rfl, orderly_ring, ⟨?_, nofun, ?_, ?_, nofun, ?_⟩, ⟨by decide +kernel, by decide +kernel,
    by decide +kernel, fun _ => by decide +kernel, by decide +kernel, by decide +kernel, ?_⟩⟩, rfl⟩
  · rintro b h (⟨p, d, e⟩ | ⟨x, p, d, e, -⟩)
    · cases e
    · simp [hr] at e
  · rintro b ⟨x, e, -⟩; simp [hr] at e
  · rintro b ⟨x, e, -⟩; simp [hs] at e
  · rintro b c ⟨x, e, -⟩; simp [hr] at e
  · intro b
    rcases orderly_block b with (rfl | rfl | rfl | rfl) | ⟨h, he⟩
    · decide +kernel
    · decide +kernel
    · decide +kernel
    · decide +kernel
    · have hd : orderly.dir.entries = [{ entry 7 .kept with blocks := [5] }] := rfl
      simp [holdOf, he, hd, BlockEntry.initial, h]

theorem witness_ResetsDiscardVolatileStateAndKeepPages :
    let reading := running ready (.session .one) (.read 4 0)
    let req : ArrayReq := .program 1023 15 (logPage 1).header (logPage 1).data
    let stands := { running ready .logWriter req with
      arr := { (running ready .logWriter req).arr with
        suspended := some { who := .eraseAhead, block := 4, count := 1, reached := 3 } } }
    pageAtRest reading.arr 4 15 = true ∧ ready.seqr.part ≠ .reset ∧ State.reset.seqr.part = .reset
      ∧ (stands.arr.running = some { who := .logWriter, req := req, count := 0, reached := 0 }
        ∧ suspendedErase stands.arr 1023 = false ∧ StoreWf stands)
      ∧ ErasedTo stands.arr 4 3 ∧ ErasedTo (running ready .eraseAhead (.erase 1023)).arr 1023 0 := by
  refine ⟨by decide +kernel, by decide +kernel, by decide +kernel, by decide +kernel, ?_, ?_⟩
  · refine .inr ⟨_, rfl, rfl, rfl, ?_⟩
    rintro x ⟨rfl⟩ p hp
    exact decide_eq_false (by simp only [pageKey]; omega)
  · exact .inl ⟨_, rfl, rfl, rfl, by decide +kernel⟩

theorem witness_LeavingResetBeginsTheMountScan :
    State.reset.seqr.part = .reset ∧ State.reset.arr = ArrayCtl.initial ∧ ready.seqr.part ≠ .reset := by
  decide +kernel

theorem witness_NothingElseActsInReset :
    (∀ x, Instr.discover ≠ .powerOn x) ∧ (∀ x, Instr.discover ≠ .lineReset x)
      ∧ (∀ x y, Instr.discover ≠ .leaveReset x y) := by
  simp

/-- MOUNTING, with the erase of block 4 of phase 6 running. -/
def erasingFirst : State :=
  { running { ready with
      seqr := { ready.seqr with part := .mounting, scan := .firstErase 4, dirCur := some 1, dirNext := 5 },
      log := { ready.log with
        ahead := .underWay 4, table := [(4, { state := .erasing, hold := 0, firstSeq := none, firstPage := none })] } }
      .sequencer (.erase 4) with store := [(64, { logPage 1 with mark := .cancelled }), (79, logPage 2), (100, logPage 3)] }

theorem witness_PhaseSixEraseMakesThePartReady :
    let s := erasingFirst
    let x : Running := { who := .sequencer, req := .erase 4, count := 0, reached := 0 }
    s.arr.running = some x ∧ x.who = .sequencer ∧ x.req = .erase 4 ∧ ArrayAlone s.arr ∧ StoreWf s
      ∧ s.seqr.part = .mounting ∧ s.seqr.scan = .firstErase 4 ∧ s.seqr.retiredNow = none ∧ s.log.condition = .normal
      ∧ s.ctl.settings.autostart = false ∧ s.mgmt.current = none ∧ waitingBuffer s = none := by
  decide +kernel

/-! ### Witnesses: link ports and the Relay -/

/-- READY, with changes of both ports' lines on their way to the Relay. -/
def changing (p : Port) (up : Bool) : State :=
  { ready with raised := { ready.raised with portLink := [(farPort p, up), (p, up), (p, !up)] } }

theorem witness_LinkChangesAtThePort :
    let kind (p : Port) : Port × Bool → Prop := fun y => y.1 = p
    let absent := { ready with portB := PortState.initial }
    Oldest (kind .b) (changing .b false).raised.portLink [(.a, false)] (.b, false) [(.b, true)]
      ∧ Oldest (kind .a) (changing .a true).raised.portLink [(.b, true)] (.a, true) [(.a, false)]
      ∧ (∀ y ∈ ready.raised.portLink, y.1 ≠ .a) ∧ (ready.seqr.part ≠ .reset ∧ (ready.port .a).line = true)
      ∧ (∀ y ∈ absent.raised.portLink, y.1 ≠ .b) ∧ (absent.seqr.part ≠ .reset ∧ (absent.port .b).line = false)
      ∧ State.reset.seqr.part = .reset := by
  decide +kernel

theorem witness_FramesAreDeliveredByTheirOutcome :
    let s := { ready with portA := { ready.portA with receiving := true } }
    s.seqr.part ≠ .reset ∧ (s.port .a).up = true ∧ (s.port .a).receiving = true ∧ ([1] : Bytes) ≠ []
      ∧ (ready.port .a).receiving = false := by
  decide +kernel

theorem witness_RelayQueuesAndTheTransmitterMove :
    let s := { ready with raised := { ready.raised with relay := [(.b, [2]), (.a, [1]), (.a, [3])] } }
    let full := { s with portB := { s.portB with relayQ := List.replicate 8 [0] } }
    let down := { s with portB := PortState.initial }
    let kind : Port × Bytes → Prop := fun y => y.1 = .a
    Oldest kind s.raised.relay [(.b, [2])] (.a, [1]) [(.a, [3])]
      ∧ (s.port .b).up = true ∧ (s.port .b).relayQ.length < 8
      ∧ Oldest kind full.raised.relay [(.b, [2])] (.a, [1]) [(.a, [3])]
      ∧ (full.port .b).up = true ∧ 8 ≤ (full.port .b).relayQ.length
      ∧ Oldest kind down.raised.relay [(.b, [2])] (.a, [1]) [(.a, [3])] ∧ (down.port .b).up = false := by
  decide +kernel

theorem witness_ArbiterChoosesByTheFairnessCount :
    let x := ready.portA
    (x.up = true ∧ x.tx = none ∧ x.relayQ = [] ∧ x.localQ = [])
      ∧ ({ x with relayQ := [[1]] } : PortState).relayQ = [1] :: []
      ∧ ({ x with localQ := [frame 0] } : PortState).localQ = frame 0 :: []
      ∧ (∃ y : PortState, y.up = true ∧ y.tx = none ∧ y.relayQ = [1] :: [] ∧ y.localQ = frame 0 :: [] ∧ y.fair ≤ 3)
      ∧ (∃ y : PortState, y.up = true ∧ y.tx = none ∧ y.relayQ = [1] :: [] ∧ y.localQ = frame 0 :: [] ∧ y.fair = 4)
      ∧ PortState.initial.up = false :=
  ⟨by decide +kernel, rfl, rfl, ⟨{ ready.portA with relayQ := [[1]], localQ := [frame 0], fair := 3 }, by decide +kernel⟩,
    ⟨{ ready.portA with relayQ := [[1]], localQ := [frame 0], fair := 4 }, by decide +kernel⟩, rfl⟩

theorem witness_RelayQueuesAndTheTransmitterMove_2 :
    let sent : Transmission := { bytes := [1], origin := some (frame 0) }
    let s := { ready with portA := { ready.portA with tx := some sent } }
    let w : Waiter := { frame := frame 5, withdrawn := false }
    let full := { ready with portA := { ready.portA with
      tx := some sent, localQ := [frame 1, frame 2, frame 3, frame 4], waiting := [w] } }
    (ready.port .a).tx = none ∧ (s.port .a).tx = some sent ∧ (s.port .a).waiting = []
      ∧ (full.port .a).tx = some sent ∧ (full.port .a).up = true ∧ (full.port .a).waiting = w :: []
      ∧ (full.port .a).localQ = frame 1 :: [frame 2, frame 3, frame 4] ∧ [frame 2, frame 3, frame 4].length = 3
      ∧ (full.port .a).relayQ = [] := by
  decide +kernel

theorem witness_WithdrawalsAndEndingsAreTaken :
    let f : LocalFrame := { who := .session .one, serial := 1, bytes := [1] }
    let v : Waiter := { frame := frame 5, withdrawn := false }
    let w : Waiter := { frame := f, withdrawn := true }
    let s := { ready with portA := { ready.portA with waiting := [v, w] } }
    Oldest (fun y : Waiter => y.frame.who = .session .one ∧ y.withdrawn = true) (s.port .a).waiting [v] w []
      ∧ (s.session .one).state = .free ∧ (s.session .two).state = .free ∧ s.notice.queue = []
      ∧ (∀ x ∈ (ready.port .a).waiting, x.frame.who ≠ .notice ∨ x.withdrawn = false) := by
  decide +kernel

/-- Two endings at Port A, the Management Unit's and the given one; the head notice's frame has serial 3. -/
def ended (x : Ending) : State := { ready with
  raised := { ready.raised with endings := [{ port := .a, who := .mgmt, serial := 3, transmitted := true }, x] },
  notice := { ready.notice with queue := [{ num := 1, event := .started .line }], head := .queued, frame := some 3 } }

theorem witness_WithdrawalsAndEndingsAreTaken_2 :
    let e (who : Producer) (sent : Bool) : Ending := { port := .a, who := who, serial := 3, transmitted := sent }
    let kind (who : Producer) : Ending → Prop := fun y => y.port = .a ∧ y.who = who
    (Oldest (kind (.session .two)) (ended (e (.session .two) true)).raised.endings [e .mgmt true]
        (e (.session .two) true) [] ∧ NoStop (ended (e (.session .two) true)) ∧ LogQuiet (ended (e (.session .two) true)))
      ∧ (Oldest (kind .notice) (ended (e .notice true)).raised.endings [e .mgmt true] (e .notice true) []
        ∧ (ended (e .notice true)).notice.queue ≠ [] ∧ (ended (e .notice true)).notice.head = .queued
        ∧ (ended (e .notice true)).notice.frame = some (e .notice true).serial)
      ∧ Oldest (kind .notice) (ended (e .notice false)).raised.endings [e .mgmt true] (e .notice false) []
      ∧ Oldest (kind .notice) { ended (e .notice true) with notice := ready.notice }.raised.endings [e .mgmt true]
          (e .notice true) [] ∧ ready.notice.queue = [] := by
  decide +kernel

/-- The head notice is held back, and LINK DOWN has discarded the frame given up that it was held back for. -/
def heldBack : State :=
  let s := ended { port := .a, who := .notice, serial := 2, transmitted := false }
  { s with notice := { s.notice with frame := none } }

theorem witness_WithdrawalsAndEndingsAreTaken_3 :
    let e : Ending := { port := .a, who := .notice, serial := 2, transmitted := false }
    let waits := heldBack.setPort .a { heldBack.portA with
      waiting := [{ frame := { frame 4 with who := .notice }, withdrawn := true }] }
    Oldest (fun y : Ending => y.port = .a ∧ y.who = .notice) heldBack.raised.endings
        [{ e with who := .mgmt, serial := 3, transmitted := true }] e []
      ∧ NoStop heldBack ∧ LogQuiet heldBack ∧ heldBack.notice.queue ≠ [] ∧ heldBack.notice.head = .queued
      ∧ heldBack.notice.frame = none ∧ isWaiting heldBack.notice.settings.port .notice heldBack = false
      ∧ LocalRoom heldBack.notice.settings.port heldBack ∧ isWaiting waits.notice.settings.port .notice waits = true := by
  decide +kernel

/-- Port A has fallen; session 1 of recording 7 is STALLED there, session 2 has a read outstanding. -/
def losing : State := { ready with
  raised := { ready.raised with retDown := [.b, .a] },
  dir := { entries := [{ entry 7 .kept with sessions := 2 }], nextNumber := 8 },
  ret := {
    s1 := { Session.initial with state := .stalled, port := .a, source := 7 },
    s2 := { Session.initial with state := .fetching, port := .a, source := 7, reading := true } } }

/-- R151: a session's waiting frame is left for LINK_DOWN to count, also where the session's end is taken first. -/
theorem test_link_loss_withdraws_nothing :
    let w : Waiter := { frame := { frame 9 with who := .session .one }, withdrawn := false }
    let s0 := losing.setPort .a { losing.portA with waiting := [w] }
    let s := { s0 with ret := { s0.ret with s1 := { s0.ret.s1 with offered := .data 1 1 } } }
    (match exec (.sessionLinkLost .a) s with
      | .next t => decide (t.portA = s.portA ∧ t.ret.s1 = Session.initial)
      | _ => false) = true := by
  decide +kernel

theorem witness_LinkLossEndsSessionsSilently :
    let s := losing
    let first := { s with raised := ready.raised }
    Oldest (fun y => y = Port.a) s.raised.retDown [.b] .a []
      ∧ ((∀ q ∈ first.raised.retDown, q ≠ .a) ∧ first.seqr.part ≠ .reset ∧ (first.port .a).line = true)
      ∧ ((s.session .one).port = .a ∧ (s.session .one).state ≠ .free ∧ (s.session .one).reading = false)
      ∧ ((s.session .two).port = .a ∧ (s.session .two).state ≠ .free ∧ (s.session .two).reading = true)
      ∧ (ready.session .one).state = .free
      ∧ (∀ q ∈ ready.raised.retDown, q ≠ .a) ∧ (({ ready with portA := PortState.initial } : State).port .a).line = false := by
  decide +kernel

/-! ### Witnesses: from the classifier to the controller -/

theorem witness_EntriesMatchByTheirTests :
    let d (o : RxOutcome) : Delivered := { outcome := o, bytes := [20, 5, 9, 0, 1, 3, 0, 0], count := 8, mounting := false }
    let t : PayloadTest := { offset := 0, length := 1, value := 3, mask := 15, sense := .equal }
    (d .runt).outcome ≠ .good ∧ (d .good).outcome = .good ∧ Rule.cleared.test = none
      ∧ ({ Rule.cleared with test := some t } : Rule).test = some t := by
  decide +kernel

theorem witness_FramesAreClassifiedByTheFirstMatch :
    let d : Delivered := { outcome := .runt, bytes := [1], count := 1, mounting := false }
    let r : Rule := { Rule.cleared with state := .enabled, action := .trigger }
    let kind : Port × Delivered → Prop := fun y => y.1 = .b
    let none := { ready with raised := { ready.raised with classify := [(.a, d), (.b, d)] } }
    let last := { none with cls := { none.cls with rules := List.replicate 47 Rule.cleared ++ [r] } }
    (Oldest kind none.raised.classify [(.a, d)] (.b, d) [] ∧ (∀ q ∈ none.cls.rules, ruleMatches q .b d = false)
        ∧ defaultValid none.cls.dflt = true)
      ∧ Oldest kind last.raised.classify [(.a, d)] (.b, d) [] ∧ last.cls.rules[47]? = some r ∧ ruleMatches r .b d = true
      ∧ (∀ j < 47, last.cls.rules[j]? = some Rule.cleared) ∧ ruleMatches Rule.cleared .b d = false := by
  decide +kernel

/-- One classification result waits at the Packer, whose buffers are in the given states. -/
def offering (cap : Option Captured) (st0 st1 : BufState) : State :=
  { buffers ready st0 [record3] st1 with raised := { ready.raised with results := [
    { dir := .a, outcome := .good, rule := 0, time := 0, origLen := 12, capture := cap, mark := true,
      mounting := false }] } }

/-- The state with SB0 closed. -/
def closedSb0 (s : State) : State :=
  s.setPacker { setBuf s.packer { getBuf s.packer .sb0 with state := .full } .sb0 with
    fullOrder := s.packer.fullOrder ++ [.sb0], flushTimer := none }

/-- A FRAME record with the most captured bytes. -/
def longRecord (n : Nat) : Record :=
  { seq := n, time := 0, body := .frame .a .good false false 0 212 (List.replicate 205 0) }

/-- SB0 FILLING with 880 bytes of records, after lost captures. -/
def nearlyFull (s : State) (st1 : BufState) : State :=
  let b := buffers s .filling [longRecord 1, longRecord 2, longRecord 3, longRecord 4] st1
  { b with packer := { b.packer with
      nextSeq := 5, flushTimer := some 9, tallyCount := 2, tallyFirst := 1, tallyLast := 3, lossFlag := true } }

theorem witness_ResultsArePackedLostOrDiscarded :
    let c : Captured := { bytes := [1, 2, 3, 4, 5], truncated := false }
    let long : Captured := { bytes := List.replicate 130 0, truncated := false }
    let r (cap : Option Captured) : Result :=
      { dir := .a, outcome := .good, rule := 0, time := 0, origLen := 12, capture := cap, mark := true,
        mounting := false }
    let s1 := offering none .empty .empty
    let s2 := offering (some c) .filling .empty
    let s3 := running (offering (some c) .full .full) .logWriter (.program 4 0 (logPage 1).header (.log []))
    let s4 (st1 : BufState) := nearlyFull (running (offering (some long) .empty .empty) .logWriter
      (.program 4 0 (logPage 1).header (.log []))) st1
    let s5 := running (offering (some c) .writing .empty) .logWriter (.program 4 0 (logPage 1).header (.log []))
    (s1.raised.results = r none :: [] ∧ s1.packer.gateOpen = true ∧ NoStop s1 ∧ LogQuiet s1 ∧ s1.packer.nextSeq ≤ 281474976710653
        ∧ (r none).capture = none)
      ∧ (s2.raised.results = r (some c) :: [] ∧ s2.packer.gateOpen = true ∧ NoStop s2 ∧ LogQuiet s2
        ∧ bufIn s2.packer .filling = some .sb0
        ∧ usedBytes (getBuf s2.packer .sb0) + 15 + c.bytes.length ≤ 1024 ∧ s2.ctl.state ≠ .posting)
      ∧ (s3.packer.gateOpen = true ∧ NoStop s3 ∧ LogQuiet s3
        ∧ bufIn s3.packer .filling = none ∧ bufIn s3.packer .empty = none)
      ∧ (∀ st ∈ [BufState.empty, .writing], (s4 st).raised.results = r (some long) :: [] ∧ (s4 st).packer.gateOpen = true
        ∧ NoStop (s4 st) ∧ bufIn (s4 st).packer .filling = some .sb0
        ∧ 1024 < usedBytes (getBuf (s4 st).packer .sb0) + (15 + long.bytes.length)
        ∧ LogQuiet (closedSb0 (s4 st)) ∧ (s4 st).packer.slot.any isRunStop = false
        ∧ bufIn (closedSb0 (s4 st)).packer .empty = if st = .empty then some .sb1 else none)
      ∧ (s5.packer.gateOpen = true ∧ NoStop s5 ∧ bufIn s5.packer .filling = none ∧ bufIn s5.packer .empty = some .sb1
        ∧ LogQuiet s5 ∧ s5.packer.slot.any isRunStop = false)
      ∧ ({ ready with raised := { ready.raised with results := [r none] } } : State).packer.gateOpen = false := by
  refine ⟨by decide +kernel, by decide +kernel, by decide +kernel, ?_, by decide +kernel, by decide +kernel⟩
  intro st h
  simp only [List.mem_cons, List.not_mem_nil, or_false] at h
  rcases h with rfl | rfl <;> decide +kernel

/-- R29: a result of a frame forwarded in MOUNTING, taken with the gate OPEN, is discarded whole. -/
theorem witness_ResultsArePackedLostOrDiscarded_3 :
    let r : Result := { dir := .a, outcome := .good, rule := 0, time := 0, origLen := 12, mark := true, mounting := true,
                        capture := some { bytes := [1, 2, 3, 4, 5], truncated := false } }
    let s := buffers { ready with raised := { ready.raised with results := [r] } } .filling [record3] .empty
    s.raised.results = r :: [] ∧ s.packer.gateOpen = true ∧ r.mounting = true := by
  decide +kernel

theorem witness_TriggersHaveTheirOutcome :
    let m : TriggerMark := { rule := 3, seq := 7, time := 0, lost := false }
    let s (st : CaptureState) (h : Option Nat) (a : Option Nat) (n : Nat) : State := { ready with
      raised := { ready.raised with marks := [m] }, ctl := { ready.ctl with state := st, holdoffTimer := h },
      log := { ready.log with active := a }, dir := { ready.dir with entries := List.replicate n (entry 1 .frozen) } }
    (s .stopped none none 0).raised.marks = m :: [] ∧ (s .stopped none none 0).ctl.state = .stopped
      ∧ (s .posting none none 0).ctl.state = .posting ∧ (s .closing none none 0).ctl.state = .closing
      ∧ ((s .running (some 1) (some 4) 12).ctl.state = .running ∧ (s .running (some 1) (some 4) 12).ctl.holdoffTimer ≠ none)
      ∧ (s .running none none 12).log.active = none
      ∧ ((s .running none (some 4) 12).ctl.holdoffTimer = none ∧ (s .running none (some 4) 12).log.active ≠ none
        ∧ 12 ≤ (s .running none (some 4) 12).dir.entries.length) := by
  decide +kernel

/-- A state in RUNNING in which a trigger is taken, with 11 entries in the directory. -/
def triggerable : State :=
  let s := writing ready
  { s with
    ctl := { s.ctl with state := .running, runOrigin := 1, settings := { s.ctl.settings with window := 0 } },
    log := { s.log with active := some 4 },
    dir := { entries := List.replicate 11 (entry 7 .frozen), nextNumber := 65535 } }

/-- A state in RUNNING in which a trigger is taken, with recordings 65535 and 1 held, and the Journal Writer IDLE. -/
def triggerableIdle : State :=
  { triggerable with
    dir := { entries := [entry 65535 .frozen, entry 1 .kept], nextNumber := 65535 },
    jrnl := { ready.jrnl with cur := some 1, nextPage := 15 } }

theorem witness_TriggersHaveTheirOutcome_2 :
    let m : TriggerMark := { rule := 3, seq := 7, time := 0, lost := false }
    let s := { triggerable with raised := { ready.raised with marks := [m] } }
    let t := { triggerableIdle with raised := { ready.raised with marks := [m] } }
    let after (n : Nat) : Nat := if n < 65535 then n + 1 else 1
    (s.raised.marks = m :: [] ∧ s.ctl.state = .running ∧ s.ctl.holdoffTimer = none ∧ s.log.active = some 4
        ∧ s.dir.entries.length < 12 ∧ (∀ e ∈ s.dir.entries, e.num ≠ Nat.repeat after 0 s.dir.nextNumber)
        ∧ s.jrnl.usable = true ∧ s.jrnl.state ≠ .idle)
      ∧ (t.ctl.state = .running ∧ t.log.active = some 4 ∧ t.jrnl.usable = true
        ∧ (∀ j, j < 2 → ∃ e ∈ t.dir.entries, e.num = Nat.repeat after j t.dir.nextNumber)
        ∧ (∀ e ∈ t.dir.entries, e.num ≠ Nat.repeat after 2 t.dir.nextNumber) ∧ t.jrnl.state = .idle ∧ t.jrnl.jobs = []
        ∧ t.jrnl.cur = some 1 ∧ t.jrnl.nextPage ≤ 15 ∧ t.seqr.part = .ready ∧ t.arr.running = none ∧ ArrayAlone t.arr
        ∧ t.log.nextPageSeq < 281474976710655) := by
  decide +kernel

/-- FLUSH with a FILLING buffer, while a page is being written. -/
def flushing : State :=
  running (asked (buffers ready .filling [record3] .empty) 0x20 []) .logWriter (.program 4 0 (logPage 1).header (.log []))

theorem witness_TheFillingBufferIsClosed :
    let timed := { flushing with
      packer := { flushing.packer with flushTimer := some 100 }, raised := { flushing.raised with closures := 1 } }
    let idle := asked ready 0x20 []
    (bufIn timed.packer .filling = some .sb0 ∧ NoStop timed ∧ LogQuiet (closedSb0 timed)
        ∧ timed.packer.flushTimer ≠ none ∧ timed.raised.closures ≠ 0)
      ∧ (bufIn flushing.packer .filling = some .sb0 ∧ LogQuiet (closedSb0 flushing)
        ∧ Handed 0x20 (request 0x20 []) flushing ∧ ReplyRoom (request 0x20 []) flushing)
      ∧ (bufIn idle.packer .filling = none ∧ LogQuiet idle ∧ NoStop idle
        ∧ Handed 0x20 (request 0x20 []) idle ∧ ReplyRoom (request 0x20 []) idle)
      ∧ ({ idle with raised := { idle.raised with closures := 1 } } : State).raised.closures ≠ 0
      ∧ ready.packer.flushTimer = none ∧ ready.raised.closures = 0 := by
  decide +kernel

theorem witness_FullBuffersAreHandedInAtTheNextPage :
    let b := buffers ready .full [record3] .filling
    let s := { b with
      packer := { b.packer with fullOrder := [.sb0] }, log := { b.log with active := some 1023, nextPage := 15 } }
    s.seqr.part = .ready ∧ inFault s.log = false ∧ NoStop s ∧ s.arr.running = none ∧ ArrayAlone s.arr
      ∧ bufIn s.packer .writing = none ∧ s.packer.fullOrder = .sb0 :: [] ∧ BufId.sb0 ∉ ([] : List BufId)
      ∧ (getBuf s.packer .sb0).state = .full ∧ s.log.active = some 1023 ∧ 4 ≤ 1023 ∧ 1023 ≤ 1023 ∧ s.log.nextPage ≤ 15
      ∧ s.log.nextPageSeq < 281474976710655 := by
  decide +kernel

theorem witness_PostTimeEndsPosting :
    let e : Entry := { entry 7 .capturing with last := none, reason := none, journaled := .none }
    let s := { ready with
      ctl := { ready.ctl with state := .posting, postTimer := some 50 },
      dir := { ready.dir with entries := [entry 6 .kept, e] } }
    s.ctl.postTimer ≠ none ∧ s.ctl.state = .posting ∧ openEntry s.dir = some e
      ∧ (∀ x ∈ s.dir.entries, x.num = e.num → x = e) ∧ e.journaled = .none ∧ NoStop s ∧ LogQuiet s
      ∧ ready.ctl.postTimer = none := by
  decide +kernel

/-! ### Witnesses: the Page Array and the Array Controller -/

theorem ready_idle : ready.arr.running = none := by decide +kernel

theorem witness_ProgramsAndErasesLeaveTheirPages :
    let store := [(64, logPage 1), (79, logPage 2)]
    sparseWf store = true ∧ pageAt store 4 15 ≠ none ∧ pageAt store 4 14 = none ∧ (14 ≤ 15 ∧ 14 ≠ 15)
      ∧ (0 < 15 ∨ 0 = 0) ∧ (0 ≤ 15 ∧ 15 ≠ 0) := by
  decide +kernel

/-- READY with the Array Controller in the given state. -/
def queued (a : ArrayCtl) : State := { ready with arr := a }

theorem witness_TheControllerChoosesInOrder :
    let z := ArrayCtl.initial
    let prog (b : Nat) : ArrayReq := .program b 15 (logPage 1).header (.log [])
    let both (i : SessionId) : ArrayCtl :=
      { z with session1 := some (.read 4 0), session2 := some (.read 1023 15), lastSession := i }
    let own : ArrayCtl := { z with
      session1 := some (.read 5 0), suspended := some { who := .eraseAhead, block := 5, count := 8, reached := 3 } }
    let held : State := { queued { z with eraseAhead := some (.erase 1023) } with
      log := { LogManager.initial with
        table := [(1023, { state := .stale, hold := 1, firstSeq := none, firstPage := none })] } }
    ((queued z).seqr.part = .ready ∧ (queued z).arr.running = none)
      ∧ programHeld { z with journal := some (prog 0) } 0 = false
      ∧ (waitingProgram { z with journal := some (.erase 3), logWriter := some (prog 4) } (some (.erase 3)) = none
        ∧ programHeld { z with journal := some (.erase 3), logWriter := some (prog 4) } 4 = false)
      ∧ (suspendedErase (both .one) 4 = false ∧ suspendedErase (both .two) 1023 = false)
      ∧ (waitingProgram z z.journal = none ∧ waitingProgram z z.logWriter = none ∧ sessionChoice z = none)
      ∧ (sessionChoice own = none ∧ own.suspended ≠ none)
      ∧ sessionChoice { z with journal := some (.erase 3) } = none
      ∧ (holdOf (queued { z with eraseAhead := some (.erase 4) }).log 4 = 0
        ∧ sessionChoice { z with eraseAhead := some (.erase 4) } = none)
      ∧ holdOf held.log 1023 ≠ 0 := by
  decide +kernel

/-- Erase-ahead's erase of block 9 under way with the given suspend count. -/
def erasing (n : Nat) : State :=
  { ready with arr := { ready.arr with
      running := some { who := .eraseAhead, req := .erase 9, count := n, reached := 1 } } }

theorem witness_ReadsSuspendARunningErase :
    (∃ x, (erasing 7).arr.running = some x ∧ x.req = .erase 9 ∧ x.count < 8) ∧ (erasing 7).seqr.part = .ready
      ∧ ArrayAlone (erasing 7).arr ∧ (∃ x, (erasing 8).arr.running = some x ∧ x.req = .erase 9 ∧ 8 ≤ x.count)
      ∧ ArrayAlone (erasing 8).arr ∧ (4 ≤ 9 ∧ 9 ≤ 1023) ∧ (1023 ≠ 9 ∧ 15 ≤ 15) :=
  ⟨⟨_, rfl, rfl, by decide⟩, by decide +kernel, by decide +kernel, ⟨_, rfl, rfl, by decide⟩, by decide +kernel,
    by decide, by decide⟩

/-- Session 2 in the given state with its read of page `p` of block 1023 running. -/
def fetching (x : Session) (p : Nat) : State :=
  running { ready with ret := { s1 := Session.initial, s2 := { x with reading := true } } } (.session .two) (.read 1023 p)

theorem witness_SessionsTakeThePageTheyRead :
    let ends := fetching { Session.initial with state := .ending } 15
    let loads := { fetching { Session.initial with state := .fetching, nextSeq := 3, endPoint := some 3, limit := 1 } 15
      with store := [(16383, logPage 3)] }
    let skips := { fetching { Session.initial with
        state := .fetching, source := 7, nextSeq := 3, endPoint := some 3, block := some 1023, page := 14 } 14 with
      dir := { entries := [{ entry 7 .kept with first := 1, last := some 3, blocks := [1023] }], nextNumber := 8 }
      log := { LogManager.initial with
        table := [(1023, { state := .filled, hold := 1, firstSeq := some 1, firstPage := some 1 })] }
      store := [(16382, { logPage 3 with mark := .absent })] }
    (ArrayAlone ends.arr ∧ NoStop ends ∧ LogQuiet (ends.setArr { ends.arr with running := none })
        ∧ (ends.session .two).state = .ending ∧ (ends.session .two).endReason = none
        ∧ (ends.session .two).offered ≠ .endFrame)
      ∧ (LogQuiet (loads.setArr { loads.arr with running := none }) ∧ (loads.session .two).credit = 0
        ∧ pageAt loads.store 1023 15 = some (logPage 3) ∧ (logPage 3).mark = .present
        ∧ (logPage 3).data = .log [{ seq := 3, time := 0, body := .runStart 1 }])
      ∧ (LogQuiet (skips.setArr { skips.arr with running := none }) ∧ (skips.session .two).buffer = []
        ∧ (findEntry skips.dir 7).isSome = true ∧ cursorBlock skips.log [1023] 0 3 = some (0, 1023)
        ∧ (skips.session .two).page = 14 ∧ 14 < 15
        ∧ (pageAt skips.store 1023 14).map Page.mark = some .absent) := by
  decide +kernel

/-- MOUNTING, with the Sequencer's k-th read of phase 1 running. -/
def mounting (k : Nat) : State :=
  running { ready with seqr := { ready.seqr with part := .mounting, phase := 1, scan := .profile k } } .sequencer
    (.read (2 + k / 2) (k % 2))

/-- The profile with its values of reset but for a Manager List. -/
def savedProfile (managers : List Byte) : Profile :=
  { settings := ready.ctl.settings, dflt := .capture, managers := managers, notify := ready.notice.settings,
    rules := List.replicate 48 Rule.cleared }

/-- A profile page's header. -/
def profileHeader (q : Nat) : PageHeader :=
  { kind := .profile, pageSeq := q, run := 0, capturing := 0, firstSeq := 0, count := 0, used := 9 }

/-- What the two pages of a profile of a generation read as. -/
def profileReads (g : Nat) (f : Profile) : List ReadResult :=
  [.committed (profileHeader (2 * g)) { data := 0, header := 0 } (.profile0 g f.settings f.dflt f.managers f.notify),
    .committed (profileHeader (2 * g + 1)) { data := 0, header := 0 } (.profile1 g f.rules)]

/-- The last read of phase 1: block 2 holds a profile of generation 8, block 3 one of generation `g` with a flaw in
its page 1. -/
def lastProfileRead (g : Nat) (flaw : BitVec 16) : State :=
  let page1 : PageData := .profile1 g (savedProfile [9]).rules
  { mounting 3 with
    store := [(49, { logPage 1 with dataFlaw := flaw, header := profileHeader 90, data := page1 })],
    seqr := { (mounting 3).seqr with
      profileGot := profileReads 8 (savedProfile [7]) ++ (profileReads g (savedProfile [9])).take 1 } }

theorem witness_MountReadsTheProfilePages :
    (∀ x, ready.arr.running = some x → ∀ b p, x.req ≠ .read b p)
      ∧ (2 < 3 ∧ (mounting 2).seqr.part = .mounting ∧ (mounting 2).seqr.scan = .profile 2 ∧ ArrayAlone (mounting 2).arr
        ∧ (mounting 2).mgmt.current = none
        ∧ (mounting 2).arr.running = some { who := .sequencer, req := .read 3 0, count := 0, reached := 0 }) :=
  ⟨fun _ h => absurd (ready_idle ▸ h) (by simp), by decide +kernel⟩

theorem witness_MountReadsTheProfilePages_2 :
    (∀ g ∈ [7, 9], let s := lastProfileRead g 0
      s.seqr.part = .mounting ∧ s.seqr.scan = .profile 3 ∧ ArrayAlone s.arr ∧ s.mgmt.current = none
        ∧ s.arr.running = some { who := .sequencer, req := .read 3 1, count := 0, reached := 0 }
        ∧ s.seqr.profileGot = profileReads 8 (savedProfile [7]) ++ (profileReads g (savedProfile [9])).take 1
        ∧ (pageAt s.store 3 1).map Page.data = some (.profile1 g (savedProfile [9]).rules))
      ∧ profileValid (savedProfile [7]) = true ∧ profileValid (savedProfile [9]) = true
      ∧ pageAt (mounting 3).store 3 1 = none := by
  decide +kernel

theorem test_profile_of_higher_generation :
    [nextIs (exec .readPageEnd (lastProfileRead 7 0)) (fun t => decide (t.mgmt.managers = [7] ∧ t.jrnl.generation = 8)),
      nextIs (exec .readPageEnd (lastProfileRead 9 0)) (fun t => decide (t.mgmt.managers = [9] ∧ t.jrnl.validBlock = some 3)),
      nextIs (exec .readPageEnd (lastProfileRead 9 1)) (fun t => decide (t.mgmt.managers = [7] ∧ t.seqr.phase = 2))]
      = [true, true, true] := by
  decide +kernel

/-- MOUNTING, at the given step of the scan with the Sequencer's operation running. -/
def scanning (step : ScanStep) (x : ArrayReq) : State :=
  running { ready with seqr := { ready.seqr with part := .mounting, phase := 2, scan := step } } .sequencer x

/-- The RELEASED page of a recording. -/
def releasedPage (n : Nat) : JournalPage := { role := .append, nextNumber := n + 1, record := .released n }

/-- A journal page with its header. -/
def journalHeader (q : Nat) : PageHeader :=
  { kind := .journal, pageSeq := q, run := 0, capturing := 0, firstSeq := 0, count := 0, used := 9 }

/-- The end of phase 2: block 0 has a complete set of one Retired List page, and a snapshot of recording 7 behind it. -/
def replayed : State := { ready with seqr := { ready.seqr with
  part := .mounting, phase := 2, dirEnd0 := 3,
  jpages := [(0, journalHeader 41, { role := .copy 1 1, nextNumber := 6, record := .retiredList [9] }),
    (0, journalHeader 43, { role := .append, nextNumber := 8, record := .snapshot {
      num := 7, state := .kept, source := .forced, trigTime := 5, trigSeq := 3, trigLost := false, first := 1,
      last := some 9, reason := some .count, blocks := [4] } }),
    (1, journalHeader 42, releasedPage 5)] } }

theorem witness_ReplayFormsTheDirectory :
    let s := { scanning (.journal 31) (.read 1 15) with
      store := [(31, { logPage 3 with header := journalHeader 44, data := .journal (releasedPage 3) })] }
    let x := (0, journalHeader 43, (replayed.seqr.jpages.map (fun y => y.2.2))[1]!)
    (31 < 32 ∧ s.seqr.part = .mounting ∧ s.seqr.scan = .journal 31 ∧ ArrayAlone s.arr ∧ s.mgmt.current = none
        ∧ s.arr.running = some { who := .sequencer, req := .read (31 / 16) (31 % 16), count := 0, reached := 0 })
      ∧ (replayed.seqr.part = .mounting ∧ replayed.arr.running = none ∧ ArrayAlone replayed.arr
        ∧ (replayed.seqr.jpages.map (fun y => y.2.1.pageSeq)).Nodup)
      ∧ (x ∈ replayed.seqr.jpages ∧ ∀ y ∈ replayed.seqr.jpages, y.2.1.pageSeq ≤ x.2.1.pageSeq)
      ∧ (∃ size, 1 ≤ size ∧ ∀ pos, 1 ≤ pos → pos ≤ size →
        ∃ y ∈ replayed.seqr.jpages, y.1 = 0 ∧ y.2.2.role = .copy size pos)
      ∧ ready.seqr.jpages = [] := by
  refine ⟨by decide +kernel, by decide +kernel, by decide +kernel, ⟨1, Nat.le_refl _, fun pos h1 h2 => ?_⟩, rfl⟩
  obtain rfl : pos = 1 := Nat.le_antisymm h2 h1
  exact ⟨_, .head _, rfl, rfl⟩

/-- The end of the log scan: a RETIRED block, and block 9, read STALE, whose committed page is the newest. -/
def scanned : State := { ready with
  seqr := { ready.seqr with
    part := .mounting, maxSeq := 50, heads := [(4, (logPage 1).header), (9, { (logPage 5).header with count := 7 })],
    tails := [(9, { (logPage 12).header with count := 3 })] },
  log := { ready.log with table := [(4, { state := .filled, hold := 0, firstSeq := some 1, firstPage := some 1 }),
    (6, { state := .retired, hold := 0, firstSeq := some 9, firstPage := some 1 })] } }

theorem witness_TheLogScanEntersEveryBlock :
    let s (step : ScanStep) (b p : Nat) (x : Option Page) (retired : List Nat) : State :=
      { scanning step (.read b p) with
        store := (x.map (fun g => (16 * b + p, g))).toList, log := { ready.log with retired := retired } }
    let torn := { logPage 3 with mark := .absent }
    (∀ x ∈ [none, some torn, some (logPage 3), some { logPage 3 with dataFlaw := 1 }],
      (s (.logHead 1022) 1022 0 x [7]).seqr.part = .mounting ∧ ArrayAlone (s (.logHead 1022) 1022 0 x [7]).arr
        ∧ (s (.logHead 1022) 1022 0 x [7]).mgmt.current = none
        ∧ pageAt (s (.logHead 1022) 1022 0 x [7]).store 1022 0 = x ∧ 1022 ∉ (s (.logHead 1022) 1022 0 x [7]).log.retired)
      ∧ 1022 ∈ (s (.logHead 1022) 1022 0 none [1022]).log.retired
      ∧ (s (.logRest 4 15) 4 15 (some (logPage 3)) []).seqr.scan = .logRest 4 15
      ∧ ((s (.logHead 1023) 1023 0 none []).seqr.scan = .logHead 1023 ∧ pageAt (s (.logHead 1023) 1023 0 none []).store 1023 0 = none)
      ∧ (s (.newest 1023 15) 1023 15 none []).seqr.scan = .newest 1023 15
      ∧ (scanned.seqr.part = .mounting ∧ scanned.arr.running = none ∧ ArrayAlone scanned.arr
        ∧ sparseWf scanned.log.table = true ∧ (blockEntry scanned.log 6).firstSeq = some 9)
      ∧ (∀ c g, c ≠ 6 → (blockEntry scanned.log c).firstSeq = some g → g < 9)
      ∧ (let pages := scanned.seqr.heads ++ scanned.seqr.tails
        let h := { (logPage 12).header with count := 3 }
        (9, h) ∈ pages ∧ (∀ y ∈ pages, y ≠ (9, h) → y.2.firstSeq < h.firstSeq)
          ∧ max scanned.seqr.maxSeq h.pageSeq < 281474976710655)
      ∧ (ready.seqr.heads ++ ready.seqr.tails = [] ∧ ready.seqr.maxSeq < 281474976710655)
      ∧ (sparseWf ready.log.table = true ∧ ∀ c, (blockEntry ready.log c).firstSeq = none) := by
  refine ⟨by decide +kernel, by decide +kernel, rfl, by decide +kernel, rfl, by decide +kernel, ?_, by decide +kernel,
    by decide +kernel, rfl, fun _ => rfl⟩
  intro c g h hc
  by_cases h4 : c = 4
  · subst h4; obtain rfl : 1 = g := Option.some.inj hc; decide
  · simp [blockEntry, scanned, lookup, BlockEntry.initial, Ne.symm h4, Ne.symm h] at hc

/-- MOUNTING phase 4 for recording 7, whose CAPTURING snapshot stands in the journal. -/
def completing (e : Entry) (step : ScanStep) (x : ArrayReq) : State :=
  { scanning step x with
    seqr := { (scanning step x).seqr with phase := 4, dirCur := some 1, dirNext := 14, tails := [(1023, (logPage 5).header)] },
    dir := { entries := [entry 6 .kept, e], nextNumber := 8 },
    log := { ready.log with ringPos := 1023, nextPageSeq := 60 } }

theorem witness_InterruptedRecordingsAreCompleted :
    let e := { entry 7 .capturing with first := 3, last := none, reason := none, blocks := [4, 1023] }
    let reads := completing e (.lastBlock 7 1023 15) (.read 1023 15)
    let appends := completing { e with state := .kept } (.append 7)
      (.program 1 14 (journalHeader 44) (.journal (releasedPage 3)))
    let full := { appends with log := { appends.log with retired := List.range 32 } }
    sparseWf scanned.seqr.heads = true
      ∧ ((∀ e ∈ replayed.dir.entries, e.blocks.Nodup) ∧ ∀ b, holdOf replayed.log b = 0)
      ∧ (reads.seqr.part = .mounting ∧ ArrayAlone reads.arr ∧ reads.mgmt.current = none ∧ reads.seqr.dirFault = false
        ∧ reads.seqr.dirCur = some 1 ∧ findEntry reads.dir 7 = some e ∧ reads.log.nextPageSeq < 281474976710655
        ∧ reads.seqr.scan = .lastBlock 7 1023 15 ∧ reads.seqr.dirNext ≤ 15)
      ∧ (ArrayAlone appends.arr ∧ findEntry appends.dir 7 = some { e with state := .kept } ∧ appends.seqr.scan = .append 7
        ∧ pageAt appends.store 1 appends.seqr.dirNext = none ∧ appends.seqr.dirNext < 15 ∧ appends.seqr.work = []
        ∧ appends.log.retired.length < 32 ∧ candidate ([4, 4, 1023].foldl raiseHold appends.log) = some 5)
      ∧ (32 ≤ full.log.retired.length ∧ full.log.ahead = .none ∧ full.seqr.retiredNow = none
        ∧ full.ctl.settings.autostart = false) := by
  refine ⟨rfl, ⟨nofun, fun b => rfl⟩, by decide +kernel, by decide +kernel, by decide +kernel⟩

/-- The compaction of the mount for recording 7 under way, from the Directory Area position block 0, next page 16. -/
def mountCompacting (c : Compaction) (step : ScanStep) (x : ArrayReq) : State :=
  let s := completing { entry 7 .kept with journaled := .capturing } step x
  { s with seqr := { s.seqr with dirCur := some 0, dirNext := 16, leftCur := some 0, leftNext := 16, comp := c } }

theorem witness_InterruptedRecordingsAreCompleted_2 :
    let c (page pos begun : Nat) : Compaction := { target := 1, page := page, set := [6, 7], pos := pos, begun := begun }
    let copies (page pos begun : Nat) : State := mountCompacting (c page pos begun) (.compCopy 7)
      (.program 1 page (journalHeader 44) (.journal (releasedPage 3)))
    let appends (begun : Nat) : State :=
      let s := mountCompacting (c 0 0 begun) (.append 7) (.program 0 15 (journalHeader 44) (.journal (releasedPage 3)))
      { s with seqr := { s.seqr with dirNext := 15 } }
    let erases := mountCompacting (c 0 0 1) (.compErase 7) (.erase 1)
    (∀ n ∈ [2, 3], let s := appends n
      s.seqr.part = .mounting ∧ ArrayAlone s.arr ∧ s.mgmt.current = none ∧ s.seqr.dirFault = false
        ∧ s.log.nextPageSeq < 281474976710655 ∧ s.seqr.scan = .append 7 ∧ s.seqr.dirNext = 15 ∧ s.seqr.work = []
        ∧ s.log.retired.length < 32 ∧ s.log.ahead = .none ∧ s.seqr.retiredNow = none)
      ∧ (erases.seqr.scan = .compErase 7 ∧ erases.seqr.comp.target = 1 ∧ CompactionSet erases.dir [6, 7] ∧ StoreWf erases)
      ∧ SetRecord erases [6, 7] 1 (snapshotRecord (entry 6 .kept) .kept [4])
      ∧ (∀ x ∈ [(14, 2, 1), (15, 2, 2), (15, 2, 3), (14, 3, 1), (15, 3, 2), (15, 3, 3)], let s := copies x.1 x.2.1 x.2.2
        s.seqr.part = .mounting ∧ ArrayAlone s.arr ∧ s.seqr.scan = .compCopy 7 ∧ s.seqr.comp.target = 1
          ∧ s.seqr.comp.page = x.1 ∧ pageAt s.store 1 s.seqr.comp.page = none ∧ s.seqr.work = [])
      ∧ SetRecord (copies 14 2 1) [6, 7] 3 (.retiredList [])
      ∧ findEntry (copies 14 3 1).dir 7 = some { entry 7 .kept with journaled := .capturing } := by
  refine ⟨by decide +kernel, ⟨rfl, rfl, ⟨by decide, .refl _⟩, rfl⟩, .inr ⟨_, .kept, by decide, rfl, rfl, rfl, rfl⟩,
    by decide +kernel, .inl ⟨rfl, rfl⟩, rfl⟩

/-- The third compaction's set completes on page 15: no page is left, and the position is as it was before (R188). -/
theorem test_failed_mount_keeps_position :
    nextIs (exec (.programPageEnd .committed) (mountCompacting { target := 1, page := 15, set := [6, 7], pos := 3, begun := 3 }
      (.compCopy 7) (.program 1 15 (journalHeader 44) (.journal (releasedPage 3)))))
      (fun t => decide (t.jrnl.cur = some 0 ∧ t.jrnl.nextPage = 16 ∧ t.log.condition = .fault .directoryErase)) = true := by
  decide +kernel

/-- The Log Writer's program of page `p` of block 1023 running, with SB0 WRITING. -/
def logging (p : Nat) : State :=
  let s := buffers ready .writing [record3] .empty
  running { s with log := { s.log with active := some 1023, nextPage := p } } .logWriter
    (.program 1023 p (logPage 3).header (.log [record3]))

theorem witness_LogPagesCommitOrAreTriedAgain :
    (∀ x, ready.arr.running = some x → ∀ b p h d, x.req ≠ .program b p h d)
      ∧ (ArrayAlone (logging 15).arr ∧ NoStop (logging 15) ∧ (logging 15).seqr.part = .ready ∧ 15 ≤ 15
        ∧ pageAt (logging 15).store 1023 15 = none ∧ (getBuf (logging 15).packer .sb0).state = .writing
        ∧ (getBuf (logging 15).packer .sb1).state ≠ .writing ∧ (logging 15).packer.fullOrder = []
        ∧ (logging 15).packer.slot = [] ∧ (logging 15).ctl.state ≠ .closing
        ∧ (logging 15).ret.s1.state ≠ .following ∧ (logging 15).ret.s2.state ≠ .following)
      ∧ ((logging 14).log.active = some 1023 ∧ (logging 14).log.nextPage = 14 ∧ 14 < 15 ∧ 4 ≤ 1023 ∧ 1023 ≤ 1023
        ∧ inFault (logging 14).log = false ∧ (logging 14).log.nextPageSeq < 281474976710655
        ∧ pageAt (logging 14).store 1023 14 = none) :=
  ⟨fun _ h => absurd (ready_idle ▸ h) (by simp), by decide +kernel⟩

/-- The page of a snapshot of the entry, in the given state. -/
def snapshotPage (e : Entry) (st : SnapState) : JournalPage :=
  let snap : Snapshot :=
    { num := e.num, state := st, source := e.source, trigTime := e.trigTime, trigSeq := e.trigSeq,
      trigLost := e.trigLost, first := e.first, last := e.last, reason := e.reason, blocks := e.blocks }
  { role := .append, nextNumber := 8, record := .snapshot snap }

/-- The Journal Writer's append for its only job running, over a directory of one entry. -/
def journaling (e : Entry) (st : SnapState) (j : Job) : State :=
  running { ready with
      dir := { entries := [e], nextNumber := 8 }
      ctl := { ready.ctl with state := .closing, target := some .running }
      jrnl := { ready.jrnl with cur := some 1, nextPage := 15, state := .appending, jobs := [j] } } .journal
    (.program 1 15 { (logPage 3).header with kind := .journal } (.journal (snapshotPage e st)))

/-- The Journal Writer's RELEASED page of recording 7 running, for its only job. -/
def releasing (ahead : EraseAhead) : State :=
  running { ready with
      dir := { entries := [entry 6 .kept, { entry 7 .kept with blocks := [4, 1023] }], nextNumber := 8 },
      log := { ready.log with
        ahead := ahead, condition := .full, history := [1023], ringPos := 1022,
        table := [(4, { state := .filled, hold := 1, firstSeq := some 1, firstPage := some 1 }),
          (1023, { state := .filled, hold := 1, firstSeq := some 2, firstPage := some 2 })] },
      mgmt := { ready.mgmt with current := some { req := request 0x36 [0, 7], stage := .journal } },
      jrnl := { ready.jrnl with cur := some 1, nextPage := 15, state := .appending, jobs := [.released 7] } } .journal
    (.program 1 15 (journalHeader 44) (.journal (releasedPage 7)))

theorem witness_JournalCommitsAreReported :
    let e := { entry 7 .capturing with last := none, reason := none, journaled := .none }
    let c := journaling e .capturing (.capturing 7 [4])
    let k := journaling { entry 7 .closing with journaled := .capturing } .kept (.kept 7)
    let waits (s : State) (code : Byte) : State :=
      { s with mgmt := { s.mgmt with current := some { req := request code [0, 7], stage := .journal } } }
    let f := waits (journaling (entry 7 .kept) .frozen (.frozen 7)) 0x37
    let quiet (s : State) : Prop := LogQuiet (s.setArr { s.arr with running := none })
    let r (a : EraseAhead) : State := releasing a
    let claimed : LogManager := { (r .none).log with
      table := [(4, { state := .filled, hold := 0, firstSeq := some 1, firstPage := some 1 }),
        (1023, { state := .filled, hold := 0, firstSeq := some 2, firstPage := some 2 })] }
    (ArrayAlone c.arr ∧ NoStop c ∧ c.jrnl.state = .appending ∧ 15 ≤ 15 ∧ pageAt c.store 1 15 = none
        ∧ quiet c ∧ c.dir.entries = [e] ∧ c.jrnl.jobs = [.capturing 7 [4]] ∧ e.state = .capturing ∧ e.last = none)
      ∧ (ArrayAlone k.arr ∧ NoStop k ∧ k.jrnl.state = .appending ∧ quiet k
        ∧ k.jrnl.jobs = [.kept 7] ∧ k.ctl.target = some .running ∧ k.ctl.settings.rearm = true)
      ∧ (ArrayAlone f.arr ∧ NoStop f ∧ quiet f ∧ f.jrnl.jobs = [.frozen 7] ∧ ReplyRoom (request 0x37 [0, 7]) f)
      ∧ (∀ a ∈ [EraseAhead.none, .prepared 9], ArrayAlone (r a).arr ∧ NoStop (r a) ∧ quiet (r a)
        ∧ pageAt (r a).store 1 15 = none ∧ findEntry (r a).dir 7 = some { entry 7 .kept with blocks := [4, 1023] }
        ∧ ReplyRoom (request 0x36 [0, 7]) (r a))
      ∧ ((r .none).log.active = none ∧ (r .none).seqr.part = .ready ∧ inFault (r .none).log = false
        ∧ [4, 1023].foldl lowerHold (r .none).log = claimed ∧ candidate claimed = some 1023
        ∧ ((r .none).session .one).state = .free ∧ ((r .none).session .two).state = .free) := by
  refine ⟨by decide +kernel, by decide +kernel, by decide +kernel, by decide +kernel, by decide +kernel⟩

/-- The Journal Writer compacts into block 1 for its head job, with the given operation running. -/
def compacting (j : Job) (c : Compaction) (x : ArrayReq) : State :=
  running { ready with
      dir := { entries := [{ entry 5 .closing with journaled := .capturing }, { entry 3 .frozen with journaled := .frozen },
        { entry 4 .capturing with journaled := .none }], nextNumber := 8 },
      log := { ready.log with retired := [207] },
      mgmt := { ready.mgmt with current := some { req := request 0x36 [0, 3], stage := .journal } },
      jrnl := { ready.jrnl with cur := some 0, nextPage := 16, state := .compacting, jobs := [j], comp := c } } .journal x

theorem witness_CompactionsCopyTheDirectory :
    let c (page pos begun : Nat) : Compaction := { target := 1, page := page, set := [3, 5], pos := pos, begun := begun }
    let s (page pos begun : Nat) : State := compacting (.released 3) (c page pos begun)
      (.program 1 page (journalHeader 44) (.journal (releasedPage 3)))
    let begins := { s 0 1 1 with arr := ready.arr }
    let fixes := compacting (.kept 5) Compaction.initial (.erase 1)
    let e := { entry 3 .frozen with journaled := .frozen }
    (∀ x ∈ [(4, 1, 1), (14, 3, 1), (15, 3, 2), (15, 1, 2), (15, 2, 3)],
      let t := s x.1 x.2.1 x.2.2
      t.seqr.part = .ready ∧ ArrayAlone t.arr ∧ NoStop t ∧ LogQuiet (t.setArr { t.arr with running := none })
        ∧ t.jrnl.jobs = [.released 3] ∧ t.log.nextPageSeq < 281474976710655 ∧ t.jrnl.state = .compacting
        ∧ pageAt t.store 1 t.jrnl.comp.page = none)
      ∧ (begins.arr.running = none ∧ begins.jrnl.cur = some 0 ∧ 15 < begins.jrnl.nextPage)
      ∧ (NoStop fixes ∧ fixes.jrnl.jobs = [.kept 5] ∧ StoreWf fixes
        ∧ LogQuiet (fixes.setArr { fixes.arr with running := none })
        ∧ [3, 5].Pairwise (· < ·) ∧ CompactionSet fixes.dir [3, 5])
      ∧ SetRecord (s 4 1 1) [3, 5] 1 (snapshotRecord e .frozen [4]) ∧ SetRecord (s 4 1 1) [3, 5] 3 (.retiredList [207])
      ∧ JobRecord (s 14 3 1) (.released 3) (.released 3)
      ∧ ((s 0 1 1).ctl.state = .stopped ∧ inFault (s 0 1 1).log = false ∧ ReplyRoom (request 0x36 [0, 3]) (s 0 1 1)) := by
  refine ⟨by decide +kernel, by decide +kernel,
    ⟨by decide +kernel, rfl, rfl, by decide +kernel, by decide, by decide, List.Perm.swap _ _ _⟩,
    .inr ⟨_, .frozen, by decide, rfl, rfl, rfl, rfl⟩, .inl ⟨rfl, rfl⟩, .inl ⟨3, rfl, rfl⟩, by decide +kernel⟩

/-- The Journal Writer serves a profile job, block 3 being the target, with the given operation running. -/
def profiling (j : Job) (x : ArrayReq) (step : Nat) : State :=
  running { ready with
      mgmt := { ready.mgmt with current := some { req := request 0x40 [], stage := .journal } },
      jrnl := { ready.jrnl with
        state := .profile, jobs := [j], profStep := step, validBlock := some 2, generation := 6 } } .journal x

theorem witness_ProfileJobsSaveAndClear :
    let f := presentProfile ready
    let page (n : Nat) : ArrayReq := .program 3 n { journalHeader 44 with kind := .profile } (.profile1 7 f.rules)
    (∀ s ∈ [profiling (.saveProfile f) (.erase 3) 0, profiling (.saveProfile f) (page 0) 1,
        profiling (.saveProfile f) (page 1) 2, profiling .clearProfile (.erase 3) 0, profiling .clearProfile (.erase 2) 1],
      s.seqr.part = .ready ∧ ArrayAlone s.arr ∧ s.jrnl.state = .profile ∧ ReplyRoom (request 0x40 []) s
        ∧ LogQuiet (s.setArr { s.arr with running := none }) ∧ s.log.nextPageSeq < 281474976710655 ∧ StoreWf s
        ∧ pageAt s.store 3 0 = none ∧ pageAt s.store 3 1 = none)
      ∧ (if ready.jrnl.validBlock = some 2 then 3 else 2) = 2
      ∧ (2 ≤ 2 ∧ 3 ≤ 3) := by
  refine ⟨?_, by decide +kernel, by decide⟩
  intro s h
  simp only [List.mem_cons, List.not_mem_nil, or_false] at h
  rcases h with rfl | rfl | rfl | rfl | rfl
  all_goals exact ⟨rfl, by decide +kernel, rfl, by decide +kernel, .inr (.inr (.inr rfl)), by decide +kernel, rfl, rfl, rfl⟩

/-- Every block of the Log Area is RETIRED. -/
def exhausted : List (Nat × BlockEntry) := (List.range' 4 1020).map
  (fun b => (b, { state := .retired, hold := 0, firstSeq := none, firstPage := none }))

theorem lookup_exhausted (n a b : Nat) (e : BlockEntry) (h1 : a ≤ b) (h2 : b < a + n) :
    lookup ((List.range' a n).map (fun k => (k, e))) b = some e := by
  induction n generalizing a with
  | zero => omega
  | succ n ih =>
    simp only [List.range'_succ, List.map_cons, lookup]
    by_cases h : a = b
    · simp [h]
    · simp only [h, if_false]; exact ih _ (by omega) (by omega)

theorem ringNext_area {b : Nat} (h1 : 4 ≤ b) (_ : b ≤ 1023) : 4 ≤ ringNext b ∧ ringNext b ≤ 1023 := by
  unfold ringNext
  split
  · rename_i h
    exact ⟨Nat.le_succ_of_le h1, h⟩
  · decide

theorem findCandidate_none (l : LogManager) (h : ∀ b, 4 ≤ b → b ≤ 1023 → isCandidate l b = false) :
    ∀ n b, 4 ≤ b → b ≤ 1023 → findCandidate l n b = none
  | 0, _, _, _ => rfl
  | n + 1, b, h1, h2 => by
    simp only [findCandidate, h b h1 h2, Bool.false_eq_true, if_false]
    exact findCandidate_none l h n _ (ringNext_area h1 h2).1 (ringNext_area h1 h2).2

/-- With every block but one RETIRED, and that one neither FILLED nor STALE, the search finds none. -/
theorem candidate_exhausted (l : LogManager) (c : Nat) (e : BlockEntry) (ht : l.table = putAt exhausted c (some e))
    (hc : e.state ≠ .filled ∧ e.state ≠ .stale) (h1 : 4 ≤ l.ringPos) (h2 : l.ringPos ≤ 1023) : candidate l = none := by
  have all : ∀ b, 4 ≤ b → b ≤ 1023 → isCandidate l b = false := by
    intro b h1 h2
    by_cases h : b = c
    · simp [isCandidate, blockEntry, ht, h, hc]
    · simp [isCandidate, blockEntry, ht, lookup_putAt_ne _ _ _ _ h, exhausted,
        lookup_exhausted 1020 4 b _ h1 (by omega)]
  exact findCandidate_none l all _ _ (ringNext_area h1 h2).1 (ringNext_area h1 h2).2

/-- Erase-ahead's erase of block 9 under way, with a number of blocks retired and a job waiting at the Journal Writer. -/
def retiring (n : Nat) (table : List (Nat × BlockEntry)) : State :=
  { writing (erasing 0) with log := { ready.log with
      ahead := .underWay 9, retired := List.range n, ringPos := 1023, table := table } }

theorem witness_EraseAheadPreparesItsBlock :
    let bad := { erasing 0 with log := { ready.log with condition := .fault .retiredLimit } }
    let block9 : BlockEntry := { state := .erasing, hold := 0, firstSeq := none, firstPage := none }
    let listed (n : Nat) (table : List (Nat × BlockEntry)) : LogManager :=
      { setBlockEntry (retiring n table).log 9 { block9 with state := .retired } with retired := List.range n ++ [9] }
    (∀ x, ready.arr.running = some x → ∀ b, x.req ≠ .erase b)
      ∧ (ArrayAlone (erasing 0).arr ∧ NoStop (erasing 0) ∧ StoreWf (erasing 0) ∧ waitingBuffer (erasing 0) = none)
      ∧ inFault bad.log = true
      ∧ (∀ n ∈ [30, 31], let s := retiring n [(9, block9)]
        inFault s.log = false ∧ waitingBuffer s = none ∧ s.jrnl.usable = true ∧ s.jrnl.state ≠ .idle
          ∧ s.jrnl.jobs.drop 1 = [] ∧ s.ctl.state = .stopped ∧ s.log.retired.length = n ∧ NoStop s)
      ∧ candidate (listed 30 [(9, block9)]) = some 4 ∧ candidate (listed 30 exhausted) = none :=
  ⟨fun _ h => absurd (ready_idle ▸ h) (by simp), by decide +kernel, by decide +kernel, by decide +kernel,
    by decide +kernel, candidate_exhausted _ 9 _ rfl (by decide) (by decide) (by decide)⟩

/-- A FULL buffer waits and the active block, in which the recording of the given number captures, has no page left; one
of two FILLED blocks is held. -/
def blockFull (rec : Nat) : State :=
  let s := buffers ready .full [record3] .empty
  { s with
    packer := { s.packer with fullOrder := [.sb0] },
    dir := { entries := [{ entry 9 .capturing with last := none, reason := none, blocks := [5] }], nextNumber := 10 },
    log := { s.log with
      active := some 1023, nextPage := 16, ahead := .prepared 4, history := [5, 6], ringPos := 1023, capturingRec := rec,
      table := [(4, { state := .erased, hold := 0, firstSeq := none, firstPage := none }),
        (5, { state := .filled, hold := 1, firstSeq := some 1, firstPage := some 1 }),
        (6, { state := .filled, hold := 0, firstSeq := some 2, firstPage := some 2 }),
        (1023, { state := .active, hold := 0, firstSeq := some 3, firstPage := some 3 })] } }

/-- The same, with no active block yet and every other block RETIRED. -/
def firstBlock : State :=
  { blockFull 0 with log := { (blockFull 0).log with active := none, nextPage := 16, table := exhausted } }

theorem witness_BlockChangesTakeThePreparedBlock :
    let first : LogManager := { (blockFull 0).log with
      table := (blockFull 0).log.table.filter (fun x => decide (x.1 ≠ 1023)), active := none }
    let begun (l : LogManager) : LogManager := { setBlockEntry l 4 { blockEntry l 4 with state := .active } with
      active := some 4, nextPage := 0, failing := false, ringPos := 4, ahead := .none }
    let live : State := { blockFull 0 with ret := {
      s1 := Session.initial,
      s2 := { Session.initial with state := .stalled, nextSeq := 2, replySeen := true } } }
    (4 ≤ first.ringPos ∧ first.ringPos ≤ 1023 ∧ 4 + (first.ringPos - 4 + 3) % 1020 = 6 ∧ holdOf first 6 = 0
        ∧ (blockEntry first 6).state = .filled ∧ first.active ≠ some 6
        ∧ (blockEntry first 4).state = .erased ∧ holdOf first 5 ≠ 0)
      ∧ (∀ rec ∈ [0, 9], let s := blockFull rec
        s.seqr.part = .ready ∧ inFault s.log = false ∧ NoStop s ∧ s.arr.running = none ∧ ArrayAlone s.arr
          ∧ bufIn s.packer .writing = none ∧ s.packer.fullOrder = .sb0 :: [] ∧ (getBuf s.packer .sb0).state = .full
          ∧ s.log.ahead = .prepared 4 ∧ 15 < s.log.nextPage ∧ s.log.failing = false ∧ s.log.active ≠ some 4
          ∧ s.log.nextPageSeq < 281474976710655)
      ∧ (findEntry (blockFull 9).dir 9).map Entry.blocks = some [5]
      ∧ candidate (begun first) = some 6
      ∧ (firstBlock.log.active = none ∧ inFault firstBlock.log = false)
      ∧ candidate (begun firstBlock.log) = none
      ∧ (inFault live.log = false ∧ live.arr.running = none ∧ ArrayAlone live.arr ∧ candidate live.log = some 6
        ∧ (blockEntry live.log 6).state = .filled ∧ sessionOpen (live.session .two) = true
        ∧ ((blockEntry live.log 6).firstSeq).getD 0 ≤ 2 ∧ 2 ≤ upperBound live.log 6
        ∧ sessionOpen (live.session .one) = false ∧ SessionClear .two live ∧ LocalRoom (live.session .two).port live) := by
  refine ⟨by decide +kernel, by decide +kernel, by decide +kernel, by decide +kernel, by decide +kernel, ?_, by decide +kernel⟩
  exact candidate_exhausted _ 4 _ rfl (by decide) (by decide) (by decide)

/-- A program has failed in block 1023, the active one, whose buffer waits, with block 4 prepared, no candidate, and a
number of blocks retired. -/
def failing (n : Nat) : State :=
  let s := writing (buffers ready .writing [record3] .empty)
  { s with log := { s.log with
      active := some 1023, nextPage := 16, failing := true, ahead := .prepared 4, ringPos := 1023,
      retired := List.range n, table := exhausted } }

theorem witness_FailingBlocksAreRetiredAndTheLogFills :
    let waits (a : EraseAhead) (c : LogCondition) : State :=
      { blockFull 0 with log := { (blockFull 0).log with ahead := a, condition := c } }
    (∀ n ∈ [30, 31], let s := failing n
      s.seqr.part = .ready ∧ inFault s.log = false ∧ NoStop s ∧ waitingBuffer s = some .sb0 ∧ s.log.active = some 1023
        ∧ s.log.failing = true ∧ s.log.ahead = .prepared 4 ∧ s.arr.running = none ∧ ArrayAlone s.arr
        ∧ s.jrnl.usable = true ∧ s.jrnl.state ≠ .idle ∧ s.jrnl.jobs.drop 1 = [] ∧ s.log.capturingRec = 0
        ∧ (getBuf s.packer .sb0).state = .writing ∧ s.log.nextPageSeq < 281474976710655
        ∧ s.log.retired.length = n ∧ s.ctl.state = .stopped)
      ∧ (∀ x ∈ [(EraseAhead.underWay 4, LogCondition.normal), (.none, .waiting), (.none, .full)],
        let s := waits x.1 x.2
        inFault s.log = false ∧ NoStop s ∧ waitingBuffer s = some .sb0 ∧ 15 < s.log.nextPage ∧ logProgramOut s.arr = false) := by
  refine ⟨?_, by decide +kernel⟩
  intro n h
  simp only [List.mem_cons, List.not_mem_nil, or_false] at h
  rcases h with rfl | rfl
  all_goals exact ⟨rfl, rfl, nofun, rfl, rfl, rfl, rfl, rfl, ⟨rfl, rfl, rfl, rfl, rfl, rfl, rfl⟩, rfl, nofun, rfl, rfl, rfl,
    by decide, rfl, rfl⟩

/-! ### Witnesses: notices -/

/-- The Notice Unit notifies station 9 over Port A, with `k` notices from number `n` on in its queue. -/
def noticing (n k : Nat) (h : HeadState) : State :=
  { ready with notice := { ready.notice with
      settings := { NotifySettings.initial with station := 9 }
      queue := (List.range k).map (fun i => { num := n + i, event := .started .line })
      head := h
      nextNumber := n + k } }

theorem witness_TheHeadFollowsItsPortAndTimer :
    let moved (s : State) (p : Port) (up : Bool) : State :=
      { s with raised := { s.raised with noticeLink := [(farPort p, true), (p, up), (p, true)] } }
    let tried (s : State) (n : Nat) : State :=
      { s with notice := { s.notice with attempts := n, retry := some 500 } }
    let absent (s : State) : State := { s with portA := PortState.initial }
    (∃ t, NoticeTakes .b false (moved (noticing 1 1 .parked) .b false) t)
      ∧ (noticing 1 1 .parked).notice.settings.port ≠ .b
      ∧ (∃ t, NoticeTakes .a false (noticing 1 1 .inFlight) t)
      ∧ ((noticing 1 1 .inFlight).notice.settings.port = .a ∧ (noticing 1 1 .inFlight).notice.queue ≠ [])
      ∧ (∃ t, NoticeTakes .a true (moved (noticing 1 1 .parked) .a true) t) ∧ (noticing 1 1 .inFlight).notice.head ≠ .parked
      ∧ (∃ t, NoticeTakes .a true (absent (noticing 1 1 .parked)) t)
      ∧ ((∀ y ∈ ready.raised.noticeLink, y.1 ≠ .a) ∧ (absent ready).portA.line = false ∧ ready.portA.line = true)
      ∧ ((tried (noticing 1 8 .parked) 3).notice.attempts < 4 ∧ (tried (noticing 1 8 .parked) 3).notice.head = .parked
        ∧ LocalRoom .a (noticing 1 8 .parked) ∧ isWaiting .a .notice (noticing 1 8 .parked) = false)
      ∧ (4 ≤ (tried (noticing 1 1 .parked) 4).notice.attempts ∧ (noticing 1 1 .parked).notice.queue.length = 1
        ∧ (tried (noticing 1 1 .parked) 4).notice.retry ≠ none)
      ∧ ready.notice.retry = none := by
  refine ⟨⟨_, .inl ⟨[(.a, true)], [(.b, true)], by decide +kernel, rfl⟩⟩, by decide +kernel,
    ⟨_, .inr ⟨by decide +kernel, by decide +kernel, by decide +kernel, rfl⟩⟩, by decide +kernel,
    ⟨_, .inl ⟨[(.b, true)], [(.a, true)], by decide +kernel, rfl⟩⟩, by decide +kernel,
    ⟨_, .inr ⟨by decide +kernel, by decide +kernel, by decide +kernel, rfl⟩⟩, by decide +kernel⟩

theorem witness_EventsBecomeNumberedNotices :
    let e : Event := .started .restart
    let raised (s : State) : State := { s with raised := { s.raised with events := [(.log, .logResumed 5), (.sequencer, e)] } }
    let kind : EventSource × Event → Prop := fun y => y.1 = .sequencer
    let down (s : State) : State := { s with notice := { s.notice with linkA := false } }
    (Oldest kind (raised ready).raised.events [(.log, .logResumed 5)] (.sequencer, e) [] ∧ ready.notice.settings.station = 0)
      ∧ ((noticing 1 8 .parked).notice.settings.station ≠ 0
        ∧ (noticing 1 8 .parked).notice.settings.enable.getLsbD (eventCode e - 1) = true
        ∧ 8 ≤ (noticing 1 8 .parked).notice.queue.length)
      ∧ ((noticing 65528 7 .parked).notice.queue ≠ [] ∧ (noticing 65528 7 .parked).notice.queue.length < 8
        ∧ (noticing 65528 7 .parked).notice.nextNumber = 65535)
      ∧ ((noticing 1 0 .parked).notice.queue = []
        ∧ noticeLinkUp (down (noticing 1 0 .parked)).notice (down (noticing 1 0 .parked)).notice.settings.port = false)
      ∧ (noticeLinkUp (noticing 1 0 .parked).notice .a = true ∧ LocalRoom .a (noticing 1 0 .parked)
        ∧ isWaiting .a .notice (noticing 1 0 .parked) = false) := by
  decide +kernel

/-- Notices 256 and following for station 9 over Port A, the head in flight, where an old frame of the unit waits for room,
and an acknowledgement over Port B. -/
def acknowledging (k : Nat) (waits : Bool) : State :=
  let s := noticing 256 k .inFlight
  { s with
    portA := { s.portA with
      waiting := if waits then [{ frame := { frame 3 with who := .notice }, withdrawn := false }] else [] },
    mgmt := { s.mgmt with
      current := some { req := { request 0x61 [1, 0] with port := .b }, stage := .handed } } }

theorem witness_NotifySettingsAndAcknowledgements :
    let set (ps : Bytes) : State := asked (noticing 1 2 .inFlight) 0x60 ps
    let ack (ps : Bytes) (k : Nat) : State := asked (noticing 256 k .inFlight) 0x61 ps
    let r : Request := { request 0x61 [1, 0] with port := .b }
    (Handed 0x60 (request 0x60 [251, 0, 0, 0, 100]) (set [251, 0, 0, 0, 100])
        ∧ ReplyRoom (request 0x60 [251, 0, 0, 0, 100]) (set [251, 0, 0, 0, 100]) ∧ ¬ ((251 : Byte).toNat ≤ 250))
      ∧ (Handed 0x60 (request 0x60 [9, 3, 255, 39, 16]) (set [9, 3, 255, 39, 16])
        ∧ (9 : Byte) = (set []).notice.settings.station ∧ Port.a = (set []).notice.settings.port)
      ∧ (Handed 0x60 (request 0x60 [0, 0, 0, 0, 100]) (set [0, 0, 0, 0, 100])
        ∧ (0 : Byte) ≠ (set []).notice.settings.station)
      ∧ (Handed 0x61 (request 0x61 [1, 1]) (ack [1, 1] 2) ∧ (ack [1, 1] 2).notice.queue.head?.map Notice.num = some 256)
      ∧ (Handed 0x61 r (acknowledging 1 true) ∧ ReplyRoom r (acknowledging 1 true)
        ∧ (acknowledging 1 true).notice.queue = { num := 256, event := .started .line } :: [])
      ∧ (Handed 0x61 r (acknowledging 2 true) ∧ ReplyRoom r (acknowledging 2 true)
        ∧ noticeLinkUp (acknowledging 2 true).notice .a = true ∧ isWaiting .a .notice (acknowledging 2 true) = true
        ∧ (acknowledging 2 true).notice.queue.length = 2)
      ∧ (Handed 0x61 r (acknowledging 2 false) ∧ isWaiting .a .notice (acknowledging 2 false) = false
        ∧ LocalRoom .a (acknowledging 2 false) ∧ ReplyRoom r (enqueued .a .notice [] (acknowledging 2 false))) := by
  refine ⟨by decide +kernel, by decide +kernel, by decide +kernel, by decide +kernel, by decide +kernel, by decide +kernel,
    by decide +kernel⟩

/-! ### Witnesses: arrivals and requests -/

/-- One request frame delivered at Port B, behind one of Port A. -/
def arriving (bytes : Bytes) (s : State) : State :=
  { s with raised := { s.raised with requests := [(.a, [1]), (.b, bytes)] } }

theorem witness_ArrivalsAreDiscardedJoinedOrBegun :
    let own : Bytes := [250, 17, 124, 0, 5, 0x36, 0, 7, 0, 41, 0, 0]
    let any : Bytes := [255, 17, 124, 0, 3, 1, 0, 7, 0, 0]
    let r : Request := { request 0x36 [0, 41] with port := .b }
    let busy := { ready with mgmt := { ready.mgmt with current := some { req := r, stage := .handed } } }
    let full := { busy with mgmt := { busy.mgmt with queue := List.replicate 4 { r with tag := 8 } } }
    let three := { busy with mgmt := { busy.mgmt with queue := List.replicate 3 r } }
    let listed := { ready with mgmt := { ready.mgmt with managers := [18] } }
    let known := { ready with mgmt := { ready.mgmt with cache := [{ station := 17, code := 0x36, tag := 7, bytes := [1] }] } }
    (Oldest (fun y : Port × Bytes => y.1 = .b) (arriving own ready).raised.requests [(.a, [1])] (.b, own) []
        ∧ byteAt own 1 = 17 ∧ (own.drop 5).take (byteAt own 4).toNat = [0x36, 0, 7, 0, 41] ∧ byteAt own 0 ≠ 255)
      ∧ ¬ (1 ≤ (byteAt [250, 0, 124, 0, 3, 1, 0, 7, 0, 0] 1).toNat)
      ∧ (∃ q ∈ three.mgmt.queue, q.src = 17 ∧ q.tag = 7 ∧ q.code = 0x36 ∧ q.broadcast = false)
      ∧ busy.mgmt.current = some { req := r, stage := .handed }
      ∧ 4 ≤ full.mgmt.queue.length
      ∧ (byteAt any 0 = 255 ∧ (any.drop 5).take (byteAt any 4).toNat = [1, 0, 7] ∧ three.mgmt.queue.length < 4
        ∧ three.mgmt.current ≠ none)
      ∧ (ready.mgmt.queue = [] ∧ ready.mgmt.current = none ∧ (∀ x ∈ ready.mgmt.cache, x.station ≠ 17)
        ∧ paramLength 0x36 = some 2 ∧ ready.seqr.part = .ready ∧ ready.mgmt.managers = [] ∧ ReplyRoom r ready)
      ∧ (listed.mgmt.managers ≠ [] ∧ (17 : Byte) ∉ listed.mgmt.managers)
      ∧ paramLength 0xFF = none
      ∧ ((0x36 : Byte) ≠ 1 ∧ (0x36 : Byte) ≠ 2
        ∧ { ready with seqr := { ready.seqr with part := .mounting } }.seqr.part = .mounting)
      ∧ ([41, 0] : Bytes).length = 2 ∧ ([41] : Bytes).length ≠ 2
      ∧ (known.mgmt.cache = [{ station := 17, code := 0x36, tag := 7, bytes := [1] }] ∧ LocalRoom .b known) := by
  decide +kernel

theorem witness_ReadRequestsReportTheState :
    let s := { ready with mgmt := { ready.mgmt with managers := [17, 1, 2, 250] } }
    (∀ c ∈ [(0x01 : Byte), 0x02, 0x03, 0x04],
      Handed c (request c []) (asked s c []) ∧ ReplyRoom (request c []) (asked s c [])) ∧ s.mgmt.managers.length ≤ 4 := by
  decide +kernel

theorem witness_ManagersAreSetAndRestartResets :
    (∀ ps ∈ [([4, 1, 17, 250, 2] : Bytes), [0, 9, 9, 9, 9], [2, 17, 17, 0, 0], [1, 18, 0, 0, 0], [5, 17, 1, 2, 3]],
      Handed 0x05 (request 0x05 ps) (asked ready 0x05 ps) ∧ ReplyRoom (request 0x05 ps) (asked ready 0x05 ps))
      ∧ (∀ a ∈ ([1, 17, 250, 2] : Bytes), 1 ≤ a.toNat ∧ a.toNat ≤ 250) ∧ ([1, 17, 250, 2] : Bytes).Nodup
      ∧ ¬ ([17, 17] : Bytes).Nodup := by
  decide +kernel

theorem witness_ManagersAreSetAndRestartResets_2 :
    let e : Ending := { port := .a, who := .mgmt, serial := 6, transmitted := false }
    let s := { ready with
      raised := { ready.raised with endings := [e] }
      mgmt := { ready.mgmt with current := some { req := request 0x06 [], stage := .restartWait 6 } } }
    (Handed 0x06 (request 0x06 []) (asked ready 0x06 []) ∧ ReplyRoom (request 0x06 []) (asked ready 0x06 []))
      ∧ Oldest (fun y : Ending => y.port = .a ∧ y.who = .mgmt) s.raised.endings [] e []
      ∧ s.mgmt.current = some { req := request 0x06 [], stage := .restartWait e.serial } ∧ s.ctl.state = .stopped
      ∧ s.packer.sb0.state = .empty ∧ s.packer.sb1.state = .empty ∧ s.packer.fullOrder = [] ∧ s.packer.slot = []
      ∧ s.jrnl.jobs = [] := by
  decide +kernel

/-- The 26 parameter bytes of a rule for index `i` with a payload test on its last byte. -/
def rulePs (i snap : Byte) : Bytes :=
  [i, 1, 2, 2, 5, 255, 0, 0, 9, 9, 0, 240, 1, 239, 1, 0, 0, 0, 3, 0, 0, 0, 15, 1, 2, snap]

theorem witness_RulesAreWrittenReadMovedAndCleared :
    (∀ ps ∈ [rulePs 47 200, rulePs 48 200, rulePs 0 201],
      Handed 0x10 (request 0x10 ps) (asked ready 0x10 ps) ∧ ReplyRoom (request 0x10 ps) (asked ready 0x10 ps)
        ∧ ps.length = 26)
      ∧ (∀ i ∈ [(0 : Byte), 47, 48], Handed 0x11 (request 0x11 [i]) (asked ready 0x11 [i])
        ∧ ReplyRoom (request 0x11 [i]) (asked ready 0x11 [i]))
      ∧ (asked ready 0x11 [47]).cls.rules.length = 48
      ∧ (239 ≤ 239 ∧ 239 + 1 ≤ 240 ∧ fieldAt 15 4 (rulePs 47 200) < 256 ^ 1 ∧ fieldAt 19 4 (rulePs 47 200) < 256 ^ 1) := by
  decide +kernel

theorem witness_RulesAreWrittenReadMovedAndCleared_2 :
    let r := { Rule.cleared with state := .disabled }
    let used := { ready with cls := { ready.cls with rules := List.replicate 48 r } }
    (∀ c ∈ [(0x12 : Byte), 0x13, 0x14, 0x15], ∀ i ∈ [(0 : Byte), 47, 48, 254, 255],
      Handed c (request c [i]) (asked used c [i]) ∧ ReplyRoom (request c [i]) (asked used c [i]))
      ∧ used.cls.rules.length = 48 ∧ used.cls.rules[47]? = some r ∧ r.state ≠ .unused
      ∧ ready.cls.rules[47]? = some Rule.cleared ∧ Rule.cleared.state = .unused := by
  decide +kernel

theorem witness_DefaultActionAndCaptureSettings :
    let ps : Bytes := [16, 15, 255, 255, 255, 255, 0, 0, 1, 3, 232, 0]
    let s := asked ready 0x30 ps
    (∀ v ∈ [(0 : Byte), 1, 2], Handed 0x16 (request 0x16 [v]) (asked ready 0x16 [v])
        ∧ ReplyRoom (request 0x16 [v]) (asked ready 0x16 [v]))
      ∧ (Handed 0x30 (request 0x30 ps) s ∧ ReplyRoom (request 0x30 ps) s ∧ s.ctl.state = .stopped)
      ∧ ({ s with ctl := { s.ctl with state := .running } } : State).ctl.state ≠ .stopped
      ∧ ((15 * 256 + 255) * 256 + 255 ≤ 1048575 ∧ 3 * 256 + 232 ≤ 1000 ∧ ¬ (3 * 256 + 233 ≤ 1000)) := by
  decide +kernel

theorem witness_TimeIsSetWithARecord :
    let ps : Bytes := [255, 255, 255, 255]
    let shut := asked ready 0x21 ps
    let s := asked (buffers ready .filling [record3] .empty) 0x21 ps
    let full := asked (buffers ready .full [record3] .writing) 0x21 ps
    (Handed 0x21 (request 0x21 ps) shut ∧ ReplyRoom (request 0x21 ps) shut ∧ shut.packer.gateOpen = false)
      ∧ (Handed 0x21 (request 0x21 ps) s ∧ ReplyRoom (request 0x21 ps) s ∧ s.packer.gateOpen = true ∧ LogQuiet s
        ∧ s.packer.nextSeq ≤ 281474976710653 ∧ bufIn s.packer .filling = some .sb0
        ∧ usedBytes (getBuf s.packer .sb0) + 22 ≤ 1024 ∧ s.ctl.state ≠ .posting)
      ∧ (Handed 0x21 (request 0x21 ps) full ∧ full.packer.gateOpen = true ∧ bufIn full.packer .filling = none
        ∧ bufIn full.packer .empty = none) := by
  decide +kernel

/-- RUNNING over a FILLING buffer, while a page is being written. -/
def capturing : State :=
  let s := running (buffers ready .filling [record3] .empty) .logWriter (.program 4 0 (logPage 1).header (.log []))
  { s with ctl := { s.ctl with state := .running } }

/-- The Packer of a state once SB0 has been closed for want of room. -/
def withoutRoom (s : State) : Packer := (closedSb0 s).packer

/-- A Management Unit that executes RESTART waits for the ending of its OK, frame 6 at Port A. -/
def restarting (s : State) : State := { s with
  raised := { s.raised with endings := [{ port := .a, who := .mgmt, serial := 6, transmitted := false }] }
  mgmt := { s.mgmt with current := some { req := request 0x06 [], stage := .restartWait 6 } } }

/-- The orderly stop of a RESTART at a stage. -/
def stopping (s : State) (stage : ExecStage) : State :=
  { s with mgmt := { s.mgmt with current := some { req := request 0x06 [], stage := stage } } }

/-- Capture in a state, toward RUNNING, with SB0 FILLING and a page being written; recording 7 is not yet journaled. -/
def runningOn (st : CaptureState) : State := { nearlyFull capturing .writing with
  ctl := { ready.ctl with state := st, target := some .running },
  dir := { entries := [{ entry 7 .capturing with last := none, reason := none, journaled := .none }], nextNumber := 8 } }

/-- The log condition is FULL, with no page to come. -/
def logIsFull (s : State) : State := { s with log := { s.log with condition := .full } }

theorem witness_ManagersAreSetAndRestartResets_3 :
    let e : Ending := { port := .a, who := .mgmt, serial := 6, transmitted := false }
    let halted : State := { capturing with ctl := ready.ctl }
    let awaited : State := { ready with ctl := { ready.ctl with state := .closing, target := some .stopped } }
    (∀ s, Oldest (fun y : Ending => y.port = .a ∧ y.who = .mgmt) (restarting s).raised.endings [] e []
        ∧ (restarting s).mgmt.current = some { req := request 0x06 [], stage := .restartWait e.serial })
      ∧ (∀ st ∈ [CaptureState.stopped, .running, .posting, .closing], let s := restarting (logIsFull (runningOn st))
        StopHopeless s.log ∧ (openEntry s.dir).map Entry.journaled = some .none)
      ∧ (halted.ctl.state = .stopped ∧ halted.log.condition ≠ .full ∧ inFault halted.log = false
        ∧ FlushedTo (restarting halted).packer (withoutRoom halted) ∧ ¬ Drained (withoutRoom halted) halted.jrnl
        ∧ LogQuiet (restarting halted) ∧ LogQuiet ((restarting halted).setPacker (withoutRoom halted)))
      ∧ ((restarting awaited).ctl.state = .closing ∧ (restarting awaited).ctl.target = some .stopped
        ∧ LogQuiet (restarting awaited))
      ∧ (∀ st ∈ [CaptureState.running, .posting, .closing], let s := restarting (runningOn st)
        s.ctl.state = st ∧ s.ctl.target = some .running ∧ s.log.condition ≠ .full ∧ inFault s.log = false
          ∧ (openEntry s.dir).map Entry.journaled = some .none
          ∧ ∃ u, StopPlaced .restart s u ∧ LogQuiet (s.setPacker u) ∧ bufIn u .filling = none) := by
  refine ⟨fun _ => ⟨⟨rfl, ⟨rfl, rfl⟩, nofun⟩, rfl⟩, by decide +kernel,
    ⟨by decide +kernel, by decide +kernel, by decide +kernel, .inr ⟨.sb0, by decide +kernel, rfl⟩, by decide +kernel,
      by decide +kernel, by decide +kernel⟩, by decide +kernel, ?_⟩
  intro st h
  simp only [List.mem_cons, List.not_mem_nil, or_false] at h
  rcases h with rfl | rfl | rfl <;>
    exact ⟨rfl, rfl, by decide +kernel, by decide +kernel, rfl, _, .inl ⟨.sb0, by decide +kernel, by decide +kernel, rfl⟩,
      by decide +kernel, by decide +kernel⟩

theorem witness_ManagersAreSetAndRestartResets_4 :
    let halted : State := { capturing with ctl := ready.ctl }
    (∀ stage ∈ [ExecStage.draining, .stopping],
      LogQuiet (stopping ready stage) ∧ (stopping ready stage).mgmt.current = some { req := request 0x06 [], stage := stage }
        ∧ Drained (stopping ready stage).packer (stopping ready stage).jrnl)
      ∧ (logIsFull ready).log.condition = .full
      ∧ (LogQuiet (stopping capturing .draining) ∧ (stopping capturing .draining).log.condition ≠ .full
        ∧ inFault (stopping capturing .draining).log = false
        ∧ ¬ Drained (stopping capturing .draining).packer (stopping capturing .draining).jrnl)
      ∧ ((stopping capturing .stopping).ctl.state ≠ .stopped ∧ (stopping halted .stopping).ctl.state = .stopped)
      ∧ FlushedTo (stopping halted .stopping).packer (withoutRoom halted)
      ∧ LogQuiet ((stopping halted .stopping).setPacker (withoutRoom halted))
      ∧ FlushedTo (stopping ready .stopping).packer ready.packer := by
  refine ⟨by decide +kernel, rfl, by decide +kernel, by decide +kernel, .inr ⟨.sb0, by decide +kernel, rfl⟩,
    by decide +kernel, .inl ⟨by decide +kernel, rfl⟩⟩

theorem witness_CaptureStartsAndStops :
    let start := asked ready 0x31 []
    let stop := asked capturing 0x32 []
    let bad := { start with log := { start.log with condition := .fault .directoryErase } }
    let closing := { stop with ctl := { stop.ctl with state := .closing, target := some .stopped } }
    let begins (st1 : BufState) : State := asked { nearlyFull capturing st1 with ctl := start.ctl } 0x31 []
    let wide (s : State) : State := { s with packer := { s.packer with
      sb0 := { s.packer.sb0 with recs := s.packer.sb0.recs ++ [longRecord 5] } } }
    let ends (st1 : BufState) (st : CaptureState) : State := asked { nearlyFull capturing st1 with
      ctl := { start.ctl with state := st, target := some .running },
      dir := { entries := [{ entry 7 .capturing with last := none, reason := none, journaled := .none }], nextNumber := 8 } }
      0x32 []
    (Handed 0x31 (request 0x31 []) start ∧ ReplyRoom (request 0x31 []) start ∧ inFault start.log = false
        ∧ start.ctl.state = .stopped ∧ start.packer.slot = [] ∧ start.packer.nextSeq ≤ 281474976710653
        ∧ bufIn start.packer .filling = none ∧ bufIn start.packer .empty = some .sb0 ∧ LogQuiet start)
      ∧ inFault bad.log = true
      ∧ (inFault (asked capturing 0x31 []).log = false ∧ (asked capturing 0x31 []).ctl.state ≠ .stopped)
      ∧ ((begins .empty).ctl.state = .stopped ∧ bufIn (begins .empty).packer .filling = some .sb0
        ∧ usedBytes (getBuf (begins .empty).packer .sb0) + 16 ≤ 1024 ∧ LogQuiet (begins .empty))
      ∧ (∀ st ∈ [BufState.empty, .writing], let s := wide (begins st)
        Handed 0x31 (request 0x31 []) s ∧ bufIn s.packer .filling = some .sb0
          ∧ 1024 < usedBytes (getBuf s.packer .sb0) + 16 ∧ LogQuiet (s.setPacker (withoutRoom s))
          ∧ bufIn (withoutRoom s) .empty = if st = .empty then some .sb1 else none)
      ∧ (Handed 0x32 (request 0x32 []) (asked ready 0x32 []) ∧ LogQuiet (asked ready 0x32 []))
      ∧ (closing.ctl.state = .closing ∧ closing.ctl.target = some .stopped ∧ LogQuiet closing)
      ∧ (∀ st ∈ [CaptureState.running, .posting, .closing], let s := ends .writing st
        Handed 0x32 (request 0x32 []) s ∧ ReplyRoom (request 0x32 []) s ∧ s.ctl.state = st
          ∧ s.ctl.target = some .running ∧ bufIn s.packer .filling = some .sb0
          ∧ usedBytes (getBuf s.packer .sb0) + 43 ≤ 1024 ∧ logProgramOut s.arr = true
          ∧ (openEntry s.dir).map Entry.journaled = some .none)
      ∧ (∀ st ∈ [BufState.empty, .writing], let s := wide (ends st .running)
        1024 < usedBytes (getBuf s.packer .sb0) + 43 ∧ s.packer.slot.any isRunStop = false
          ∧ bufIn (withoutRoom s) .empty = if st = .empty then some .sb1 else none) := by
  refine ⟨by decide +kernel, by decide +kernel, by decide +kernel, by decide +kernel, ?_, by decide +kernel, by decide +kernel,
    by decide +kernel, ?_⟩
  all_goals
    intro st h
    simp only [List.mem_cons, List.not_mem_nil, or_false] at h
    rcases h with rfl | rfl <;> decide +kernel

theorem witness_ForcedTriggersAreAnswered :
    let s (x : State) : State := asked x 0x33 []
    let full := { triggerable with dir := { triggerable.dir with entries := List.replicate 12 (entry 7 .frozen) } }
    let held := { triggerable with ctl := { triggerable.ctl with holdoffTimer := some 1 } }
    (Handed 0x33 (request 0x33 []) (s ready) ∧ ReplyRoom (request 0x33 []) (s ready) ∧ (s ready).ctl.state = .stopped)
      ∧ ((s held).ctl.state = .running ∧ (s held).ctl.holdoffTimer ≠ none)
      ∧ ((s full).ctl.state = .running ∧ (s full).ctl.holdoffTimer = none ∧ (s full).log.active ≠ none
        ∧ 12 ≤ (s full).dir.entries.length)
      ∧ (Handed 0x33 (request 0x33 []) (s triggerable) ∧ ReplyRoom (request 0x33 []) (s triggerable)
        ∧ (s triggerable).ctl.state = .running ∧ (s triggerable).ctl.holdoffTimer = none
        ∧ (s triggerable).log.active = some 4 ∧ (s triggerable).dir.entries.length < 12
        ∧ (∀ e ∈ (s triggerable).dir.entries, e.num ≠ (s triggerable).dir.nextNumber)
        ∧ (s triggerable).jrnl.usable = true ∧ (s triggerable).jrnl.state ≠ .idle
        ∧ (s triggerable).packer.nextSeq ≤ 281474976710655 ∧ (s triggerable).ctl.settings.window = 0
        ∧ (s triggerable).ctl.settings.postTime = 0) := by
  decide +kernel

/-- READY with the given directory. -/
def keeping (es : List Entry) : State := { ready with dir := { entries := es, nextNumber := 9 } }

theorem witness_RecordingsAreListedAndRead :
    let s := keeping [entry 8 .kept, entry 7 .frozen]
    (Handed 0x34 (request 0x34 []) (asked s 0x34 []) ∧ ReplyRoom (request 0x34 []) (asked s 0x34 [])
        ∧ ([entry 7 .frozen, entry 8 .kept]).Perm s.dir.entries
        ∧ ([entry 7 .frozen, entry 8 .kept]).Pairwise (fun x y => x.num < y.num))
      ∧ (Handed 0x35 (request 0x35 [0, 8]) (asked s 0x35 [0, 8]) ∧ findEntry s.dir 8 = some (entry 8 .kept))
      ∧ (Handed 0x35 (request 0x35 [1, 8]) (asked s 0x35 [1, 8]) ∧ (∀ e ∈ s.dir.entries, e.num ≠ 264)) :=
  ⟨⟨by decide +kernel, by decide +kernel, List.Perm.swap _ _ _, by decide +kernel⟩, by decide +kernel, by decide +kernel⟩

theorem witness_StoreRequestsWaitForTheirPages :
    let s (es : List Entry) (c : Byte) : State := asked (writing (keeping es)) c [0, 7]
    let r (c : Byte) : Request := request c [0, 7]
    let used := { entry 7 .kept with sessions := 1 }
    let bad := { s [entry 7 .kept] 0x36 with log := { ready.log with condition := .fault .retiredLimit } }
    let last := { s [] 0x40 with jrnl := { (s [] 0x40).jrnl with generation := 4294967295 } }
    (∀ c ∈ [(0x36 : Byte), 0x37, 0x40, 0x41], Handed c (r c) (s [entry 7 .kept] c) ∧ ReplyRoom (r c) (s [entry 7 .kept] c)
        ∧ (s [entry 7 .kept] c).jrnl.usable = true ∧ (s [entry 7 .kept] c).jrnl.state ≠ .idle
        ∧ LogQuiet (s [entry 7 .kept] c) ∧ inFault (s [entry 7 .kept] c).log = false)
      ∧ findEntry (s [entry 7 .kept] 0x36).dir 7 = some (entry 7 .kept)
      ∧ (∀ e ∈ (s [] 0x36).dir.entries, e.num ≠ 7)
      ∧ findEntry (s [entry 7 .frozen] 0x36).dir 7 = some (entry 7 .frozen)
      ∧ findEntry (s [entry 7 .capturing] 0x37).dir 7 = some (entry 7 .capturing)
      ∧ (findEntry (s [used] 0x36).dir 7 = some used ∧ 0 < used.sessions)
      ∧ (inFault bad.log = true ∧ LogQuiet bad) ∧ last.jrnl.generation = 4294967295
      ∧ (s [] 0x40).jrnl.generation ≠ 4294967295 := by
  decide +kernel

/-! ### Witnesses: sessions -/

/-- OPEN_RETRIEVAL of a source with start point, limit 0, FOLLOW byte and credit. -/
def openPs (source start follow credit : Byte) : Bytes := [0, source, 0, 0, 0, 0, 0, start, 0, 0, 0, 0, follow, credit]

/-- READY, with recording 7 over block 1023. -/
def stored : State :=
  { keeping [{ entry 7 .kept with blocks := [1023] }] with
    log := { LogManager.initial with
      table := [(1023, { state := .filled, hold := 1, firstSeq := some 1, firstPage := some 1 })] } }

theorem witness_SessionsAreOpenedOrRefused :
    let s (x : State) (ps : Bytes) : State := asked x 0x50 ps
    let busy := { stored with ret := {
      s1 := { Session.initial with state := .stalled }, s2 := { Session.initial with state := .ending } } }
    let open7 := { stored with dir := { stored.dir with entries := [entry 7 .closing] } }
    (∀ ps ∈ [openPs 7 0 0 16, openPs 7 0 0 17, openPs 7 0 1 0, openPs 7 10 0 0, openPs 8 0 0 1, openPs 0 0 1 0,
        openPs 0 0 0 0],
      Handed 0x50 (request 0x50 ps) (s stored ps) ∧ ReplyRoom (request 0x50 ps) (s stored ps))
      ∧ (busy.ret.s1.state ≠ .free ∧ busy.ret.s2.state ≠ .free)
      ∧ (stored.ret.s1.state = .free ∧ (∀ e ∈ stored.dir.entries, e.num ≠ 8))
      ∧ (findEntry open7.dir 7).map Entry.state = some .closing
      ∧ (10 ≠ 0 ∧ (findEntry stored.dir 7).map (fun e => decide (e.last.getD 0 < 10)) = some true)
      ∧ (findEntry stored.dir 7 = some { entry 7 .kept with blocks := [1023] }
        ∧ cursorBlock stored.log [1023] 0 1 = some (0, 1023) ∧ stored.arr.running = none ∧ ArrayAlone stored.arr
        ∧ stored.seqr.part = .ready)
      ∧ listedBlocks stored.log = [] := by
  decide +kernel

/-- Session 2 of station 17 on Port A, STALLED, with records of 100 and 140 bytes of captured bytes. -/
def stalled : State :=
  let rec2 (n k : Nat) : Record :=
    { seq := n, time := 0, body := .frame .a .good false false 0 k (List.replicate k 0) }
  { ready with ret := { s1 := Session.initial, s2 := { Session.initial with
      state := .stalled, station := 17, replySeen := true, idleTimer := true, buffer := [rec2 1 100, rec2 2 140] } } }

theorem witness_SessionsAreGrantedClosedAndTimedOut :
    let grant (id n : Byte) (x : State) : State := asked x 0x51 [id, n]
    let close (id : Byte) (x : State) : State := asked x 0x52 [id]
    let y := stalled.session .two
    let waits := { stalled with ret := { stalled.ret with s2 := { y with state := .following } } }
    (∀ ps ∈ [([2, 64] : Bytes), [2, 1], [2, 0], [2, 65], [3, 1], [0, 1], [1, 1]],
      Handed 0x51 (request 0x51 ps) (asked stalled 0x51 ps) ∧ ReplyRoom (request 0x51 ps) (asked stalled 0x51 ps))
      ∧ ((grant 1 1 stalled).session .one).state = .free
      ∧ (((grant 2 64 waits).session .two).state = .following ∧ ((grant 2 64 waits).session .two).station = 17)
      ∧ (y.state = .stalled ∧ y.station = 17 ∧ y.credit = 0 ∧ y.replySeen = true ∧ y.port = .a
        ∧ (stalled.port .a).localQ = [] ∧ (stalled.port .a).waiting = []
        ∧ (∃ recs x more last, y.buffer = recs ++ x :: more ∧ recs.getLast? = some last ∧ recordsSize recs ≤ 235
          ∧ 235 < recordsSize recs + recordSize x))
      ∧ (∀ id ∈ [(0 : Byte), 1, 2, 3],
        Handed 0x52 (request 0x52 [id]) (close id stalled) ∧ ReplyRoom (request 0x52 [id]) (close id stalled))
      ∧ SessionClear .two (close 2 stalled)
      ∧ (ready.session .two).idleTimer = false
      ∧ (y.idleTimer = true ∧ SessionClear .two stalled ∧ LocalRoom y.port stalled) := by
  refine ⟨by decide +kernel, by decide +kernel, by decide +kernel, ?_, by decide +kernel⟩
  exact ⟨by decide +kernel, by decide +kernel, by decide +kernel, by decide +kernel, by decide +kernel,
    by decide +kernel, by decide +kernel, ⟨[_], _, [], _, rfl, rfl, by decide +kernel, by decide +kernel⟩⟩

/-! ### Witnesses: layouts -/

theorem witness_OwnFramesAreReceivedGood :
    (255 ≤ 255 ∧ (List.replicate 240 (0 : Byte)).length ≤ 240) ∧ ([] : Bytes).length ≤ 240 := by
  decide +kernel

theorem witness_RuleLayoutsRoundTrip :
    let r := { Rule.cleared with
      state := .enabled, snap := 200,
      test := some { offset := 239, length := 1, value := 255, mask := 255, sense := .notEqual } }
    47 ≤ 47 ∧ r.state ≠ .unused ∧ ruleValid r = true ∧ Rule.cleared.state = .unused ∧ ruleValid Rule.cleared = true := by
  decide +kernel

/-! ### Witnesses: the ends of posting -/

/-- A capturing or closing recording 7, journaled as given. -/
def openRec (st : RecState) (last : Option Nat) (j : Journaled) : Entry :=
  { entry 7 st with last := last, reason := if last = none then none else some .count, journaled := j }

/-- Recording 7 as the end of posting leaves it. -/
def closedRec (why : CloseReason) (last : Nat) : Entry :=
  { openRec .closing (some last) .capturing with reason := some why }

/-- POSTING toward sequence `n`, with recording 7 open, its CAPTURING snapshot journaled and sequence `newest` committed;
the Journal Writer serves another job. -/
def posting (s : State) (n newest : Nat) : State := { writing s with
  ctl := { s.ctl with state := .posting, postTimer := some 50, postEnd := n, stopReason := none },
  dir := { entries := [entry 6 .kept, openRec .capturing none .capturing], nextNumber := 8 },
  log := { s.log with lastCommitted := newest, capturingRec := 7 } }

/-- The same, sequence 2 committed, with the Journal Writer IDLE at a page of block 1. -/
def postingIdle (page : Nat) : State :=
  { posting ready 1 2 with jrnl := { ready.jrnl with cur := some 1, nextPage := page } }

/-- The KEPT snapshot is asked of a writer that serves another job. -/
theorem kept_due (why : CloseReason) (n : Nat) (s : State) (h : openEntry s.dir = some (closedRec why n))
    (hc : s.ctl.state = .closing) (hk : s.ctl.keptAsked = false) (hn : n ≤ s.log.lastCommitted)
    (hu : s.jrnl.usable = true) (hs : s.jrnl.state ≠ .idle) :
    KeptLooked s { s with
      ctl := { s.ctl with keptAsked := true }, jrnl := { s.jrnl with jobs := s.jrnl.jobs ++ [.kept 7] } } :=
  .inr ⟨closedRec why n, n, h, hc, rfl, hk, nofun, rfl, hn, hu, nofun, .inl ⟨hs, rfl⟩⟩

/-- The last record sequence has not committed. -/
theorem kept_not_due (why : CloseReason) (n : Nat) (s : State) (h : openEntry s.dir = some (closedRec why n))
    (hn : s.log.lastCommitted < n) : KeptLooked s s :=
  .inl ⟨fun e he _ _ _ => by rw [h] at he; cases he; exact .inr fun l hl => by cases hl; exact hn, rfl⟩

/-- An IDLE writer with a page left appends the KEPT snapshot at once. -/
theorem kept_due_idle : ∃ v, PostingEnded .time (openRec .capturing none .capturing) 2 (postingIdle 15) v :=
  ⟨_, .inr ⟨closedRec .time 2, 2, rfl, rfl, rfl, rfl, nofun, rfl, by decide, rfl, nofun,
    .inr ⟨rfl, rfl, rfl, by decide +kernel, by decide, .kept 7, [], rfl, nofun, nofun,
      .inl ⟨1, _, rfl, by decide, by decide,
        .inr (.inr ⟨closedRec .time 2, .kept, _, rfl, rfl, .inr (.inl ⟨rfl, rfl, rfl⟩)⟩), rfl⟩⟩⟩⟩

/-- An IDLE writer without a page left compacts. -/
theorem kept_due_compacts : ∃ v, PostingEnded .time (openRec .capturing none .capturing) 2 (postingIdle 16) v :=
  ⟨_, .inr ⟨closedRec .time 2, 2, rfl, rfl, rfl, rfl, nofun, rfl, by decide, rfl, nofun,
    .inr ⟨rfl, rfl, rfl, by decide +kernel, by decide, .kept 7, [], rfl, nofun, nofun,
      .inr ⟨.inr ⟨⟨1, rfl, by decide⟩, by decide⟩, rfl⟩⟩⟩⟩

theorem witness_PostTimeEndsPosting_2 :
    let e := openRec .capturing none .capturing
    (∀ newest ∈ [1, 2], let s := posting ready 1 newest
      s.ctl.postTimer ≠ none ∧ s.ctl.state = .posting ∧ OpenAlone s.dir e ∧ NoStop s ∧ lastAtEnd s e = 2
        ∧ LogQuiet (postingClosed .time e 2 s))
      ∧ (∃ v, PostingEnded .time e 2 (posting ready 1 1) v) ∧ (∃ v, PostingEnded .time e 2 (posting ready 1 2) v)
      ∧ (∃ v, PostingEnded .time e 2 (postingIdle 15) v) ∧ ∃ v, PostingEnded .time e 2 (postingIdle 16) v :=
  ⟨by decide +kernel, ⟨_, kept_not_due .time 2 _ rfl (by decide)⟩,
    ⟨_, kept_due .time 2 _ rfl rfl rfl (by decide) rfl nofun⟩, kept_due_idle, kept_due_compacts⟩

/-- A result with a mark waits at the Packer, POSTING toward sequence `n`, while a page is being written; with the capture
either to fit SB0, which ends with record 3, or to open SB1 behind a GAP record. -/
def countingIn (fits : Bool) (n newest : Nat) : State :=
  let long : Captured := { bytes := List.replicate 130 0, truncated := false }
  let program : ArrayReq := .program 4 0 (logPage 1).header (.log [])
  posting (if fits then running (offering (some { long with bytes := [1] }) .filling .empty) .logWriter program
    else nearlyFull (running (offering (some long) .empty .empty) .logWriter program) .empty) n newest

/-- The state in which the capture that fits has been placed at sequence 1. -/
def countedIn (newest : Nat) : State :=
  let s := countingIn true 1 newest
  let rec1 : Record := { seq := 1, time := 0, body := .frame .a .good false true 0 12 [1] }
  (s.setRaised { s.raised with results := [], marks := [{ rule := 0, seq := 1, time := 0, lost := false }] }).setPacker
    { setBuf s.packer { getBuf s.packer .sb0 with recs := (getBuf s.packer .sb0).recs ++ [rec1] } .sb0 with
      nextSeq := 2, lastPlaced := 1, recordsPacked := 1 }

theorem witness_ResultsArePackedLostOrDiscarded_2 :
    let e := openRec .capturing none .capturing
    (∀ s ∈ [countingIn true 1 0, countingIn true 1 1, countingIn false 5 0, countingIn false 6 0],
      s.raised.results.length = 1 ∧ s.packer.gateOpen = true ∧ NoStop s ∧ s.ctl.state = .posting ∧ OpenAlone s.dir e
        ∧ logProgramOut s.arr = true)
      ∧ (usedBytes (getBuf (countingIn true 1 0).packer .sb0) + 15 + 1 ≤ 1024
        ∧ bufIn (countingIn true 1 0).packer .filling = some .sb0)
      ∧ (∃ v, CountTaken 1 (countedIn 0) v ∧ v.ctl.keptAsked = false)
      ∧ (∃ v, CountTaken 1 (countedIn 1) v ∧ v.ctl.keptAsked = true)
      ∧ (let p := (countingIn false 5 0).packer
        bufIn p .filling = some .sb0 ∧ 1024 < usedBytes (getBuf p .sb0) + (15 + 130) ∧ (lossGap p).length = 1
          ∧ p.nextSeq = 5 ∧ p.slot.any isRunStop = false ∧ bufIn (withoutRoom (countingIn false 5 0)) .empty = some .sb1) := by
  refine ⟨?_, by decide +kernel, ⟨_, .inr ⟨rfl, by decide, by decide, openRec .capturing none .capturing,
      by decide +kernel, kept_not_due .count 1 _ rfl (by decide)⟩, rfl⟩,
    ⟨_, .inr ⟨rfl, by decide, by decide, openRec .capturing none .capturing, by decide +kernel,
      kept_due .count 1 _ rfl rfl rfl (by decide) rfl nofun⟩, rfl⟩, by decide +kernel⟩
  intro s h
  simp only [List.mem_cons, List.not_mem_nil, or_false] at h
  rcases h with rfl | rfl | rfl | rfl <;> decide +kernel

/-- SET_TIME over a FILLING buffer, POSTING toward the sequence that its record takes. -/
def settingTime (newest : Nat) : State :=
  posting (asked (buffers ready .filling [record3] .empty) 0x21 [0, 0, 0, 9]) 1 newest

theorem witness_TimeIsSetWithARecord_2 :
    let s := settingTime 1
    let u := s.setPacker { setBuf s.packer { getBuf s.packer .sb0 with
        recs := (getBuf s.packer .sb0).recs ++ [{ seq := 1, time := 9, body := .timeSet 0 9 }] } .sb0 with
      timeBase := 9, nextSeq := 2, lastPlaced := 1, recordsPacked := 1 }
    (Handed 0x21 (request 0x21 [0, 0, 0, 9]) s ∧ s.packer.gateOpen = true ∧ bufIn s.packer .filling = some .sb0)
      ∧ ∃ v, CountTaken 1 u v ∧ LogQuiet v :=
  ⟨by decide +kernel, _, .inr ⟨rfl, by decide, by decide, openRec .capturing none .capturing, by decide +kernel,
    kept_due .count 1 _ rfl rfl rfl (by decide) rfl nofun⟩, by decide +kernel⟩

/-- A request of the given code, POSTING over a FILLING buffer while a page is being written. -/
def stoppedPosting (code : Byte) (newest : Nat) : State := posting (asked (nearlyFull capturing .writing) code []) 90 newest

theorem witness_CaptureStartsAndStops_2 :
    let e := openRec .capturing none .capturing
    ∀ newest ∈ [3, 4], let s := stoppedPosting 0x32 newest
      (Handed 0x32 (request 0x32 []) s ∧ ReplyRoom (request 0x32 []) s ∧ s.ctl.state = .posting ∧ OpenAlone s.dir e
        ∧ lastAtEnd s e = 4)
      ∧ (∃ u, StopPlaced .request s u ∧ LogQuiet (s.setPacker u)) ∧ ∃ v, PostingEnded .stopped e 4 s v := by
  intro e newest h
  simp only [List.mem_cons, List.not_mem_nil, or_false] at h
  rcases h with rfl | rfl
  · exact ⟨by decide +kernel, ⟨_, .inl ⟨.sb0, by decide +kernel, by decide +kernel, rfl⟩, by decide +kernel⟩,
      _, kept_not_due .stopped 4 _ rfl (by decide)⟩
  · exact ⟨by decide +kernel, ⟨_, .inl ⟨.sb0, by decide +kernel, by decide +kernel, rfl⟩, by decide +kernel⟩,
      _, kept_due .stopped 4 _ rfl rfl rfl (by decide) rfl nofun⟩

theorem witness_ManagersAreSetAndRestartResets_5 :
    let e := openRec .capturing none .capturing
    ∀ s ∈ [restarting (stoppedPosting 0x06 4), restarting (logIsFull (stoppedPosting 0x06 4))],
      (s.ctl.state = .posting ∧ OpenAlone s.dir e ∧ lastAtEnd s e = 4)
        ∧ (∃ v, PostingEnded .stopped e 4 s v) ∧ (StopHopeless s.log ↔ s.log.condition = .full) := by
  intro e s h
  simp only [List.mem_cons, List.not_mem_nil, or_false] at h
  rcases h with rfl | rfl
  · exact ⟨by decide +kernel, ⟨_, kept_due .stopped 4 _ rfl rfl rfl (by decide) rfl nofun⟩, by decide +kernel⟩
  · exact ⟨by decide +kernel, ⟨_, kept_due .stopped 4 _ rfl rfl rfl (by decide) rfl nofun⟩, by decide +kernel⟩

/-- Without the CAPTURING snapshot in the journal the KEPT snapshot is not due. -/
theorem kept_not_journaled (s : State) (h : ∀ e, openEntry s.dir = some e → e.journaled = .none) : KeptLooked s s :=
  .inl ⟨fun e he _ _ _ => .inl (h e he), rfl⟩

/-- Outside POSTING a record ends no posting. -/
theorem count_outside_posting (n : Nat) (s : State) (h : s.ctl.state ≠ .posting) : CountTaken n s s :=
  .inl ⟨fun hp => absurd hp h, rfl⟩

/-! ### Witnesses: faults while capture is on -/

/-- A run in the given state, its recording open in POSTING and CLOSING, with or without its RUN_STOP. -/
def onRun (st : CaptureState) (why : Option StopReason) (s : State) : State := { s with
  ctl := { s.ctl with
    state := st, target := if st = .closing then some .running else none, stopReason := why, lastRun := 3,
    postTimer := some 50 },
  dir := { entries := [entry 6 .kept] ++ (match st with
    | .posting => [openRec .capturing none .capturing]
    | .closing => [openRec .closing (some 9) .capturing]
    | _ => []), nextNumber := 8 },
  log := { s.log with capturingRec := if st = .running then 0 else 7 } }

/-- A RUN_STOP of reason FAULT can be placed in the FILLING buffer. -/
theorem fault_in_running (s : State) (h : s.ctl.state = .running) (hp : ∃ p, StopPlaced .fault s p) : ∃ v, FaultTaken s v :=
  hp.elim fun p hp => ⟨_, .inr (.inl ⟨h, p, hp, rfl⟩)⟩

theorem fault_in_recording (s : State) (e : Entry) (h : s.ctl.state = .posting ∨ s.ctl.state = .closing)
    (ho : OpenAlone s.dir e) (hp : s.ctl.stopReason ≠ none ∨ ∃ p, StopPlaced .fault s p) : ∃ v, FaultTaken s v := by
  by_cases hr : s.ctl.stopReason = none
  · obtain ⟨p, hp⟩ := hp.resolve_left (fun h => h hr)
    exact ⟨_, .inr (.inr ⟨h, e, ho, .inr ⟨hr, p, hp, rfl⟩⟩)⟩
  · exact ⟨_, .inr (.inr ⟨h, e, ho, .inl ⟨hr, rfl⟩⟩)⟩

/-- The third compaction for a release, the only job, fails, while capture is in the given state over a FILLING buffer. -/
def lastCompaction (st : CaptureState) (why : Option StopReason) : State :=
  onRun st why (nearlyFull (compacting (.released 3)
    { target := 1, page := 15, set := [3, 5], pos := 2, begun := 3 }
    (.program 1 15 (journalHeader 44) (.journal (releasedPage 3)))) .empty)

/-- The log of that state in FAULT. -/
def inDirFault (s : State) : State := { s with log := { s.log with condition := .fault .directoryErase } }

theorem witness_CompactionsCopyTheDirectory_2 :
    (∀ x ∈ [(CaptureState.running, none), (.posting, none), (.closing, none), (.closing, some StopReason.request)],
      let s := lastCompaction x.1 x.2
      s.seqr.part = .ready ∧ ArrayAlone s.arr ∧ NoStop s ∧ LogQuiet (s.setArr { s.arr with running := none })
        ∧ s.jrnl.jobs = [.released 3] ∧ s.jrnl.comp.page = 15 ∧ 3 ≤ s.jrnl.comp.begun
        ∧ pageAt s.store 1 15 = none ∧ inFault s.log = false ∧ ReplyRoom (request 0x36 [0, 3]) s)
      ∧ (∃ v, FaultTaken (inDirFault (lastCompaction .running none)) v)
      ∧ (∃ v, FaultTaken (inDirFault (lastCompaction .posting none)) v)
      ∧ (∃ v, FaultTaken (inDirFault (lastCompaction .closing none)) v)
      ∧ ∃ v, FaultTaken (inDirFault (lastCompaction .closing (some .request))) v := by
  refine ⟨?_, fault_in_running _ rfl ⟨_, .inl ⟨.sb0, by decide +kernel, by decide +kernel, rfl⟩⟩,
    fault_in_recording _ (openRec .capturing none .capturing) (.inl rfl) (by decide +kernel)
      (.inr ⟨_, .inl ⟨.sb0, by decide +kernel, by decide +kernel, rfl⟩⟩),
    fault_in_recording _ (openRec .closing (some 9) .capturing) (.inr rfl) (by decide +kernel)
      (.inr ⟨_, .inl ⟨.sb0, by decide +kernel, by decide +kernel, rfl⟩⟩),
    fault_in_recording _ (openRec .closing (some 9) .capturing) (.inr rfl) (by decide +kernel) (.inl nofun)⟩
  intro x h
  simp only [List.mem_cons, List.not_mem_nil, or_false] at h
  rcases h with rfl | rfl | rfl | rfl <;> decide +kernel

/-- The append of the only job on page 15 of block 1, after `n` compactions for it. -/
def appending (j : Job) (page n : Nat) : State :=
  running { ready with
      dir := { entries := [openRec .closing (some 9) .capturing], nextNumber := 8 },
      jrnl := { ready.jrnl with
        cur := some 1, nextPage := page, state := .appending, jobs := [j],
        comp := { Compaction.initial with begun := n } } } .journal
    (.program 1 page (journalHeader 44) (.journal (releasedPage 7)))

theorem witness_CompactionsCopyTheDirectory_3 :
    let s := appending (.kept 7) 15 3
    s.seqr.part = .ready ∧ ArrayAlone s.arr ∧ NoStop s ∧ LogQuiet (s.setArr { s.arr with running := none })
      ∧ s.jrnl.jobs = [.kept 7] ∧ s.jrnl.state = .appending ∧ s.jrnl.cur = some 1 ∧ s.jrnl.nextPage = 15
      ∧ 3 ≤ s.jrnl.comp.begun ∧ FaultTaken (inDirFault s) (inDirFault s) ∧ inFault s.log = false :=
  ⟨by decide +kernel, by decide +kernel, by decide +kernel, by decide +kernel, rfl, rfl, rfl, rfl, by decide,
    .inl ⟨rfl, rfl⟩, by decide +kernel⟩

/-- The state with the log in FAULT of 32 retired blocks. -/
def inLimitFault (s : State) : State := { s with log := { s.log with condition := .fault .retiredLimit } }

/-- The erase of block 9 fails, the 32nd block to be retired, while capture is in the given state. -/
def lastErase (st : CaptureState) : State :=
  onRun st none (nearlyFull (retiring 31 [(9, { state := .erasing, hold := 0, firstSeq := none, firstPage := none })])
    .empty)

theorem witness_EraseAheadPreparesItsBlock_2 :
    (∀ st ∈ [CaptureState.running, .posting], let s := lastErase st
      ArrayAlone s.arr ∧ NoStop s ∧ StoreWf s ∧ inFault s.log = false ∧ waitingBuffer s = none ∧ s.jrnl.usable = true
        ∧ s.jrnl.state ≠ .idle ∧ s.jrnl.jobs.drop 1 = [] ∧ s.log.retired.length = 31)
      ∧ (∃ v, FaultTaken (inLimitFault (lastErase .running)) v) ∧ ∃ v, FaultTaken (inLimitFault (lastErase .posting)) v := by
  refine ⟨?_, fault_in_running _ rfl ⟨_, .inl ⟨.sb0, by decide +kernel, by decide +kernel, rfl⟩⟩,
    fault_in_recording _ (openRec .capturing none .capturing) (.inl rfl) (by decide +kernel)
      (.inr ⟨_, .inl ⟨.sb0, by decide +kernel, by decide +kernel, rfl⟩⟩)⟩
  intro st h
  simp only [List.mem_cons, List.not_mem_nil, or_false] at h
  rcases h with rfl | rfl <;> decide +kernel

theorem witness_FailingBlocksAreRetiredAndTheLogFills_2 :
    ∀ st ∈ [CaptureState.running, .posting], let s := onRun st none (failing 31)
      (s.seqr.part = .ready ∧ inFault s.log = false ∧ NoStop s ∧ waitingBuffer s = some .sb0 ∧ s.log.active = some 1023
        ∧ s.log.failing = true ∧ s.log.ahead = .prepared 4 ∧ s.arr.running = none ∧ ArrayAlone s.arr
        ∧ s.jrnl.usable = true ∧ s.jrnl.state ≠ .idle ∧ s.jrnl.jobs.drop 1 = [] ∧ s.log.retired.length = 31)
      ∧ ∃ v, FaultTaken (inLimitFault s) v := by
  intro st h
  simp only [List.mem_cons, List.not_mem_nil, or_false] at h
  rcases h with rfl | rfl
  · exact ⟨⟨rfl, rfl, nofun, rfl, rfl, rfl, rfl, rfl, ⟨rfl, rfl, rfl, rfl, rfl, rfl, rfl⟩, rfl, nofun, rfl, rfl⟩,
      fault_in_running _ rfl ⟨_, .inr ⟨_, .inl ⟨rfl, rfl⟩, rfl, .inl ⟨.sb1, rfl, rfl⟩⟩⟩⟩
  · exact ⟨⟨rfl, rfl, nofun, rfl, rfl, rfl, rfl, rfl, ⟨rfl, rfl, rfl, rfl, rfl, rfl, rfl⟩, rfl, nofun, rfl, rfl⟩,
      fault_in_recording _ (openRec .capturing none .capturing) (.inl rfl) (by decide +kernel)
        (.inr ⟨_, .inr ⟨_, .inl ⟨rfl, rfl⟩, rfl, .inl ⟨.sb1, rfl, rfl⟩⟩⟩)⟩

/-! ### Witnesses: the end of phase 6 -/

/-- The erase of phase 6 with autostart ON, after a number of retirements, over a Block Table in which the other blocks
are STALE or RETIRED, and with a current block of the Directory Area or none. -/
def firstErase (n : Nat) (table : List (Nat × BlockEntry)) (cur : Option Nat) : State := { erasingFirst with
  ctl := { erasingFirst.ctl with settings := { erasingFirst.ctl.settings with autostart := true } },
  seqr := { erasingFirst.seqr with dirCur := cur },
  log := { erasingFirst.log with retired := List.range' 100 n, ringPos := 1023, table := table } }

/-- A state that phase 6 has left READY, with the log as given. -/
def phaseEnded (s : State) (l : LogManager) : State := { s with
  seqr := { s.seqr with part := .ready, phase := 0, scan := .none }, log := l, arr := { s.arr with running := none },
  jrnl := { s.jrnl with cur := s.seqr.dirCur, nextPage := s.seqr.dirNext, state := .idle, jobs := [], usable := true },
  raised := { s.raised with events := s.raised.events ++ [(.sequencer, .started s.seqr.cause)] } }

/-- The log with block 4 in the given state. -/
def blockFour (s : State) (st : BlockState) : LogManager :=
  { setBlockEntry s.log 4 { blockEntry s.log 4 with state := st } with ahead := .none }

/-- A run can begin with a RUN_START that opens an EMPTY buffer. -/
theorem run_begins (s : State) (i : BufId) (hf : inFault s.log = false) (hc : s.ctl.state = .stopped)
    (hs : s.packer.slot = []) (hn : s.packer.nextSeq + (lossGap s.packer).length ≤ 281474976710653)
    (h0 : bufIn s.packer .filling = none) (h1 : bufIn s.packer .empty = some i) :
    ∃ v, RunBegun (s.packer.nextSeq + (lossGap s.packer).length) s v :=
  ⟨_, hf, hc, hs, hn, .inr ⟨s.packer, .inl ⟨h0, rfl⟩, rfl, .inl ⟨i, h1, rfl⟩⟩⟩

/-- An IDLE writer appends a RETIRED_LIST page at once, or compacts for it. -/
theorem list_asked (s : State) (hp : s.seqr.part = .ready) (ha : s.arr = ArrayCtl.initial) (hu : s.jrnl.usable = true)
    (hi : s.jrnl.state = .idle) (hj : s.jrnl.jobs = []) (hn : s.log.nextPageSeq < 281474976710655)
    (hc : s.jrnl.cur = none ∨ s.jrnl.cur = some 1) :
    ∃ v, JobAsked (.retiredList false) s v := by
  have h1 : s.arr.running = none := ha ▸ rfl
  have h2 : ArrayAlone s.arr := ha ▸ ⟨rfl, rfl, rfl, rfl, rfl, rfl, rfl⟩
  by_cases h : s.jrnl.cur = some 1 ∧ s.jrnl.nextPage ≤ 15
  · exact ⟨_, hu, by simp [hj], .inr ⟨hi, hp, h1, h2, hn, .retiredList false, [], by simp [hj], nofun, nofun,
      .inl ⟨1, _, h.1, by decide, h.2, .inr (.inl ⟨false, rfl, rfl⟩), rfl⟩⟩⟩
  · refine ⟨_, hu, by simp [hj], .inr ⟨hi, hp, h1, h2, hn, .retiredList false, [], by simp [hj], nofun, nofun,
      .inr ⟨?_, rfl⟩⟩⟩
    rcases hc with hc | hc
    · exact .inl hc
    · exact .inr ⟨⟨1, hc, by decide⟩, Nat.lt_of_not_le fun k => h ⟨hc, k⟩⟩

theorem witness_PhaseSixEraseMakesThePartReady_2 :
    let block4 : BlockEntry := { state := .erasing, hold := 0, firstSeq := none, firstPage := none }
    let x : Running := { who := .sequencer, req := .erase 4, count := 0, reached := 0 }
    let gone (n : Nat) (s : State) : State :=
      s.setRaised { s.raised with events := s.raised.events ++ [(.log, .blockRetired 4 .erase (n + 1))] }
    let failed (s : State) : LogManager :=
      { blockFour s .retired with retired := s.log.retired ++ [4] }
    (∀ n ∈ [0, 30, 31], let s := firstErase n [(4, block4)] (some 1)
      s.arr.running = some x ∧ ArrayAlone s.arr ∧ StoreWf s ∧ s.seqr.part = .mounting ∧ s.seqr.scan = .firstErase 4
        ∧ s.seqr.retiredNow = none ∧ s.log.condition = .normal ∧ s.mgmt.current = none ∧ waitingBuffer s = none
        ∧ s.seqr.dirFault = false ∧ s.ctl.settings.autostart = true ∧ s.log.retired.length = n)
      ∧ (∃ v, RunBegun 1 (phaseEnded (firstErase 0 [(4, block4)] (some 1))
          { blockFour (firstErase 0 [(4, block4)] (some 1)) .erased with ahead := .prepared 4 }) v)
      ∧ (candidate (failed (firstErase 30 [(4, block4)] (some 1))) = some 5
        ∧ candidate (failed (firstErase 30 (putAt exhausted 4 (some block4)) none)) = none)
      ∧ (∀ s ∈ [firstErase 30 [(4, block4)] (some 1), firstErase 31 [(4, block4)] (some 1), firstErase 30 [(4, block4)] none],
        ∃ w, JobAsked (.retiredList false) (phaseEnded s (failed s)) w)
      ∧ ∃ v, RunBegun 1 (gone 30 (phaseEnded (firstErase 30 [(4, block4)] (some 1))
          (failed (firstErase 30 [(4, block4)] (some 1))))) v := by
  refine ⟨by decide +kernel, run_begins _ .sb0 rfl rfl rfl (by decide) rfl rfl, ⟨by decide +kernel, ?_⟩, ?_,
    run_begins _ .sb0 rfl rfl rfl (by decide) rfl rfl⟩
  · exact candidate_exhausted _ 4 { state := .retired, hold := 0, firstSeq := none, firstPage := none } rfl (by decide)
      (by decide) (by decide)
  · intro s h
    simp only [List.mem_cons, List.not_mem_nil, or_false] at h
    rcases h with rfl | rfl | rfl
    · exact list_asked _ rfl rfl rfl rfl rfl (by decide) (.inr rfl)
    · exact list_asked _ rfl rfl rfl rfl rfl (by decide) (.inr rfl)
    · exact list_asked _ rfl rfl rfl rfl rfl (by decide) (.inl rfl)

/-! ### Witnesses: waiting frames, and answers without room -/

/-- A frame of the given producer waits for room at Port A, a frame of the port's four is about to end. -/
def entering (w : LocalFrame) : State := { ready with portA := { ready.portA with
  tx := some { bytes := [1], origin := some (frame 0) }, localQ := [frame 1, frame 2, frame 3, frame 4],
  waiting := [{ frame := w, withdrawn := false }, { frame := frame 9, withdrawn := true }] } }

/-- The unit's answer waits for room as frame 5. -/
def answering (store : Bool) (opened : Option SessionId) (restart : Bool) : State :=
  let s := entering (frame 5)
  { s with
    mgmt := { s.mgmt with current := some { req := request 0x50 [], stage := .replying 5 [7] store opened restart } },
    ret := { s1 := Session.initial, s2 := { Session.initial with state := .fetching, reading := true } } }

/-- A frame of session 2 waits for room, with two records in its buffer. -/
def placing (x : Session) : State :=
  let s := entering { who := .session .two, serial := 5, bytes := [] }
  { s with ret := { s1 := Session.initial, s2 := { x with buffer := [longRecord 1, longRecord 2] } } }

/-- A data frame of one record is offered with the last credit. -/
def placingData : State :=
  placing { Session.initial with state := .delivering, replySeen := true, credit := 1, offered := .data 1 1 }

/-- An end frame is offered. -/
def placingEnd : State := placing { Session.initial with state := .ending, replySeen := true, offered := .endFrame }

theorem witness_RelayQueuesAndTheTransmitterMove_3 :
    (∀ s ∈ [answering true none false, answering false (some .two) false, answering true none true, placingData, placingEnd],
      (s.port .a).tx ≠ none ∧ (s.port .a).up = true ∧ (s.port .a).waiting.length = 2 ∧ (s.port .a).localQ.length = 4
        ∧ (s.port .a).relayQ = [] ∧ s.mgmt.queue = [])
      ∧ ((answering false (some .two) false).session .two).state = .fetching
      ∧ ((placingData.session .two).port = .a ∧ (placingData.session .two).offered = .data 1 1
        ∧ (placingData.session .two).credit = 1 ∧ (placingData.session .two).buffer.drop 1 ≠ [])
      ∧ ((placingEnd.session .two).port = .a ∧ (placingEnd.session .two).offered = .endFrame
        ∧ (placingEnd.session .two).state = .ending ∧ (placingEnd.session .two).reading = false
        ∧ (placingEnd.session .two).endReason = none) := by
  decide +kernel

/-- The unit's answer, frame 5 at Port A, has been discarded; session 2 of recording 7 may be the one that it opened. -/
def unanswered (reading : Bool) (opened : Option SessionId) (queue : List Request) : State := { ready with
  raised := { ready.raised with endings := [{ port := .a, who := .mgmt, serial := 5, transmitted := false }] },
  mgmt := { ready.mgmt with
    current := some { req := request 0x50 [], stage := .replying 5 [7] true opened false }, queue := queue },
  dir := { entries := [{ entry 7 .kept with sessions := 2 }, entry 8 .kept], nextNumber := 9 },
  ret := { s1 := Session.initial, s2 := { Session.initial with state := .fetching, source := 7, reading := reading } } }

theorem witness_WithdrawalsAndEndingsAreTaken_4 :
    let e (sent : Bool) : Ending := { port := .a, who := .mgmt, serial := 5, transmitted := sent }
    let old : State := { unanswered true none [] with
      raised := { ready.raised with endings := [{ e true with serial := 4 }] } }
    (∀ s ∈ [unanswered true none [], unanswered true (some .two) [], unanswered false (some .two) [request 0x36 [0, 7]]],
      Oldest (fun y : Ending => y.port = .a ∧ y.who = .mgmt) s.raised.endings [] (e false) [] ∧ NoStop s ∧ LogQuiet s
        ∧ sessionOpen (s.session .two) = true ∧ (s.session .two).offered = .none
        ∧ s.mgmt.managers = [] ∧ s.seqr.part = .ready)
      ∧ paramLength 0x36 = some (request 0x36 [0, 7]).params.length
      ∧ Oldest (fun y : Ending => y.port = .a ∧ y.who = .mgmt) old.raised.endings [] { e true with serial := 4 } []
      ∧ (NoStop old ∧ LogQuiet old ∧ ∀ c ∈ old.mgmt.current, c.stage ≠ .restartWait 4) := by
  decide +kernel

/-! ### Witnesses: what a session reads -/

/-- A page of the given records, flawless but for its data check and its mark. -/
def recordPage (recs : List Record) (mark : CommitMark) (flaw : BitVec 16) : Page :=
  { logPage 1 with
    mark := mark, dataFlaw := flaw,
    header := { (logPage 1).header with firstSeq := (recs.head?).elim 0 Record.seq, count := recs.length },
    data := .log recs }

/-- A listed block with its first sequence. -/
def listed (st : BlockState) (n : Nat) : BlockEntry := { state := st, hold := 1, firstSeq := some n, firstPage := some n }

/-- Session 2 with its read of page `p` of block `b` running, over a ring of blocks 6, 7 and 1023 from sequences 2, 10 and
20 up to 25; recording 7 lists blocks 5, 6, 7 and 1022, the first without a first sequence. -/
def readingRing (x : Session) (b p : Nat) (page : Option Page) : State :=
  let s := running ready (.session .two) (.read b p)
  { s with
    ret := { s1 := Session.initial, s2 := { x with
      state := .fetching, reading := true, replySeen := true, block := some b, page := p } },
    store := (page.map (fun g => (16 * b + p, g))).toList,
    dir := {
      entries := [{ entry 7 .kept with first := 1, last := some 30, blocks := [5, 6, 7, 1022], sessions := 1 }],
      nextNumber := 8 },
    log := { LogManager.initial with
      history := [6, 7], active := some 1023, nextPage := 4, lastCommitted := 25,
      table := [(6, listed .filled 2), (7, listed .filled 10), (1023, listed .active 20)] } }

/-- Session 2 on the live ring, or on recording 7, its next sequence `n` and its credit `k`. -/
def live (n k : Nat) (follow : Bool) : Session :=
  { Session.initial with nextSeq := n, point := n, credit := k, station := 17, follow := follow }

def ofSeven (n k pos : Nat) : Session :=
  { Session.initial with
    source := 7, nextSeq := n, point := n, credit := k, station := 17, endPoint := some 30, listPos := pos }

/-- The session when the page it read gave no record. -/
def passed (s : State) (n : Nat) : Session :=
  let y := s.session .two
  { y with nextSeq := max y.nextSeq n, page := y.page + 1, reading := false }

theorem witness_SessionsTakeThePageTheyRead_2 :
    let long := readingRing (live 3 1 false) 6 4 (some (recordPage [longRecord 2, longRecord 3, longRecord 4] .present 0))
    let fits (k : Nat) := readingRing (live 3 k false) 6 4 (some (recordPage [longRecord 2, record3] .present 0))
    let sent (k : Nat) : Session := { passed (fits k) 4 with
      idleTimer := decide (k = 1), credit := k - 1, state := .delivering, delivered := 1, point := 4, buffer := [] }
    let corrupt := readingRing (live 8 0 false) 6 15 (some (recordPage [longRecord 8, longRecord 9] .present 1))
    let blank := readingRing (ofSeven 8 0 1) 6 15 none
    (∀ s ∈ [long, fits 1, fits 2, corrupt, blank],
      NoStop s ∧ LogQuiet (s.setArr { s.arr with running := none }) ∧ ArrayAlone s.arr ∧ s.seqr.part = .ready
        ∧ (s.session .two).state = .fetching ∧ (s.session .two).buffer = [] ∧ LocalRoom .a s
        ∧ isWaiting .a (.session .two) s = false)
      ∧ (recordsSize [longRecord 3] ≤ 235 ∧ 235 < recordsSize [longRecord 3] + recordSize (longRecord 4)
        ∧ (long.session .two).credit = 1)
      ∧ (∀ k ∈ [1, 2], FetchReads (fits k) (sent k) { sent k with block := some 6, page := 5, bound := 9 } 6 5)
      ∧ FetchReads corrupt (passed corrupt 10) { passed corrupt 10 with block := some 7, page := 0, bound := 19 } 7 0
      ∧ FetchReads blank (passed blank 0) { passed blank 0 with listPos := 2, block := some 7, page := 0 } 7 0 := by
  refine ⟨by decide +kernel, by decide +kernel, ?_, ?_, ?_⟩
  · intro k h
    simp only [List.mem_cons, List.not_mem_nil, or_false] at h
    rcases h with rfl | rfl <;>
      exact ⟨by decide, by decide, by decide, by decide, .inr ⟨rfl, by decide, 9, .inl ⟨by decide +kernel, rfl, rfl⟩⟩⟩
  · exact ⟨by decide, by decide, by decide, by decide, .inr ⟨rfl, by decide, 19, .inl ⟨by decide +kernel, rfl, rfl⟩⟩⟩
  · exact ⟨by decide, by decide, by decide, by decide, .inl ⟨by decide, by decide, _, 2, rfl,
      .inr ⟨1, 6, .inl (by decide +kernel), rfl, by decide, by decide +kernel, rfl, rfl⟩⟩⟩

/-- That read, with erase-ahead's erase of block 7 suspended under it. -/
def overErase (s : State) : State :=
  { s with arr := { s.arr with suspended := some { who := .eraseAhead, block := 7, count := 1, reached := 1 } } }

theorem witness_SessionsTakeThePageTheyRead_3 :
    let corrupt (x : Session) : State := readingRing x 6 15 (some (recordPage [longRecord 30] .present 1))
    let blank (x : Session) : State := readingRing x 6 15 none
    let erasing := overErase (readingRing (ofSeven 8 0 1) 6 15 none)
    let atEnd := readingRing (ofSeven 9 0 2) 7 15 none
    (∀ s ∈ [erasing, atEnd, corrupt (ofSeven 9 0 1), corrupt (live 9 0 false), corrupt (live 9 0 true),
        blank (live 1 0 false), blank { live 9 0 false with limit := 4, delivered := 4 }],
      NoStop s ∧ LogQuiet (s.setArr { s.arr with
          suspended := none, running := s.arr.suspended.map (fun z =>
            { who := z.who, req := .erase z.block, count := z.count, reached := z.reached }) })
        ∧ ArrayAlone { s.arr with suspended := none } ∧ s.seqr.part = .ready ∧ (s.session .two).buffer = []
        ∧ SessionClear .two (s.setSession .two (passed s 0)) ∧ LocalRoom .a s)
      ∧ FetchReads erasing (passed erasing 0) { passed erasing 0 with listPos := 2, block := some 7, page := 0 } 7 0
      ∧ FetchEnds atEnd (passed atEnd 0) .endOfData
      ∧ FetchEnds (corrupt (ofSeven 9 0 1)) (passed (corrupt (ofSeven 9 0 1)) 31) .complete
      ∧ FetchEnds (corrupt (live 9 0 false)) (passed (corrupt (live 9 0 false)) 31) .endOfData
      ∧ FetchEnds (blank { live 9 0 false with limit := 4, delivered := 4 })
          (passed (blank { live 9 0 false with limit := 4, delivered := 4 }) 0) .complete
      ∧ FetchEnds (blank (live 1 0 false)) (passed (blank (live 1 0 false)) 0) .overtaken
      ∧ 25 < (passed (corrupt (live 9 0 true)) 31).nextSeq :=
  ⟨by decide +kernel,
    ⟨by decide, by decide, by decide, by decide, .inl ⟨by decide, by decide, _, 2, rfl,
      .inr ⟨1, 6, .inl (by decide +kernel), rfl, by decide, by decide +kernel, rfl, rfl⟩⟩⟩,
    .inr ⟨by decide, .inr (.inr ⟨rfl, by decide, by decide, by decide, _, 7, rfl,
      .inr ⟨by decide +kernel, rfl, rfl, by decide +kernel⟩, rfl, by decide +kernel⟩)⟩,
    .inl ⟨rfl, .inr rfl, .inr ⟨by decide, by decide +kernel⟩⟩,
    .inr ⟨by decide, .inl ⟨rfl, rfl, rfl, by decide +kernel⟩⟩, .inl ⟨rfl, .inl rfl, .inl ⟨by decide, by decide⟩⟩,
    .inr ⟨by decide, .inr (.inl ⟨rfl, rfl, by decide +kernel⟩)⟩, by decide +kernel⟩

/-- Locate and the cursor over that ring and list. -/
theorem witness_SessionsTakeThePageTheyRead_4 :
    let l := (readingRing (live 8 0 false) 6 15 none).log
    let first (b : Nat) : Option Nat := (blockEntry l b).firstSeq
    (l.lastCommitted < 26 ∧ (∀ b ∈ [6, 7, 1023], 1 < (first b).getD 0) ∧ [6, 7, 1023].Nodup ∧ l.history = [6, 7]
        ∧ l.active = some 1023 ∧ first 1023 = some 20)
      ∧ (first 6 = some 2 ∧ first 7 = some 10 ∧ first 5 = none ∧ first 1022 = none) := by
  decide +kernel

/-! ### Witnesses: what a log commit brings -/

/-- The Log Writer's program of page 15 of block 1023 running, whose record is the last one, 3, of the CLOSING recording,
with the Journal Writer serving another job or IDLE; session 2 waits in FOLLOWING for sequence `n`. -/
def closingLog (idle : Bool) (n : Nat) : State :=
  let s := logging 15
  { s with
    ctl := { s.ctl with state := .closing, target := some .running },
    dir := { entries := [entry 6 .kept, openRec .closing (some 3) .capturing], nextNumber := 8 },
    jrnl := if idle then { s.jrnl with cur := some 1, nextPage := 15 } else (writing s).jrnl,
    ret := { s1 := Session.initial, s2 := { Session.initial with
      state := .following, follow := true, nextSeq := n, block := some 1023, page := 15 } } }

/-- That state once the page has been committed. -/
def committedLog (s : State) : State := { s with
  store := setPage s.store 1023 15 (some { logPage 3 with data := .log [record3] }),
  arr := { s.arr with running := none },
  packer := setBuf s.packer { state := .empty, recs := [], run := 0 } .sb0,
  log := { setBlockEntry s.log 1023
      { blockEntry s.log 1023 with firstSeq := some 3, firstPage := some (logPage 3).header.pageSeq } with
    nextPage := 16, lastCommitted := 3, resumedPending := false, pagesCommitted := 1 } }

/-- The KEPT snapshot is asked of the writer, which serves another job. -/
theorem log_kept_due : ∃ v, KeptLooked (committedLog (closingLog false 4)) v :=
  ⟨_, .inr ⟨openRec .closing (some 3) .capturing, 3, rfl, rfl, rfl, rfl, nofun, rfl, by decide, rfl, nofun,
    .inl ⟨nofun, rfl⟩⟩⟩

/-- The KEPT snapshot is asked of an IDLE writer, which appends its page. -/
theorem log_kept_due_idle : ∃ v, KeptLooked (committedLog (closingLog true 4)) v :=
  ⟨_, .inr ⟨openRec .closing (some 3) .capturing, 3, rfl, rfl, rfl, rfl, nofun, rfl, by decide, rfl, nofun,
    .inr ⟨rfl, rfl, rfl, by decide +kernel, by decide, .kept 7, [], rfl, nofun, nofun, .inl ⟨1, _, rfl, by decide, by decide,
      .inr (.inr ⟨openRec .closing (some 3) .capturing, .kept, _, rfl, rfl, .inr (.inl ⟨rfl, rfl, rfl⟩)⟩), rfl⟩⟩⟩⟩

/-- Session 2 is woken: it goes on at the cursor's page, in the block that Locate names. -/
theorem follower_reads : let s := closingLog false 3
    let y : Session := { s.session .two with bound := 3 }
    FetchReads (committedLog s) (s.session .two) y 1023 15
      ∧ ∃ v, KeptLooked (readOut .two y 1023 15 (committedLog s)) v :=
  ⟨⟨by decide, by decide, by decide, by decide, .inr ⟨rfl, by decide, 3, .inl ⟨by decide +kernel, rfl, rfl⟩⟩⟩,
    _, .inr ⟨openRec .closing (some 3) .capturing, 3, rfl, rfl, rfl, rfl, nofun, rfl, by decide, rfl, nofun,
      .inl ⟨nofun, rfl⟩⟩⟩

theorem witness_LogPagesCommitOrAreTriedAgain_2 :
    let x : Running :=
      { who := .logWriter, req := .program 1023 15 (logPage 3).header (.log [record3]), count := 0, reached := 0 }
    (∀ s ∈ [closingLog false 4, closingLog true 4, closingLog false 3],
      s.arr.running = some x ∧ ArrayAlone s.arr ∧ NoStop s ∧ s.seqr.part = .ready ∧ pageAt s.store 1023 15 = none
        ∧ (getBuf s.packer .sb0).state = .writing ∧ (getBuf s.packer .sb1).state ≠ .writing ∧ s.packer.fullOrder = []
        ∧ s.packer.slot = [] ∧ (s.session .one).state ≠ .following)
      ∧ ((logPage 3).header.firstSeq + (logPage 3).header.count - 1 = 3
        ∧ ((closingLog false 3).session .two).state = .following ∧ ((closingLog false 3).session .two).source = 0)
      ∧ (∃ v, KeptLooked (committedLog (closingLog false 4)) v) ∧ (∃ v, KeptLooked (committedLog (closingLog true 4)) v)
      ∧ ∃ y c q, FetchReads (committedLog (closingLog false 3)) ((closingLog false 3).session .two) y c q :=
  ⟨by decide +kernel, by decide +kernel, log_kept_due, log_kept_due_idle, _, _, _, follower_reads.1⟩

/-! ### Witnesses: what a journal page brings -/

/-- The append of the head of the given jobs on page `p` of block 1 running, over a CLOSING recording 7 whose last record,
9, has committed, and over a FILLING buffer. -/
def appendingAt (p : Nat) (e : Entry) (page : JournalPage) (jobs : List Job) : State :=
  running { nearlyFull ready .empty with
      dir := { entries := [e], nextNumber := 8 },
      log := { ready.log with lastCommitted := 9, capturingRec := 7, retired := [207] },
      ctl := { ready.ctl with state := .closing, target := some .running, lastRun := 3 },
      jrnl := { ready.jrnl with cur := some 1, nextPage := p, state := .appending, jobs := jobs } } .journal
    (.program 1 p { (logPage 3).header with kind := .journal } (.journal page))

/-- The CAPTURING snapshot of the CLOSING recording, which comes to commit last. -/
def lateCapturing (p : Nat) : State :=
  let e := openRec .closing (some 9) .none
  appendingAt p e (snapshotPage e .capturing) [.capturing 7 [4]]

/-- The state with that snapshot committed and the KEPT snapshot asked for. -/
def lateCommitted (p : Nat) : State :=
  let s := lateCapturing p
  let e := openRec .closing (some 9) .none
  { s with
    store := setPage s.store 1 p (some { logPage 3 with
      header := { (logPage 3).header with kind := .journal }
      data := .journal (snapshotPage e .capturing) }),
    arr := { s.arr with running := none },
    dir := { s.dir with entries := [{ e with journaled := .capturing }] },
    jrnl := { s.jrnl with
      nextPage := p + 1, state := .idle, jobs := [.kept 7], comp := Compaction.initial, profStep := 0 },
    ctl := { s.ctl with keptAsked := true },
    raised := { s.raised with events := s.raised.events ++ [(.controller, .triggered 7 .forced false 3 5 1)] } }

/-- The KEPT snapshot follows on the next page, or behind a compaction. -/
theorem kept_follows : (∃ v, HeadServed (lateCommitted 14) v) ∧ ∃ v, HeadServed (lateCommitted 15) v :=
  ⟨⟨_, rfl, rfl, by decide +kernel, by decide, .kept 7, [], rfl, nofun, nofun, .inl ⟨1, _, rfl, by decide, by decide,
      .inr (.inr ⟨{ openRec .closing (some 9) .none with journaled := .capturing }, .kept, _, rfl, rfl,
        .inr (.inl ⟨rfl, rfl, rfl⟩)⟩), rfl⟩⟩,
    ⟨_, rfl, rfl, by decide +kernel, by decide, .kept 7, [], rfl, nofun, nofun,
      .inr ⟨.inr ⟨⟨1, rfl, by decide⟩, by decide⟩, rfl⟩⟩⟩

/-- The KEPT snapshot of the CLOSING recording, re-arm and target as given. -/
def keptCommits (rearm : Bool) (target : CloseTarget) : State :=
  let e := openRec .closing (some 9) .capturing
  let s := appendingAt 15 e (snapshotPage e .kept) [.kept 7]
  { s with ctl := { s.ctl with target := some target, settings := { s.ctl.settings with rearm := rearm } } }

/-- The Retired List's page, with the given jobs behind it. -/
def listCommits (p : Nat) (rest : List Job) : State :=
  appendingAt p (entry 7 .kept) { role := .append, nextNumber := 8, record := .retiredList [207] } (.retiredList true :: rest)

/-- The writer IDLE behind page `p`, with the given jobs. -/
def idleBehind (p : Nat) (s : State) (jobs : List Job) : State := { s with
  arr := { s.arr with running := none },
  jrnl := { s.jrnl with nextPage := p + 1, state := .idle, jobs := jobs, comp := Compaction.initial, profStep := 0 } }

theorem witness_JournalCommitsAreReported_2 :
    (∀ s ∈ [lateCapturing 14, lateCapturing 15, keptCommits false .running, keptCommits true .stopped,
        listCommits 15 [.retiredList true], listCommits 14 [.retiredList true, .retiredList false], listCommits 14 []],
      s.jrnl.state = .appending ∧ s.jrnl.nextPage ≤ 15 ∧ ArrayAlone s.arr ∧ NoStop s
        ∧ LogQuiet (s.setArr { s.arr with running := none }) ∧ pageAt s.store 1 s.jrnl.nextPage = none)
      ∧ ((lateCapturing 14).ctl.keptAsked = false ∧ (lateCapturing 14).jrnl.usable = true)
      ∧ ((∃ v, HeadServed (lateCommitted 14) v) ∧ ∃ v, HeadServed (lateCommitted 15) v)
      ∧ (∃ u, StopPlaced .singleShot (keptCommits false .running) u)
      ∧ (∃ v, HeadServed (idleBehind 14 (listCommits 14 []) [.retiredList false]) v)
      ∧ ∀ p ∈ [14, 15], ∃ v, HeadServed { listCommits p [] with
          arr := ready.arr, jrnl := { (listCommits p []).jrnl with nextPage := p + 1, dirFailures := 1 } } v := by
  refine ⟨by decide +kernel, by decide +kernel, kept_follows, ⟨_, .inl ⟨.sb0, by decide +kernel, by decide +kernel, rfl⟩⟩,
    ⟨_, rfl, rfl, by decide +kernel, by decide, .retiredList false, [], rfl, nofun, nofun,
      .inl ⟨1, _, rfl, by decide, by decide, .inr (.inl ⟨false, rfl, rfl⟩), rfl⟩⟩, ?_⟩
  intro p h
  simp only [List.mem_cons, List.not_mem_nil, or_false] at h
  rcases h with rfl | rfl
  · exact ⟨_, rfl, rfl, by decide +kernel, by decide, .retiredList true, [], rfl, nofun, nofun,
      .inl ⟨1, _, rfl, by decide, by decide, .inr (.inl ⟨true, rfl, rfl⟩), rfl⟩⟩
  · exact ⟨_, rfl, rfl, by decide +kernel, by decide, .retiredList true, [], rfl, nofun, nofun,
      .inr ⟨.inr ⟨⟨1, rfl, by decide⟩, by decide⟩, rfl⟩⟩

/-! ### Witnesses: blocks of long and closing recordings -/

/-- That state with recording 9 as given, capture in the given state with a posting timer, and the newest record that has
committed; the Journal Writer serves another job. -/
def blockFullOf (e : Entry) (st : CaptureState) (newest : Nat) : State :=
  let s := writing (blockFull 9)
  { s with
    dir := { entries := [entry 8 .kept, e], nextNumber := 10 },
    log := { s.log with lastCommitted := newest },
    ctl := { s.ctl with state := st, target := if st = .closing then some .running else none, postTimer := some 50 } }

/-- Recording 9 in POSTING, over 78 blocks, in the journal or not. -/
def long9 (j : Journaled) : Entry :=
  { openRec .capturing none j with num := 9, blocks := List.range' 100 78 }

/-- Recording 9 in CLOSING, its last record 9, over a number of blocks. -/
def closing9 (n : Nat) : Entry := { openRec .closing (some 9) .capturing with num := 9, blocks := List.range' 100 n }

/-- That state once block 4 has been begun. -/
def begunBlock (s : State) : LogManager :=
  let left : LogManager := { setBlockEntry s.log 1023 { blockEntry s.log 1023 with state := .filled } with
    history := s.log.history ++ [1023] }
  { setBlockEntry left 4 { blockEntry left 4 with state := .active } with
    active := some 4, nextPage := 0, failing := false, ringPos := 4, ahead := .none }

/-- Recording 9 has taken the block, its 79th. -/
def entered9 (j : Journaled) (newest : Nat) : State :=
  let s := blockFullOf (long9 j) .posting newest
  { s with
    log := raiseHold (begunBlock s) 4,
    dir := { s.dir with entries := [entry 8 .kept, { long9 j with blocks := (long9 j).blocks ++ [4] }] } }

/-- Without its CAPTURING snapshot in the journal, recording 9 is not yet due. -/
theorem long_not_due :
    let last := lastAtEnd (blockFullOf (long9 .none) .posting 9) (long9 .none)
    let e := { long9 .none with blocks := (long9 .none).blocks ++ [4] }
    PostingEnded .length e last (entered9 .none 9) (postingClosed .length e last (entered9 .none 9)) :=
  kept_not_journaled _ (by intro e h; cases h; rfl)

theorem witness_BlockChangesTakeThePreparedBlock_2 :
    (∀ s ∈ [blockFullOf (long9 .none) .posting 9, blockFullOf (long9 .capturing) .posting 9, blockFullOf (closing9 79) .closing 8,
        blockFullOf (closing9 80) .closing 8, blockFullOf (closing9 1) .closing 9],
      s.seqr.part = .ready ∧ inFault s.log = false ∧ NoStop s ∧ s.arr.running = none ∧ ArrayAlone s.arr
        ∧ bufIn s.packer .writing = none ∧ s.packer.fullOrder = .sb0 :: [] ∧ (getBuf s.packer .sb0).state = .full
        ∧ s.log.ahead = .prepared 4 ∧ 15 < s.log.nextPage ∧ s.log.failing = false ∧ s.log.active = some 1023
        ∧ s.log.nextPageSeq < 281474976710655 ∧ s.log.capturingRec = 9 ∧ s.ctl.keptAsked = false)
      ∧ (∀ j ∈ [Journaled.none, .capturing], let s := blockFullOf (long9 j) .posting 9
        findEntry s.dir 9 = some (long9 j) ∧ OpenAlone s.dir (long9 j) ∧ 4 ∉ (long9 j).blocks
          ∧ (long9 j).blocks.length = 78)
      ∧ (∀ n ∈ [1, 79, 80], findEntry (blockFullOf (closing9 n) .closing 8).dir 9 = some (closing9 n)
        ∧ 4 ∉ (closing9 n).blocks)
      ∧ (∃ u, u.arr = ready.arr ∧ PostingEnded .length { long9 .none with blocks := (long9 .none).blocks ++ [4] }
          (lastAtEnd (blockFullOf (long9 .none) .posting 9) (long9 .none)) (entered9 .none 9) u)
      ∧ ∃ u, u.arr = ready.arr ∧ PostingEnded .length { long9 .capturing with blocks := (long9 .capturing).blocks ++ [4] }
          (lastAtEnd (blockFullOf (long9 .capturing) .posting 9) (long9 .capturing)) (entered9 .capturing 9) u := by
  refine ⟨by decide +kernel, by decide +kernel, by decide +kernel, ⟨_, ?_, long_not_due⟩,
    ⟨_, ?_, .inr ⟨{ long9 .capturing with
      state := .closing, last := some 2, reason := some .length, blocks := (long9 .capturing).blocks ++ [4] }, 2, rfl, rfl,
      rfl, rfl, nofun, rfl, by decide, rfl, nofun, .inl ⟨nofun, rfl⟩⟩⟩⟩
  · rfl
  · rfl

/-! ### Witnesses: busy units and answers without room -/

/-- READY, with the unit busy with the given request of station 17, and one entry of that station in the Reply Cache. -/
def busyWith (q : Request) (code : Byte) (tag : Nat) : State := { ready with mgmt := { ready.mgmt with
  current := some { req := q, stage := .handed },
  cache := [{ station := 17, code := code, tag := tag, bytes := [1] }] } }

/-- The local queue of Port B is full, or the port DOWN. -/
def withoutPlace (up : Bool) (s : State) : State := { s with portB :=
  if up then { s.portB with localQ := [frame 1, frame 2, frame 3, frame 4], tx := some { bytes := [1], origin := none } }
  else PortState.initial }

theorem witness_ArrivalsAreDiscardedJoinedOrBegun_2 :
    let own (code : Byte) (ps : Bytes) : Bytes := [250, 17, 124, 0, 3 + BitVec.ofNat 8 ps.length, code, 0, 7] ++ ps ++ [0, 0]
    let held (q : Request) (code : Byte) : Prop := q.src = 17 ∧ q.tag = 7 ∧ q.code = code ∧ q.broadcast = false
    let other : Request := request 0x37 [0, 8]
    let denying (s : State) : State := { s with mgmt := { s.mgmt with managers := [18] } }
    let mounting (s : State) : State := { s with seqr := { s.seqr with part := .mounting } }
    (∀ s ∈ [busyWith other 0x36 8, busyWith other 0x37 7],
      Oldest (fun y : Port × Bytes => y.1 = .b) (arriving (own 0x36 [0, 41]) s).raised.requests [(.a, [1])]
          (.b, own 0x36 [0, 41]) []
        ∧ s.mgmt.queue = [] ∧ s.mgmt.current ≠ none ∧ (∀ c ∈ s.mgmt.current, ¬ held c.req 0x36)
        ∧ ∀ x ∈ s.mgmt.cache, ¬ (x.station = 17 ∧ x.code = 0x36 ∧ x.tag = 7))
      ∧ (let s := busyWith other 0x36 7
        s.mgmt.cache = [{ station := 17, code := 0x36, tag := 7, bytes := [1] }] ∧ s.mgmt.queue.length < 4
          ∧ ¬ held other 0x36)
      ∧ (let s := { busyWith other 0x36 8 with mgmt := { (busyWith other 0x36 8).mgmt with current := none } }
        s.mgmt.queue = [] ∧ s.mgmt.current = none ∧ ∀ x ∈ s.mgmt.cache, ¬ (x.station = 17 ∧ x.code = 0x36 ∧ x.tag = 7))
      ∧ ((withoutPlace true ready).port .b).up = true ∧ 4 ≤ ((withoutPlace true ready).port .b).localQ.length
      ∧ ((withoutPlace false ready).port .b).up = false
      ∧ ((denying (withoutPlace true ready)).mgmt.managers ≠ [] ∧ (17 : Byte) ∉ (denying ready).mgmt.managers)
      ∧ (mounting (withoutPlace false ready)).seqr.part = .mounting ∧ paramLength 0xFF = none
      ∧ paramLength 0x36 = some 2 := by
  decide +kernel

/-! ### Witnesses: opened sessions -/

/-- READY over the ring of blocks 6, 7 and 1023, with recording 7 over its list, slot 1 in use or FREE and slot 2 FREE. -/
def openable (busy : Bool) : State := { readingRing Session.initial 6 15 none with
  arr := ready.arr,
  ret := { s1 := { Session.initial with state := if busy then .ending else .free }, s2 := Session.initial } }

/-- The slot of a session that station 17 opens over Port A, FETCHING at its first sequence, with limit 0. -/
def slotOf (source first : Nat) (follow : Bool) (credit : Nat) : Session :=
  { Session.initial with
    station := 17, source := source, follow := follow, credit := credit, idleTimer := decide (credit = 0), replySeen := true,
    point := first, nextSeq := first }

theorem witness_SessionsAreOpenedOrRefused_2 :
    let seven : Session := { slotOf 7 12 false 0 with endPoint := some 30, block := some 5 }
    (∀ ps ∈ [openPs 7 12 0 0, openPs 7 31 0 0, openPs 0 12 1 1, openPs 0 0 0 1, openPs 0 1 0 0, openPs 0 26 1 0,
        openPs 0 26 0 0, openPs 0 27 1 0], ∀ b ∈ [false, true],
      Handed 0x50 (request 0x50 ps) (asked (openable b) 0x50 ps)
        ∧ ReplyRoom (request 0x50 ps) (asked (openable b) 0x50 ps))
      ∧ ((openable true).ret.s1.state ≠ .free ∧ (openable true).ret.s2.state = .free ∧ (openable false).ret.s1.state = .free
        ∧ (openable true).arr.running = none ∧ ArrayAlone (openable true).arr ∧ (openable true).seqr.part = .ready)
      ∧ FetchReads (openable true) seven { seven with listPos := 2, block := some 7, page := 0 } 7 0
      ∧ FetchReads (openable true) (slotOf 0 12 true 1)
          { slotOf 0 12 true 1 with block := some 7, page := 0, bound := 19 } 7 0
      ∧ FetchReads (openable true) (slotOf 0 2 false 1) { slotOf 0 2 false 1 with block := some 6, page := 0, bound := 9 } 6 0
      ∧ (locate (openable true).log 12 = .block 7 19 ∧ locate (openable true).log 1 = .notAvailable
        ∧ locate (openable true).log 26 = .beyond ∧ locate (openable true).log 27 = .beyond
        ∧ listedBlocks (openable true).log = [6, 7, 1023] ∧ (blockEntry (openable true).log 6).firstSeq = some 2
        ∧ (openable true).log.lastCommitted = 25) :=
  ⟨by decide +kernel, by decide +kernel,
    ⟨by decide, by decide, by decide, by decide, .inl ⟨by decide, by decide, _, 2, rfl,
      .inl ⟨.inl (by decide +kernel), by decide, rfl⟩⟩⟩,
    ⟨by decide, by decide, by decide, by decide, .inr ⟨rfl, by decide, 19, .inl ⟨by decide +kernel, by decide, rfl⟩⟩⟩,
    ⟨by decide, by decide, by decide, by decide, .inr ⟨rfl, by decide, 9, .inl ⟨by decide +kernel, by decide, rfl⟩⟩⟩,
    by decide +kernel⟩

/-- STOPPED over a nearly full buffer, SB1 in the given state, and the same with SB0 closed by the next record. -/
def starting (st1 : BufState) : State := asked { nearlyFull capturing st1 with ctl := ready.ctl } 0x31 []

def startingWide (st1 : BufState) : State :=
  let s := starting st1
  { s with packer := { s.packer with sb0 := { s.packer.sb0 with recs := s.packer.sb0.recs ++ [longRecord 5] } } }

theorem witness_CaptureStartsAndStops_3 :
    (∀ s ∈ [asked ready 0x31 [], starting .empty, startingWide .empty, startingWide .writing],
      Handed 0x31 (request 0x31 []) s ∧ ReplyRoom (request 0x31 []) s ∧ inFault s.log = false ∧ s.ctl.state = .stopped)
      ∧ (∃ v, RunBegun 1 (asked ready 0x31 []) v ∧ LogQuiet v) ∧ (∃ v, RunBegun 5 (starting .empty) v)
      ∧ (∃ v, RunBegun 6 (startingWide .empty) v ∧ LogQuiet v) ∧ ∃ v, RunBegun 6 (startingWide .writing) v ∧ LogQuiet v :=
  ⟨by decide +kernel,
    ⟨_, ⟨rfl, rfl, rfl, by decide, .inr ⟨ready.packer, .inl ⟨rfl, rfl⟩, rfl, .inl ⟨.sb0, rfl, rfl⟩⟩⟩, by decide +kernel⟩,
    ⟨_, ⟨rfl, rfl, rfl, by decide +kernel, .inl ⟨.sb0, rfl, by decide +kernel, rfl, rfl⟩⟩⟩,
    ⟨_, ⟨rfl, rfl, rfl, by decide +kernel, .inr ⟨withoutRoom (startingWide .empty), .inr ⟨.sb0, rfl, by decide +kernel, rfl⟩,
      rfl, .inl ⟨.sb1, rfl, rfl⟩⟩⟩, by decide +kernel⟩,
    ⟨_, ⟨rfl, rfl, rfl, by decide +kernel, .inr ⟨withoutRoom (startingWide .writing), .inr ⟨.sb0, rfl, by decide +kernel, rfl⟩,
      rfl, .inr ⟨rfl, rfl⟩⟩⟩, by decide +kernel⟩⟩

/-! ### Witnesses: other recordings beside, openings by SET_TIME -/

/-- The append's state, with recordings 5 and 6 beside the one of the page. -/
def beside (s : State) : State :=
  { s with dir := { s.dir with entries := { entry 6 .kept with sessions := 1 } :: s.dir.entries ++ [entry 5 .frozen] } }

theorem witness_JournalCommitsAreReported_3 :
    (let e := openRec .closing (some 9) .none
      ∀ s ∈ [beside (lateCapturing 14), beside { lateCapturing 14 with log := { ready.log with lastCommitted := 8 } }],
        findEntry s.dir 7 = some e ∧ OpenAlone s.dir e)
      ∧ (∀ s ∈ [beside (keptCommits true .running), beside (keptCommits false .running), beside (keptCommits true .stopped)],
        findEntry s.dir 7 = some (openRec .closing (some 9) .capturing)
          ∧ ∀ y ∈ s.dir.entries, y.num = 7 → y = openRec .closing (some 9) .capturing)
      ∧ (let s := beside (appendingAt 15 (entry 7 .kept) (snapshotPage (entry 7 .kept) .frozen) [.frozen 7])
        findEntry s.dir 7 = some (entry 7 .kept) ∧ ∀ y ∈ s.dir.entries, y.num = 7 → y = entry 7 .kept)
      ∧ ∃ v, HeadServed (beside (lateCommitted 14)) v := by
  refine ⟨by decide +kernel, by decide +kernel, by decide +kernel, ?_⟩
  exact ⟨_, rfl, rfl, by decide +kernel, by decide, .kept 7, [], rfl, nofun, nofun, .inl ⟨1, _, rfl, by decide, by decide,
      .inr (.inr ⟨{ openRec .closing (some 9) .none with journaled := .capturing }, .kept, _, rfl, rfl,
        .inr (.inl ⟨rfl, rfl, rfl⟩)⟩), rfl⟩⟩

/-- SET_TIME to 9 with the gate OPEN: `n` is Next Record Sequence, SB0 nearly full or EMPTY. -/
def timeOver (full : Bool) (st1 : BufState) (n : Nat) : State :=
  let s := if full then startingWide st1 else { starting st1 with packer := { (starting st1).packer with
    sb0 := { state := .empty, recs := [], run := 1 } } }
  { s with
    ctl := { s.ctl with state := .running, lastRun := 3 },
    packer := { s.packer with nextSeq := n },
    mgmt := { s.mgmt with current := some { req := request 0x21 [0, 0, 0, 9], stage := .handed } } }

/-- The Packer once a TIME_SET record of sequence `n` has opened a buffer. -/
def timePlaced (s : State) (m : Packer) (j : BufId) (n : Nat) : Packer :=
  { openedWith s.ctl.settings.flush j [{ seq := n, time := 9, body := .timeSet s.packer.timeBase 9 }] m with timeBase := 9 }

/-- The state in which the last sequence but one has been taken by an opening. -/
def timeEnds : State :=
  let s := timeOver true .empty 281474976710653
  let q := timePlaced s (withoutRoom s) .sb1 281474976710654
  s.setPacker { q with tallyCount := 0, tallyFirst := 0, tallyLast := 0 }

theorem witness_TimeIsSetWithARecord_3 :
    (∀ s ∈ [timeOver true .empty 6, timeOver false .full 6, timeOver true .writing 6, timeOver true .empty 281474976710653,
        timeOver true .empty 281474976710654, timeOver false .full 281474976710655],
      Handed 0x21 (request 0x21 [0, 0, 0, 9]) s ∧ ReplyRoom (request 0x21 [0, 0, 0, 9]) s ∧ s.packer.gateOpen = true
        ∧ s.packer.slot = [] ∧ (lossGap s.packer).length = 1 ∧ s.ctl.state = .running)
      ∧ (let s := timeOver true .empty 6
        NoRoomFor s.packer 22 (withoutRoom s) ∧ bufIn (withoutRoom s) .empty = some .sb1
          ∧ (timePlaced s (withoutRoom s) .sb1 7).nextSeq = 8
          ∧ LogQuiet (s.setPacker (timePlaced s (withoutRoom s) .sb1 7)))
      ∧ (let s := timeOver false .full 6
        NoRoomFor s.packer 22 s.packer ∧ bufIn s.packer .empty = some .sb0 ∧ (timePlaced s s.packer .sb0 7).nextSeq = 8
          ∧ LogQuiet (s.setPacker (timePlaced s s.packer .sb0 7)))
      ∧ (let s := timeOver true .writing 6
        NoRoomFor s.packer 22 (withoutRoom s) ∧ bufIn (withoutRoom s) .empty = none)
      ∧ (∃ u, StopPlaced .sequenceEnd timeEnds u ∧ LogQuiet (timeEnds.setPacker u))
      ∧ NoRoomFor (timeOver true .empty 281474976710654).packer 22 (withoutRoom (timeOver true .empty 281474976710654)) :=
  ⟨by decide +kernel, ⟨.inr ⟨.sb0, by decide +kernel, by decide +kernel, rfl⟩, by decide +kernel⟩,
    ⟨.inl ⟨by decide +kernel, rfl⟩, by decide +kernel⟩,
    ⟨.inr ⟨.sb0, by decide +kernel, by decide +kernel, rfl⟩, by decide +kernel⟩,
    ⟨_, .inl ⟨.sb1, by decide +kernel, by decide +kernel, rfl⟩, by decide +kernel⟩,
    .inr ⟨.sb0, by decide +kernel, by decide +kernel, rfl⟩⟩

/-! ### Witnesses: frames behind a withdrawn one, and the next notice -/

/-- Port A with its local queue full, with room, or DOWN. -/
def localPlaces : Option Bool → PortState → PortState
  | some true, x => { x with tx := some { bytes := [1], origin := none }, localQ := [frame 1, frame 2, frame 3, frame 4] }
  | some false, x => x
  | none, x => { x with up := false }

/-- A withdrawn frame of the given producer waits at Port A behind one of the Management Unit. -/
def withdrawing (who : Producer) (room : Option Bool) (s : State) : State := { s with portA :=
  { localPlaces room s.portA with waiting :=
    [{ frame := frame 5, withdrawn := false }, { frame := { frame 6 with who := who }, withdrawn := true }] } }

/-- Session 2 has ended with its data frame waiting. -/
def endedWaiting (room : Option Bool) (reading : Bool) : State :=
  withdrawing (.session .two) room { ready with ret := { s1 := Session.initial, s2 := { Session.initial with
    state := .ending, station := 17, replySeen := true, reading := reading, endReason := some .closed,
    offered := .data 1 1 } } }

/-- A head notice is held back behind the withdrawn frame of its predecessor. -/
def heldBehind (room : Option Bool) : State :=
  withdrawing .notice room (let s := noticing 1 2 .queued; { s with notice := { s.notice with frame := none } })

/-- The state with the withdrawn frame gone. -/
def unblocked (s : State) : State := s.setPort .a { s.portA with waiting := [{ frame := frame 5, withdrawn := false }] }

/-- Whatever the port's places, an offered frame has its outcome. -/
theorem offered_somehow (p : Port) (who : Producer) (bytes : Bytes) (t : State) : ∃ u, LocalOffered p who bytes t u := by
  by_cases h : (t.port p).up = true
  · by_cases hl : (t.port p).localQ.length < 4
    · exact ⟨_, .inl ⟨⟨h, hl⟩, rfl⟩⟩
    · exact ⟨_, .inr (.inl ⟨h, Nat.le_of_not_lt hl, rfl⟩)⟩
  · exact ⟨_, .inr (.inr ⟨by simpa using h, rfl⟩)⟩

/-- A head notice is offered, or held back. -/
theorem head_offered (n : NoticeUnit) (t : State) (h : n.queue ≠ []) : ∃ v, HeadOffered n t v := by
  cases hw : isWaiting n.settings.port .notice t with
  | true => exact ⟨_, .inl ⟨h, hw, rfl⟩⟩
  | false =>
    obtain ⟨y, more, hq⟩ := List.exists_cons_of_ne_nil h
    obtain ⟨u, hu⟩ := offered_somehow n.settings.port .notice (noticeFrame t.seqr.own n y) t
    exact ⟨_, .inr ⟨hw, y, more, u, hq, hu, rfl⟩⟩

/-- A head notice that leaves is followed by the next one, if any. -/
theorem head_left (n : NoticeUnit) (rest : List Notice) (t : State) : ∃ v, HeadLeft n rest t v := by
  by_cases h : rest = [] ∨ noticeLinkUp n n.settings.port = false
  · exact ⟨_, .inl ⟨h, rfl⟩⟩
  · simp only [not_or, Bool.not_eq_false] at h
    exact (head_offered _ t h.1).imp fun v hv => .inr ⟨h.2, hv⟩

theorem witness_WithdrawalsAndEndingsAreTaken_5 :
    (∀ room ∈ [some true, some false, none], ∀ reading ∈ [true, false], let s := endedWaiting room reading
      Oldest (fun y : Waiter => y.frame.who = .session .two ∧ y.withdrawn = true) (s.port .a).waiting
          [{ frame := frame 5, withdrawn := false }] { frame := { frame 6 with who := .session .two }, withdrawn := true } []
        ∧ (s.session .two).port = .a ∧ (s.session .two).state = .ending ∧ (s.session .two).endReason = some .closed
        ∧ (s.session .two).replySeen = true ∧ isWaiting .a (.session .two) (unblocked s) = false)
      ∧ (∀ room ∈ [some true, some false, none], let s := heldBehind room
        Oldest (fun y : Waiter => y.frame.who = .notice ∧ y.withdrawn = true) (s.port .a).waiting
          [{ frame := frame 5, withdrawn := false }] { frame := { frame 6 with who := .notice }, withdrawn := true } []
        ∧ s.notice.queue ≠ [] ∧ s.notice.head = .queued ∧ s.notice.frame = none)
      ∧ (∀ bytes t, ∃ u, LocalOffered .a (.session .two) bytes t u)
      ∧ ∀ room, ∃ v, HeadOffered (heldBehind room).notice (unblocked (heldBehind room)) v :=
  ⟨by decide +kernel, by decide +kernel, fun _ _ => offered_somehow _ _ _ _, fun _ => head_offered _ _ nofun⟩

/-- Notices 1 to `k` for station 9 over Port A, with the head sent `n` times and its retry timer running, Port A's local
queue with the given places and the unit's view of its link. -/
def retried (k n : Nat) (room : Option Bool) (view : Bool) (h : HeadState) : State :=
  let s := noticing 1 k h
  { s with portA := localPlaces room s.portA, notice := { s.notice with attempts := n, retry := some 0, linkA := view } }

theorem witness_TheHeadFollowsItsPortAndTimer_2 :
    (∀ k ∈ [1, 3], ∀ n ∈ [3, 4], ∀ room ∈ [some true, some false, none], let s := retried k n room true .inFlight
      s.notice.retry ≠ none ∧ s.notice.queue.length = k ∧ s.notice.attempts = n)
      ∧ noticeLinkUp (retried 3 4 (some false) false .inFlight).notice .a = false
      ∧ (∃ t, NoticeTakes .a true (withdrawing .notice (some true) { retried 3 4 (some false) false .parked with
          raised := { ready.raised with noticeLink := [(.a, true)] } }) t)
      ∧ (∀ n t, n.queue ≠ [] → ∃ v, HeadOffered n t v) ∧ ∀ n rest t, ∃ v, HeadLeft n rest t v :=
  ⟨by decide +kernel, by decide +kernel, ⟨_, .inl ⟨[], [], by decide +kernel, rfl⟩⟩, head_offered, head_left⟩

/-- The Reply Cache holds an entry of each of stations 11 to 11 + `k` - 1, the oldest use first. -/
def cacheOf (k : Nat) : List CacheEntry :=
  (List.range k).map (fun i => { station := BitVec.ofNat 8 (11 + i), code := 0x36, tag := 7, bytes := [BitVec.ofNat 8 i] })

theorem witness_ArrivalsAreDiscardedJoinedOrBegun_3 :
    let own : Bytes := [250, 13, 124, 0, 5, 0x36, 0, 7, 0, 41, 0, 0]
    let x : CacheEntry := { station := 13, code := 0x36, tag := 7, bytes := [2] }
    let others := (cacheOf 2) ++ (cacheOf 8).drop 3
    let s : State := { ready with mgmt := { ready.mgmt with cache := cacheOf 8 } }
    (Oldest (fun y : Port × Bytes => y.1 = .b) (arriving own s).raised.requests [(.a, [1])] (.b, own) []
        ∧ s.mgmt.cache = cacheOf 2 ++ x :: (cacheOf 8).drop 3 ∧ (∀ y ∈ others, y.station ≠ 13) ∧ others.length < 8
        ∧ s.mgmt.queue = [] ∧ s.mgmt.current = none ∧ LocalRoom .b s)
      ∧ ((∀ y ∈ cacheOf 8, y.station ≠ 10) ∧ ∃ y rest, cacheOf 8 = y :: rest ∧ rest.length = 7) :=
  ⟨by decide +kernel, by decide +kernel, _, _, rfl, by decide⟩

end Sys2Proof.Tests
end

section
/-! PROOF. The tests of one rule entry (01, R7 to R10). -/

namespace Sys2Proof.Machine

/-- The direction test of R7. -/
theorem dirMatches_iff (dir : RuleDir) (p : Port) :
    dirMatches dir p = true ↔ dir = .either ∨ (dir = .aToB ∧ p = .a) ∨ (dir = .bToA ∧ p = .b) := by
  cases dir <;> cases p <;> simp [dirMatches]

/-- The frame kind test of R7. -/
theorem kindMatches_iff (kind : FrameKind) (o : RxOutcome) :
    kindMatches kind o = true ↔ kind = .any ∨ (kind = .good ∧ o = .good) ∨ (kind = .error ∧ o ≠ .good) := by
  cases kind <;> simp [kindMatches]

/-- The four header tests of R8. -/
theorem headerMatches_iff (r : Rule) (bytes : Bytes) :
    headerMatches r bytes = true ↔
      byteAt bytes 0 &&& r.destMask = r.destValue &&& r.destMask
        ∧ byteAt bytes 1 &&& r.srcMask = r.srcValue &&& r.srcMask
        ∧ r.classLow ≤ (byteAt bytes 2).toNat ∧ (byteAt bytes 2).toNat ≤ r.classHigh
        ∧ r.lenMin ≤ (byteAt bytes 4).toNat ∧ (byteAt bytes 4).toNat ≤ r.lenMax := by
  simp [headerMatches, maskedByte, and_assoc]

/-- A slice that ends inside an outer slice is a slice of the whole. -/
theorem slice_slice {i m j n : Nat} (bs : Bytes) (h : j + n ≤ m) :
    slice j n (slice i m bs) = slice (i + j) n bs := by
  have hn : min n (m - j) = n := by omega
  simp only [slice, List.drop_take, List.take_take, List.drop_drop, hn]

/-- Bytes tested inside the payload are read from behind the five header bytes. -/
theorem fieldAt_payloadOf {off n : Nat} {bytes : Bytes} (h : off + n ≤ (byteAt bytes 4).toNat) :
    fieldAt off n (payloadOf bytes) = fieldAt (5 + off) n bytes := by
  rw [fieldAt, payloadOf, slice_slice bytes h, fieldAt]

/-- The payload test of R9: the payload holds the tested bytes, and they agree with the value under the mask exactly
when the sense is EQUAL. -/
theorem testMatches_iff (t : PayloadTest) (bytes : Bytes) :
    testMatches t bytes = true ↔ t.offset + t.length ≤ (byteAt bytes 4).toNat
      ∧ (t.sense = .equal
        ↔ BitVec.ofNat 32 (fieldAt (5 + t.offset) t.length bytes) &&& t.mask = t.value &&& t.mask) := by
  by_cases hlen : t.offset + t.length ≤ (byteAt bytes 4).toNat
  · simp only [testMatches, if_neg (Nat.not_lt.mpr hlen), fieldAt_payloadOf hlen]
    cases t.sense <;> simp [hlen]
  · simp [testMatches, Nat.not_le.mp hlen, hlen]

/-- An error frame is matched by the tests of R7 alone (R10). -/
theorem ruleMatches_of_error {r : Rule} {p : Port} {d : Delivered} (h : d.outcome ≠ .good) :
    ruleMatches r p d = true ↔
      r.state = .enabled ∧ dirMatches r.dir p = true ∧ kindMatches r.kind d.outcome = true := by
  simp [ruleMatches, h, and_assoc]

/-- A GOOD frame is matched by the tests of R7 and R8 and the payload test of the entry, if it has one (R9). -/
theorem ruleMatches_of_good {r : Rule} {p : Port} {d : Delivered} (h : d.outcome = .good) :
    ruleMatches r p d = true ↔
      r.state = .enabled ∧ dirMatches r.dir p = true ∧ kindMatches r.kind d.outcome = true
        ∧ headerMatches r d.bytes = true ∧ ∀ t, r.test = some t → testMatches t d.bytes = true := by
  cases ht : r.test <;> simp [ruleMatches, h, ht, and_assoc]

/-- Settles O22: R7 to R10, by the frame's outcome and the entry's payload test. -/
theorem entriesMatchByTheirTests : Obligations.EntriesMatchByTheirTests := by
  unfold Obligations.EntriesMatchByTheirTests
  intro r p d direction kind header tested
  have hdir : dirMatches r.dir p = true ↔ direction := dirMatches_iff r.dir p
  have hkind : kindMatches r.kind d.outcome = true ↔ kind := kindMatches_iff r.kind d.outcome
  have hheader : headerMatches r d.bytes = true ↔ header := headerMatches_iff r d.bytes
  refine ⟨fun herror => ?error, fun hgood hnone => ?untested, fun t hgood htest => ?tested⟩
  case error => rw [ruleMatches_of_error herror, hdir, hkind]
  case untested => simp only [ruleMatches_of_good hgood, hdir, hkind, hheader, hnone, reduceCtorEq, false_imp_iff,
    implies_true, and_true]
  case tested =>
    have htests : (∀ u, r.test = some u → testMatches u d.bytes = true) ↔ testMatches t d.bytes = true := by
      simp [htest]
    rw [ruleMatches_of_good hgood, hdir, hkind, hheader, htests, testMatches_iff]

end Sys2Proof.Machine
end

section
/-! PROOF. SET_DEFAULT_ACTION and SET_CAPTURE (01, R22; 05, R84 and R85). -/

namespace Sys2Proof.Machine

/-! ### Fields of parameters -/

/-- A field of one byte is that byte. -/
theorem fieldAt_one (off : Nat) (bs : Bytes) : fieldAt off 1 bs = (byteAt bs off).toNat := by
  have hslice : slice off 1 bs = bs[off]?.toList := by simp [slice, List.take_one, List.head?_drop]
  rw [fieldAt, hslice, byteAt, List.getD_eq_getElem?_getD]
  cases bs[off]? <;> simp [beNat]

/-- Bytes read behind a number move it up by their places and fill those. -/
theorem foldl_bytes_lt (bs : Bytes) (n : Nat) :
    bs.foldl (fun acc b => acc * 256 + b.toNat) n < (n + 1) * 256 ^ bs.length := by
  induction bs generalizing n with
  | nil => simp only [List.foldl_nil, List.length_nil, Nat.pow_zero, Nat.mul_one, Nat.lt_succ_self]
  | cons b bs ih =>
    have hbyte : b.toNat < 256 := b.isLt
    have hfirst : n * 256 + b.toNat + 1 ≤ (n + 1) * 256 := by omega
    calc
      (b :: bs).foldl (fun acc b => acc * 256 + b.toNat) n
          < (n * 256 + b.toNat + 1) * 256 ^ bs.length := ih _
      _ ≤ (n + 1) * 256 * 256 ^ bs.length := Nat.mul_le_mul_right _ hfirst
      _ = (n + 1) * 256 ^ (b :: bs).length := by rw [List.length_cons, Nat.pow_succ', Nat.mul_assoc]

/-- `n` bytes carry a number below 256 to the power of `n`. -/
theorem beNat_lt (bs : Bytes) : beNat bs < 256 ^ bs.length := by
  simpa only [beNat, Nat.zero_add, Nat.one_mul] using foldl_bytes_lt bs 0

/-- A field of `n` bytes lies below 256 to the power of `n`. -/
theorem fieldAt_lt (off n : Nat) (bs : Bytes) : fieldAt off n bs < 256 ^ n := by
  have hlength : (slice off n bs).length ≤ n := List.length_take_le ..
  exact Nat.lt_of_lt_of_le (beNat_lt _) (Nat.pow_le_pow_right (by decide) hlength)

/-! ### Answers from the owner's state -/

/-- The owner's answer to the request handed to it, from a state with the ports and the Management Unit of the one in
which it was handed. -/
theorem respond_handed {code : Byte} {r : Request} {st : Status} {result : Bytes} {s t : State} (h : Handed code r s)
    (hroom : ReplyRoom r s) (ha : t.portA = s.portA) (hb : t.portB = s.portB) (hm : t.mgmt = s.mgmt) :
    respond st result t = replied r st result t := by
  obtain ⟨hcurrent, -, -⟩ := h
  exact respond_replied (hm ▸ hcurrent) (hroom.carry ha hb hm)

/-! ### SET_DEFAULT_ACTION (R22) -/

/-- The meaning of SET_DEFAULT_ACTION. -/
theorem exec_setDefaultAction (s : State) : exec .setDefaultAction s = execSetDefaultAction s := rfl

/-- PASS or CAPTURE becomes the default action; the default hits are part of the classifier and stay. -/
theorem exec_setDefaultAction_valid {r : Request} {s : State} {a : Action} (h : Handed codeSetDefaultAction r s)
    (hroom : ReplyRoom r s) (ha : actionOf (fieldAt 0 1 r.params) = some a) (hvalid : defaultValid a = true) :
    exec .setDefaultAction s = .next (replied r .ok [] (s.setCls { s.cls with dflt := a })) := by
  rw [exec_setDefaultAction, execSetDefaultAction, takeRequest_handed h]
  simp only [ha, hvalid, if_true, respond_handed h hroom (State.setCls_portA ..) (State.setCls_portB ..)
    (State.setCls_mgmt ..)]

/-- A value that is no action, or an action that is no default action, is a bad value. -/
theorem exec_setDefaultAction_invalid {r : Request} {s : State} (h : Handed codeSetDefaultAction r s)
    (hroom : ReplyRoom r s) (hbad : ∀ a, actionOf (fieldAt 0 1 r.params) = some a → defaultValid a = false) :
    exec .setDefaultAction s = .next (replied r .badValue [] s) := by
  rw [exec_setDefaultAction, execSetDefaultAction, takeRequest_handed h]
  cases ha : actionOf (fieldAt 0 1 r.params) with
  | none => simp only [respond_handed h hroom rfl rfl rfl]
  | some a => simp only [hbad a ha, Bool.false_eq_true, if_false, respond_handed h hroom rfl rfl rfl]

/-- The values of the default actions are 0 and 1. -/
theorem defaultValid_actionOf {n : Nat} {a : Action} (ha : actionOf n = some a) (hvalid : defaultValid a = true) :
    n = 0 ∨ n = 1 := by
  match n with
  | 0 => exact .inl rfl
  | 1 => exact .inr rfl
  | 2 => cases ha; exact absurd hvalid (by decide)
  | 3 => cases ha; exact absurd hvalid (by decide)
  | _ + 4 => cases ha

/-! ### SET_CAPTURE (R84, R85) -/

/-- ON and OFF are 1 and 0, and no other value is either. -/
theorem onOffOf_eq (n : Nat) : onOffOf n = if n ≤ 1 then some (decide (n = 1)) else none := by
  match n with
  | 0 => rfl
  | 1 => rfl
  | _ + 2 => simp [onOffOf]

/-- The seven settings at their places in the parameters of SET_CAPTURE, in range or not (12.4). -/
def settingsAt (ps : Bytes) : Settings :=
  { window := fieldAt 0 1 ps, postCount := fieldAt 1 3 ps, postTime := fieldAt 4 2 ps, holdoff := fieldAt 6 2 ps,
    rearm := decide (fieldAt 8 1 ps = 1), flush := fieldAt 9 2 ps, autostart := decide (fieldAt 11 1 ps = 1) }

/-- The ranges of R84 that the parameters of SET_CAPTURE can miss: post time and holdoff take every value of their two
bytes. -/
abbrev SettingsFit (ps : Bytes) : Prop :=
  fieldAt 0 1 ps ≤ 16 ∧ 1 ≤ fieldAt 1 3 ps ∧ fieldAt 1 3 ps ≤ 1048575 ∧ fieldAt 8 1 ps ≤ 1 ∧ fieldAt 9 2 ps ≤ 1000
    ∧ fieldAt 11 1 ps ≤ 1

/-- SET_CAPTURE carries settings exactly when its parameters are in range. -/
theorem readSettings_eq (ps : Bytes) : readSettings ps = if SettingsFit ps then some (settingsAt ps) else none := by
  have htime : fieldAt 4 2 ps ≤ 65535 := Nat.le_of_lt_succ (fieldAt_lt 4 2 ps)
  have hholdoff : fieldAt 6 2 ps ≤ 65535 := Nat.le_of_lt_succ (fieldAt_lt 6 2 ps)
  by_cases hrearm : fieldAt 8 1 ps ≤ 1
  · by_cases hauto : fieldAt 11 1 ps ≤ 1
    · simp [readSettings, onOffOf_eq, hrearm, hauto, settingsValid, htime, hholdoff, settingsAt, SettingsFit,
        and_assoc]
    · simp [readSettings, onOffOf_eq, hrearm, hauto]
  · simp [readSettings, onOffOf_eq, hrearm]

/-- The meaning of SET_CAPTURE. -/
theorem exec_setCapture (s : State) : exec .setCapture s = execSetCapture s := rfl

/-- Outside STOPPED the settings are not replaced, whatever they are. -/
theorem exec_setCapture_busy {r : Request} {s : State} (h : Handed codeSetCapture r s) (hroom : ReplyRoom r s)
    (hstate : s.ctl.state ≠ .stopped) : exec .setCapture s = .next (replied r .busy [] s) := by
  rw [exec_setCapture, execSetCapture, takeRequest_handed h, if_pos hstate, respond_handed h hroom rfl rfl rfl]

/-- In STOPPED, settings in range replace all seven. -/
theorem exec_setCapture_valid {r : Request} {s : State} (h : Handed codeSetCapture r s) (hroom : ReplyRoom r s)
    (hstate : s.ctl.state = .stopped) (hfit : SettingsFit r.params) :
    exec .setCapture s = .next (replied r .ok [] (s.setCtl { s.ctl with settings := settingsAt r.params })) := by
  rw [exec_setCapture, execSetCapture, takeRequest_handed h, if_neg (not_not_intro hstate)]
  simp only [readSettings_eq, if_pos hfit,
    respond_handed h hroom (State.setCtl_portA ..) (State.setCtl_portB ..) (State.setCtl_mgmt ..)]

/-- In STOPPED, a value out of range refuses all seven. -/
theorem exec_setCapture_invalid {r : Request} {s : State} (h : Handed codeSetCapture r s) (hroom : ReplyRoom r s)
    (hstate : s.ctl.state = .stopped) (hfit : ¬ SettingsFit r.params) :
    exec .setCapture s = .next (replied r .badValue [] s) := by
  rw [exec_setCapture, execSetCapture, takeRequest_handed h, if_neg (not_not_intro hstate)]
  simp only [readSettings_eq, if_neg hfit, respond_handed h hroom rfl rfl rfl]

/-- Settles O51: R22 by the value, R85 by the capture state and the ranges. -/
theorem defaultActionAndCaptureSettings : Obligations.DefaultActionAndCaptureSettings := by
  unfold Obligations.DefaultActionAndCaptureSettings
  intro r s hroom
  refine ⟨?defaultAction, ?capture⟩
  case defaultAction =>
    intro v h hparams
    have hvalue : fieldAt 0 1 r.params = v.toNat := by rw [fieldAt_one, hparams]; rfl
    refine ⟨fun h0 => ?pass, fun h1 => ?record, fun h0 h1 => ?bad⟩
    case pass => exact exec_setDefaultAction_valid h hroom (by rw [hvalue, h0]; rfl) rfl
    case record => exact exec_setDefaultAction_valid h hroom (by rw [hvalue, h1]; rfl) rfl
    case bad =>
      refine exec_setDefaultAction_invalid h hroom fun a ha => Bool.eq_false_iff.mpr fun hvalid => ?_
      rw [hvalue] at ha
      have hv := defaultValid_actionOf ha hvalid
      bv_omega
  case capture =>
    intro w c1 c2 c3 t1 t2 h1 h2 m f1 f2 a h hparams x valid
    have honOff (b : Byte) : b.toNat = 1 ↔ b = 1 := (BitVec.toNat_inj (y := 1#8))
    have hsettings : settingsAt r.params = x := by
      simp [settingsAt, hparams, fieldAt, slice, beNat, honOff, x]
    have hfit : SettingsFit r.params ↔ valid := by
      simp [SettingsFit, hparams, fieldAt, slice, beNat, x, valid]
    rw [← hfit, ← hsettings]
    exact ⟨exec_setCapture_busy h hroom, exec_setCapture_valid h hroom, exec_setCapture_invalid h hroom⟩

end Sys2Proof.Machine
end

section
/-! PROOF. LIST_RECORDINGS and READ_RECORDING (05, R103 and R104). -/

namespace Sys2Proof.Machine

/-! ### Lists in ascending order of a key -/

/-- An insertion adds the element and keeps the others. -/
theorem insertBy_perm {α : Type} (key : α → Nat) (x : α) (xs : List α) : (insertBy key x xs).Perm (x :: xs) := by
  induction xs with
  | nil => exact .refl _
  | cons y ys ih =>
    by_cases hlt : key x < key y
    · simp [insertBy, hlt]
    · simpa [insertBy, hlt] using (ih.cons y).trans (.swap x y ys)

/-- An insertion into an ascending list gives an ascending list. -/
theorem insertBy_ascending {α : Type} (key : α → Nat) (x : α) {xs : List α}
    (h : xs.Pairwise (fun a b => key a ≤ key b)) : (insertBy key x xs).Pairwise (fun a b => key a ≤ key b) := by
  induction xs with
  | nil => exact List.pairwise_singleton ..
  | cons y ys ih =>
    obtain ⟨hhead, htail⟩ := List.pairwise_cons.mp h
    by_cases hlt : key x < key y
    · rw [insertBy, if_pos hlt]
      refine List.pairwise_cons.mpr ⟨fun z hz => ?_, h⟩
      rcases List.mem_cons.mp hz with rfl | hz
      · exact Nat.le_of_lt hlt
      · exact Nat.le_trans (Nat.le_of_lt hlt) (hhead z hz)
    · rw [insertBy, if_neg hlt]
      refine List.pairwise_cons.mpr ⟨fun z hz => ?_, ih htail⟩
      rcases List.mem_cons.mp ((insertBy_perm key x ys).mem_iff.mp hz) with rfl | hz
      · exact Nat.le_of_not_lt hlt
      · exact hhead z hz

/-- Inserting the elements of a list one after another adds them and keeps the others. -/
theorem foldl_insertBy_perm {α : Type} (key : α → Nat) (xs acc : List α) :
    (xs.foldl (fun ys x => insertBy key x ys) acc).Perm (xs ++ acc) := by
  induction xs generalizing acc with
  | nil => exact .refl _
  | cons x xs ih =>
    have hinsert : (xs ++ insertBy key x acc).Perm (xs ++ x :: acc) := (insertBy_perm key x acc).append_left xs
    exact (ih _).trans (hinsert.trans List.perm_middle)

/-- A sorted list holds the elements of the list. -/
theorem sortBy_perm {α : Type} (key : α → Nat) (xs : List α) : (sortBy key xs).Perm xs := by
  simpa only [sortBy, List.append_nil] using foldl_insertBy_perm key xs []

/-- Inserting the elements of a list one after another into an ascending list gives an ascending list. -/
theorem foldl_insertBy_ascending {α : Type} (key : α → Nat) (xs : List α) {acc : List α}
    (h : acc.Pairwise (fun a b => key a ≤ key b)) :
    (xs.foldl (fun ys x => insertBy key x ys) acc).Pairwise (fun a b => key a ≤ key b) := by
  induction xs generalizing acc with
  | nil => exact h
  | cons x xs ih => exact ih (insertBy_ascending key x h)

/-- A sorted list is ascending. -/
theorem sortBy_ascending {α : Type} (key : α → Nat) (xs : List α) :
    (sortBy key xs).Pairwise (fun a b => key a ≤ key b) :=
  foldl_insertBy_ascending key xs .nil

/-- A list whose keys rise strictly is what sorting makes of each of its orders. -/
theorem sortBy_eq_of_perm {α : Type} {key : α → Nat} {xs ys : List α} (hperm : ys.Perm xs)
    (hrise : ys.Pairwise (fun a b => key a < key b)) : sortBy key xs = ys := by
  have hsame : (sortBy key xs).Perm ys := (sortBy_perm key xs).trans hperm.symm
  have hdistinct : (sortBy key xs).Pairwise (fun a b => key a ≠ key b) :=
    (hsame.pairwise_iff (fun hne => hne.symm)).mpr (hrise.imp Nat.ne_of_lt)
  have hstrict : (sortBy key xs).Pairwise (fun a b => key a < key b) :=
    ((sortBy_ascending key xs).and hdistinct).imp (fun ⟨hle, hne⟩ => Nat.lt_of_le_of_ne hle hne)
  exact hsame.eq_of_pairwise (fun a b _ _ hab hba => absurd hba (Nat.lt_asymm hab)) hstrict hrise

/-! ### The entry that a number names -/

/-- An entry found by a number has that number. -/
theorem num_of_findEntry {d : Directory} {num : Nat} {e : Entry} (h : findEntry d num = some e) : e.num = num := by
  simpa using List.find?_some h

/-- Number 0 and a number that no entry has name none (5.8). -/
theorem namedEntry_none {d : Directory} {num : Nat} (h : num = 0 ∨ ∀ e ∈ d.entries, e.num ≠ num) :
    namedEntry d num = none := by
  rcases h with hzero | habsent
  · rw [namedEntry, if_pos hzero]
  · have hnot : findEntry d num = none := List.find?_eq_none.mpr (by simpa using habsent)
    rw [namedEntry, hnot, ite_self]

/-- Another number names the entry found by it. -/
theorem namedEntry_some {d : Directory} {num : Nat} {e : Entry} (hnum : num ≠ 0) (h : findEntry d num = some e) :
    namedEntry d num = some e := by
  rw [namedEntry, if_neg hnum, h]

/-! ### LIST_RECORDINGS and READ_RECORDING -/

/-- The meaning of LIST_RECORDINGS. -/
theorem exec_listRecordings (s : State) : exec .listRecordings s = execListRecordings s := rfl

/-- LIST_RECORDINGS answers with the list of the directory (R103). -/
theorem exec_listRecordings_handed {r : Request} {s : State} (h : Handed codeListRecordings r s)
    (hroom : ReplyRoom r s) :
    exec .listRecordings s = .next (replied r .ok (listResult s.dir) s) := by
  rw [exec_listRecordings, execListRecordings, takeRequest_handed h, respond_handed h hroom rfl rfl rfl]

/-- The list of a directory is made of its entries in ascending recording number (R103). -/
theorem listResult_eq_of_perm {d : Directory} {es : List Entry} (hperm : es.Perm d.entries)
    (hrise : es.Pairwise (fun x y => x.num < y.num)) : listResult d = b1 es.length ++ es.flatMap entrySummary := by
  rw [listResult, sortedEntries, sortBy_eq_of_perm hperm hrise, hperm.length_eq, List.flatMap_def]

/-- The meaning of READ_RECORDING. -/
theorem exec_readRecording (s : State) : exec .readRecording s = execReadRecording s := rfl

/-- READ_RECORDING of a number that names no entry answers NOT_FOUND (R104). -/
theorem exec_readRecording_absent {r : Request} {s : State} (h : Handed codeReadRecording r s) (hroom : ReplyRoom r s)
    (hnone : namedEntry s.dir (recordingNumber r) = none) :
    exec .readRecording s = .next (replied r .notFound [] s) := by
  rw [exec_readRecording, execReadRecording, takeRequest_handed h]
  simp only [hnone, respond_handed h hroom rfl rfl rfl]

/-- READ_RECORDING answers with the fields of the entry that its number names (R104). -/
theorem exec_readRecording_present {r : Request} {s : State} {e : Entry} (h : Handed codeReadRecording r s)
    (hroom : ReplyRoom r s) (hsome : namedEntry s.dir (recordingNumber r) = some e) :
    exec .readRecording s = .next (replied r .ok (entryResult e) s) := by
  rw [exec_readRecording, execReadRecording, takeRequest_handed h]
  simp only [hsome, respond_handed h hroom rfl rfl rfl]

/-- Settles O55: the list by the uniqueness of the ascending order, the entry by the number that the request carries. -/
theorem recordingsAreListedAndRead : Obligations.RecordingsAreListedAndRead := by
  unfold Obligations.RecordingsAreListedAndRead
  intro r s hroom summary
  refine ⟨fun es h hperm hrise => ?list, fun hi lo h hparams => ?read⟩
  case list =>
    have hsummary : entrySummary = summary := by
      funext e
      simp [entrySummary, summary, b1]
    rw [exec_listRecordings_handed h hroom, listResult_eq_of_perm hperm hrise, hsummary, b1]
  case read =>
    intro num
    have hnumber : recordingNumber r = num := by simp [recordingNumber, hparams, fieldAt, slice, beNat, num]
    refine ⟨fun habsent => ?absent, fun e hnum hfound => ?present⟩
    case absent => exact exec_readRecording_absent h hroom (hnumber ▸ namedEntry_none habsent)
    case present =>
      rw [exec_readRecording_present h hroom (hnumber ▸ namedEntry_some hnum hfound), ← num_of_findEntry hfound]
      simp [entryResult, b1, bBool, beTime, List.flatMap_def]

end Sys2Proof.Machine
end

section
/-! PROOF. The transmit arbiter (08, R149). -/

namespace Sys2Proof.Machine

/-- A transmitter that is busy, or whose port is DOWN, chooses nothing. -/
theorem startFrame_unable {x : PortState} (h : x.up = false ∨ x.tx ≠ none) : startFrame x = x := by
  have hnot : ¬ (x.up = true ∧ x.tx = none) := by
    rintro ⟨hup, htx⟩
    rcases h with hdown | hbusy
    · exact absurd (hup.symm.trans hdown) (by decide)
    · exact hbusy htx
  rw [startFrame, if_neg hnot]

section FreeTransmitter

variable {x : PortState} {r : Bytes} {rs : List Bytes} {f : LocalFrame} {fs : List LocalFrame}

/-- With both queues empty nothing is chosen. -/
theorem startFrame_empty (hrelay : x.relayQ = []) (hlocal : x.localQ = []) : startFrame x = x := by
  simp [startFrame, hrelay, hlocal]

/-- With no local frame the relay queue is served, and the count returns to 0. -/
theorem startFrame_relay_alone (hup : x.up = true) (htx : x.tx = none) (hrelay : x.relayQ = r :: rs)
    (hlocal : x.localQ = []) :
    startFrame x = { x with tx := some { bytes := r, origin := none }, relayQ := rs, fair := 0 } := by
  simp [startFrame, hup, htx, hrelay, hlocal]

/-- With no relayed frame the local queue is served, and the count returns to 0. -/
theorem startFrame_local_alone (hup : x.up = true) (htx : x.tx = none) (hrelay : x.relayQ = [])
    (hlocal : x.localQ = f :: fs) : startFrame x = { x with tx := some (localOnLine f), localQ := fs, fair := 0 } := by
  simp [startFrame, hup, htx, hrelay, hlocal]

/-- Below a count of 4 a relayed frame passes a waiting local one, and is counted. -/
theorem startFrame_relay_turn (hup : x.up = true) (htx : x.tx = none) (hrelay : x.relayQ = r :: rs)
    (hlocal : x.localQ = f :: fs) (hfair : x.fair < 4) :
    startFrame x = { x with tx := some { bytes := r, origin := none }, relayQ := rs, fair := x.fair + 1 } := by
  simp [startFrame, hup, htx, hrelay, hlocal, hfair]

/-- At a count of 4 the waiting local frame is served, and the count returns to 0. -/
theorem startFrame_local_turn (hup : x.up = true) (htx : x.tx = none) (hrelay : x.relayQ = r :: rs)
    (hlocal : x.localQ = f :: fs) (hfair : 4 ≤ x.fair) :
    startFrame x = { x with tx := some (localOnLine f), localQ := fs, fair := 0 } := by
  simp [startFrame, hup, htx, hrelay, hlocal, Nat.not_lt.mpr hfair]

end FreeTransmitter

/-- Settles O19, by the two queues and the fairness count. -/
theorem arbiterChoosesByTheFairnessCount : Obligations.ArbiterChoosesByTheFairnessCount := by
  unfold Obligations.ArbiterChoosesByTheFairnessCount
  intro x
  refine ⟨fun hup htx => ⟨fun r rs => ?relayAlone, fun f fs => ?localAlone,
    fun r rs f fs hrelay hlocal hfair => ?relayTurn, fun r rs f fs hrelay hlocal hfair => ?localTurn,
    startFrame_empty⟩, startFrame_unable, rfl, rfl, rfl⟩
  case relayAlone => exact startFrame_relay_alone hup htx
  case localAlone => exact startFrame_local_alone hup htx
  case relayTurn => exact startFrame_relay_turn hup htx hrelay hlocal (Nat.lt_succ_of_le hfair)
  case localTurn => exact startFrame_local_turn hup htx hrelay hlocal (Nat.le_of_eq hfair.symm)

end Sys2Proof.Machine
end

section
/-! PROOF. The reception of frames (08, R142 to R145). -/

namespace Sys2Proof.Machine

/-! ### Bytes of a frame -/

/-- A byte among the first `k` is read from them. -/
theorem byteAt_take {off k : Nat} (bs : Bytes) (h : off < k) : byteAt (bs.take k) off = byteAt bs off := by
  simp [byteAt, h]

/-- A field of two bytes is the number that they carry, high byte first (R193). -/
theorem fieldAt_two {off : Nat} {bs : Bytes} (h : off + 2 ≤ bs.length) :
    fieldAt off 2 bs = (byteAt bs off).toNat * 256 + (byteAt bs (off + 1)).toNat := by
  have hslice : slice off 2 bs = [bs[off], bs[off + 1]] := by
    rw [slice, List.drop_eq_getElem_cons (by omega), List.drop_eq_getElem_cons (by omega)]
    rfl
  have hfirst : byteAt bs off = bs[off] := (List.getElem_eq_getD 0).symm
  have hsecond : byteAt bs (off + 1) = bs[off + 1] := (List.getElem_eq_getD 0).symm
  simp [fieldAt, hslice, beNat, hfirst, hsecond]

/-! ### Receive outcomes (R143) -/

/-- The receive outcome, with the check and the length read byte by byte: the check stands in the last two bytes. -/
theorem receiveOutcome_eq (bytes : Bytes) :
    receiveOutcome bytes =
      if bytes.length < 7 then .runt
      else if 247 < bytes.length then .overlong
      else if (crc16 (bytes.take (bytes.length - 2))).toNat
          ≠ (byteAt bytes (bytes.length - 2)).toNat * 256 + (byteAt bytes (bytes.length - 1)).toNat then .check
      else if bytes.length ≠ 7 + (byteAt bytes 4).toNat then .length
      else .good := by
  by_cases hrunt : bytes.length < 7
  · simp only [receiveOutcome, if_pos hrunt]
  · have hlast : bytes.length - 2 + 1 = bytes.length - 1 := by omega
    have hcheck : fieldAt (bytes.length - 2) 2 bytes
        = (byteAt bytes (bytes.length - 2)).toNat * 256 + (byteAt bytes (bytes.length - 1)).toNat := by
      rw [fieldAt_two (by omega), hlast]
    simp only [receiveOutcome, Config.frameKept, hcheck, fieldAt_one]

/-! ### Destinations (R144, R145) -/

/-- All but a frame too short or too long and a frame to the part go to the relay queue. -/
theorem goesToRelay_iff (own : Byte) (o : RxOutcome) (bytes : Bytes) :
    goesToRelay own o bytes = true ↔ o ≠ .runt ∧ o ≠ .overlong ∧ toPart own bytes = false := by
  cases o <;> simp [goesToRelay]

/-- A GOOD frame to the part or to all stations goes to the Management Unit. -/
theorem goesToManagement_iff (own : Byte) (o : RxOutcome) (bytes : Bytes) :
    goesToManagement own o bytes = true ↔ o = .good ∧ (toPart own bytes = true ∨ isBroadcastRequest bytes = true) := by
  simp [goesToManagement]

/-- All but a GOOD frame to the part go to the classifier. -/
theorem goesToClassifier_iff (own : Byte) (o : RxOutcome) (bytes : Bytes) :
    goesToClassifier own o bytes = true ↔ ¬ (o = .good ∧ toPart own bytes = true) := by
  cases o <;> simp [goesToClassifier]

/-- Two bytes kept of a frame tell whether it is to the part. -/
theorem toPart_take {k : Nat} (own : Byte) (bytes : Bytes) (hk : 2 < k) :
    toPart own (bytes.take k) = decide (byteAt bytes 0 = own ∧ byteAt bytes 2 = 124) := by
  rw [toPart, byteAt_take bytes (Nat.zero_lt_of_lt hk), byteAt_take bytes hk, Bool.decide_and]

/-- Two bytes kept of a frame tell whether it is a request to all stations. -/
theorem isBroadcastRequest_take {k : Nat} (bytes : Bytes) (hk : 2 < k) :
    isBroadcastRequest (bytes.take k) = decide (byteAt bytes 0 = 255 ∧ byteAt bytes 2 = 124) := by
  rw [isBroadcastRequest, byteAt_take bytes (Nat.zero_lt_of_lt hk), byteAt_take bytes hk, Bool.decide_and]

/-- A happening raised under a condition is one that may be missing at the end of the list. -/
theorem ite_append_singleton {α : Type} (c : Prop) [Decidable c] (xs : List α) (y : α) :
    (if c then xs ++ [y] else xs) = xs ++ if c then [y] else [] := by
  split
  · rfl
  · exact (List.append_nil xs).symm

/-- What a delivered frame raises, by its outcome and the station that it is for. -/
theorem raiseFrame_eq (p : Port) (own : Byte) (d : Delivered) (x : Raised) :
    raiseFrame p own d x = { x with
      relay := x.relay
        ++ (if d.outcome ≠ .runt ∧ d.outcome ≠ .overlong ∧ toPart own d.bytes = false then [(p, d.bytes)] else []),
      requests := x.requests
        ++ (if d.outcome = .good ∧ (toPart own d.bytes = true ∨ isBroadcastRequest d.bytes = true)
          then [(p, d.bytes)] else []),
      classify := x.classify ++ (if d.outcome = .good ∧ toPart own d.bytes = true then [] else [(p, d)]) } := by
  simp only [raiseFrame, goesToRelay_iff, goesToManagement_iff, goesToClassifier_iff, ite_append_singleton]
  rw [ite_not]

/-! ### FRAME_START and FRAME_END -/

/-- The meaning of FRAME_START. -/
theorem exec_frameStart (p : Port) (s : State) : exec (.frameStart p) s = execFrameStart p s := rfl

/-- The meaning of FRAME_END. -/
theorem exec_frameEnd (p : Port) (bytes : Bytes) (s : State) :
    exec (.frameEnd p bytes) s = execFrameEnd p bytes s := rfl

section Reception

variable {p : Port} {s : State}

/-- A start at an UP port outside RESET begins a reception (R142). -/
theorem exec_frameStart_up (hlive : s.seqr.part ≠ .reset) (hup : (s.port p).up = true) :
    exec (.frameStart p) s = .next (s.setPort p { s.port p with receiving := true }) := by
  simp [exec_frameStart, execFrameStart, State.live, hlive, hup]

/-- An end at an UP port outside RESET ends the reception that is under way there (R142). -/
theorem exec_frameEnd_receiving (bytes : Bytes) (hlive : s.seqr.part ≠ .reset) (hup : (s.port p).up = true)
    (hreceiving : (s.port p).receiving = true) : exec (.frameEnd p bytes) s = .next (frameEndAt p bytes s) := by
  simp [exec_frameEnd, execFrameEnd, State.live, hlive, hup, hreceiving]

/-- An end without a start changes nothing (log 39). -/
theorem exec_frameEnd_unstarted (bytes : Bytes) (hreceiving : (s.port p).receiving = false) :
    exec (.frameEnd p bytes) s = .next s := by
  simp [exec_frameEnd, execFrameEnd, hreceiving]

end Reception

/-- A frame of no bytes is not delivered (R142). -/
theorem frameEndAt_nil (p : Port) (s : State) :
    frameEndAt p [] s = s.setPort p { s.port p with receiving := false } := rfl

/-- A frame of some bytes is counted by its outcome and delivered (R142, R144). -/
theorem frameEndAt_delivers {bytes : Bytes} (p : Port) (s : State) (hbytes : bytes ≠ []) :
    frameEndAt p bytes s =
      (s.setPort p { s.port p with
        receiving := false, counters := countReceived (s.port p).counters (receiveOutcome bytes) }).setRaised
        (raiseFrame p s.seqr.own (deliveredFrame (decide (s.seqr.part = .mounting)) bytes) s.raised) := by
  rw [frameEndAt, if_neg hbytes, deliveredFrame]

/-- Settles O17: the frame delivered is that of R142 and R143, and its destinations are those of R144 and R145. -/
theorem framesAreDeliveredByTheirOutcome : Obligations.FramesAreDeliveredByTheirOutcome := by
  unfold Obligations.FramesAreDeliveredByTheirOutcome
  intro p bytes s hlive hup x n outcome mine broadcast counters kept
  refine ⟨exec_frameStart_up hlive hup, fun hreceiving hbytes => ?delivered, fun hreceiving => ?undelivered,
    exec_frameEnd_unstarted bytes⟩
  case undelivered => rw [exec_frameEnd_receiving [] hlive hup hreceiving, frameEndAt_nil]
  case delivered =>
    have houtcome : receiveOutcome bytes = outcome := receiveOutcome_eq bytes
    have hmine : toPart s.seqr.own kept = mine := toPart_take s.seqr.own bytes (by decide)
    have hbroadcast : isBroadcastRequest kept = broadcast := isBroadcastRequest_take bytes (by decide)
    have hcounters : countReceived x.counters outcome = counters := by
      simp only [counters]
      cases outcome <;> rfl
    have hframe : deliveredFrame (decide (s.seqr.part = .mounting)) bytes
        = { outcome := outcome, bytes := kept, count := n, mounting := decide (s.seqr.part = .mounting) } := by
      rw [deliveredFrame, houtcome, Config.frameKept]
    rw [exec_frameEnd_receiving bytes hlive hup hreceiving, frameEndAt_delivers p s hbytes, hframe, raiseFrame_eq,
      hmine, hbroadcast, houtcome, hcounters]

end Sys2Proof.Machine
end

section
/-! PROOF. What every step keeps: each command, and the end of a happening, through the lemmas of Kept and Staged. -/

set_option Elab.async false

namespace Sys2Proof.Machine

variable {s t : State}

/-- `t` has what a step from `s` keeps: the waiting commands and every property of Safety, and, outside RESET, the own
address and the written pages. -/
structure StepKept (s t : State) : Prop where
  pending : t.pending = s.pending
  store : StoreWf s → StoreWf t
  array : ArrayWf s → ArrayWf t
  queues : QueuesBounded s → QueuesBounded t
  counters : CountersInRange s → CountersInRange t
  attempts : AttemptsBounded s → AttemptsBounded t
  credit : CreditBounded s → CreditBounded t
  settings : SettingsInRange s → SettingsInRange t
  station : OwnIsStation s → OwnIsStation t
  own : t.seqr.part ≠ .reset → t.seqr.own = s.seqr.own
  pages : t.seqr.part ≠ .reset → ArrayWf s → ∀ (b p : Nat) (x : Page), p ≤ 15 → pageAt s.store b p = some x →
    pageAt t.store b p = some x ∨ eraseOut s.arr b = true ∨ eraseOut t.arr b = true

/-- What every shared operation keeps is what a step keeps. -/
theorem Kept.step (h : Kept s t) : StepKept s t where
  pending := h.pending
  store := h.store
  array := h.array
  queues := h.queues
  counters := h.counters
  attempts := h.attempts
  credit := h.credit
  settings := h.settings
  station hs := by rw [OwnIsStation, h.own]; exact hs
  own _ := h.own
  pages _ := h.pages

/-! ### The part in RESET -/

section InReset

variable (pending : List Instr) (store : List (Nat × Page)) (cause : ResetCause) (own : Byte) (serial free : Nat)

theorem queuesBounded_inReset : QueuesBounded (State.inReset pending store cause own serial free) :=
  show QueuesBounded State.reset by decide

theorem countersInRange_inReset : CountersInRange (State.inReset pending store cause own serial free) :=
  show CountersInRange State.reset by decide

theorem attemptsBounded_inReset : AttemptsBounded (State.inReset pending store cause own serial free) :=
  ⟨Nat.zero_le 4, fun hqueue => absurd rfl hqueue⟩

theorem creditBounded_inReset : CreditBounded (State.inReset pending store cause own serial free) :=
  ⟨Nat.zero_le 64, Nat.zero_le 64⟩

theorem settingsInRange_inReset : SettingsInRange (State.inReset pending store cause own serial free) :=
  show SettingsInRange State.reset by decide

end InReset

/-- A reset of any cause keeps all of it, when its own address is a station or the one before. -/
theorem Kept.beginReset (h : Kept s t) {cause : ResetCause} {own : Byte}
    (hown : own = s.seqr.own ∨ isStation own = true) : StepKept s (Machine.beginReset cause own t) where
  pending := h.pending
  store hs := abandonOperations_wf (h.store hs)
  array _ hsuspended := absurd rfl hsuspended
  queues _ := queuesBounded_inReset ..
  counters _ := countersInRange_inReset ..
  attempts _ := attemptsBounded_inReset ..
  credit _ := creditBounded_inReset ..
  settings _ := settingsInRange_inReset ..
  station hs := hown.elim (fun e => e ▸ hs) id
  own hpart := absurd rfl hpart
  pages hpart := absurd rfl hpart

/-- Every strap value gives a station address (R181). -/
theorem isStation_strapAddress (straps : Byte) : isStation (strapAddress straps) = true := by
  unfold strapAddress
  split
  · rfl
  · rename_i hvalid
    have hpos : straps.toNat ≠ 0 := fun e => hvalid (.inl (BitVec.eq_of_toNat_eq e))
    simp only [isStation, Bool.and_eq_true, decide_eq_true_eq]
    omega

/-! ### The end of a happening -/

/-- The restart of an orderly stop keeps the own address. -/
theorem Kept.drainTest (h : Kept s t) : StepKept s (Machine.drainTest t) := by
  unfold Machine.drainTest
  split
  · exact h.beginReset (.inl h.own)
  · exact h.step

theorem Kept.settleRestart (h : Kept s t) : StepKept s (Machine.settleRestart t) := by
  unfold Machine.settleRestart
  split
  · exact h.step
  · split
    case h_1 =>
      split
      · exact h.beginReset (.inl h.own)
      · split
        · exact ((h.setPacker h.packer.closeFilling).setStage).logKick.drainTest
        · exact h.step
    case h_2 => exact h.drainTest
    all_goals exact h.step

theorem Kept.settle (h : Kept s t) : StepKept s (Machine.settle t) := h.logKick.settleRestart

/-! ### Operands -/

theorem readSettings_valid {ps : Bytes} {x : Settings} (h : readSettings ps = some x) : settingsValid x = true := by
  unfold readSettings at h
  split at h
  · dsimp only at h
    split at h
    · cases h; assumption
    · cases h
  · cases h

theorem readNotify_valid {ps : Bytes} {p : Port} {x : NotifySettings} (h : readNotify ps p = some x) :
    notifyValid x = true := by
  unfold readNotify at h
  split at h
  · dsimp only at h
    split at h
    · cases h; assumption
    · cases h
  · cases h

/-- A rule entry that WRITE-RULE carries is in range and has no hits. -/
theorem readRuleEntry_valid {ps : Bytes} {r : Rule} (h : readRuleEntry ps = some r) :
    ruleValid r = true ∧ r.hits = 0 := by
  unfold readRuleEntry at h
  split at h
  · dsimp only at h
    split at h
    · cases h; exact ⟨by assumption, rfl⟩
    · cases h
  · cases h

theorem setManagersValid_managers {ps : Bytes} {src : Byte} (h : setManagersValid ps src = true) :
    managersValid (usedStations ps) = true := by
  simp only [setManagersValid, Bool.and_eq_true, decide_eq_true_eq] at h
  obtain ⟨⟨⟨hcount, hstations⟩, honce⟩, -⟩ := h
  have hlength : (usedStations ps).length ≤ 4 := by
    simp only [usedStations, slice, List.length_take]
    omega
  simp [managersValid, hlength, hstations, honce]

/-! ### Rules -/

section Rules

variable {v c : Prop} {x : Classifier}

/-- Of a classifier in range every entry is in range, also one that there is not. -/
theorem ClsOk.ruleAt (h : ClsOk v c x) (i : Nat) :
    (v → ruleValid (ruleAt x i) = true) ∧ (c → (Machine.ruleAt x i).hits ≤ counterMax) := by
  rcases Nat.lt_or_ge i x.rules.length with hi | hi
  · have hat : Machine.ruleAt x i = x.rules[i] := (List.getElem_eq_getD Rule.cleared).symm
    rw [hat]
    exact ⟨fun hv => h.valid hv _ (List.getElem_mem hi), fun hc => h.hits hc _ (List.getElem_mem hi)⟩
  · have hat : Machine.ruleAt x i = Rule.cleared := by simp [Machine.ruleAt, hi]
    rw [hat]
    exact ⟨fun _ => rfl, fun _ => Nat.zero_le _⟩

/-- One entry replaced by one in range. -/
theorem ClsOk.setRule (h : ClsOk v c x) (i : Nat) {r : Rule} (hvalid : v → ruleValid r = true)
    (hhits : c → r.hits ≤ counterMax) : ClsOk v c (Machine.setRule x i r) where
  len hv := by simpa [Machine.setRule] using h.len hv
  valid hv r' hr' := (List.mem_or_eq_of_mem_set hr').elim (h.valid hv r') (fun e => e ▸ hvalid hv)
  hits hc r' hr' := (List.mem_or_eq_of_mem_set hr').elim (h.hits hc r') (fun e => e ▸ hhits hc)
  dflt := h.dflt
  defaultHits := h.defaultHits

/-- Every entry changed to one in range. -/
theorem ClsOk.mapRules (h : ClsOk v c x) {f : Rule → Rule}
    (hvalid : ∀ r, ruleValid r = true → ruleValid (f r) = true)
    (hhits : ∀ r : Rule, r.hits ≤ counterMax → (f r).hits ≤ counterMax) :
    ClsOk v c { x with rules := x.rules.map f } where
  len hv := by simpa using h.len hv
  valid hv r' hr' := by
    obtain ⟨r, hr, rfl⟩ := List.mem_map.mp hr'
    exact hvalid r (h.valid hv r hr)
  hits hc r' hr' := by
    obtain ⟨r, hr, rfl⟩ := List.mem_map.mp hr'
    exact hhits r (h.hits hc r hr)
  dflt := h.dflt
  defaultHits := h.defaultHits

theorem ClsOk.classify (h : ClsOk v c x) (p : Port) (d : Delivered) (now : Time) :
    ClsOk v c (Machine.classify x p d now).1 := by
  unfold Machine.classify
  split
  · unfold hitRule
    split
    · exact h
    · rename_i r hr
      have hmem : r ∈ x.rules := List.mem_of_getElem? hr
      exact h.setRule _ (fun hv => h.valid hv r hmem) (fun _ => bump_le _)
  · exact { h with defaultHits := fun _ => bump_le _ }

end Rules

/-! ### Commands -/

theorem StepKept.takeRequest {code : Byte} {f : Request → State → State} (hf : ∀ r, StepKept s (f r s)) :
    StepKept s (takeRequest code f s) := by
  unfold Machine.takeRequest
  split
  · exact (Kept.refl s).step
  · exact hf _

/-- A change of a line that a block takes. -/
theorem Kept.takeLink {who : LinkTaker} {p : Port} {up : Bool} (h : Machine.takeLink who p up s = some t) :
    Kept s t := by
  have hs := Kept.refl s
  unfold Machine.takeLink at h
  split at h
  · split at h
    · cases h; exact hs.setRaised
    · cases h
  · split at h
    · cases h
      apply Kept.setRaised
      exact hs.setPort ⟨(hs.port p).bounded, (hs.port p).counters⟩
    · cases h

theorem Kept.loseOnPort {s0 : State} (h : Kept s0 s) {p : Port} {i : SessionId} :
    Kept s0 (Machine.loseOnPort p i s) := by
  unfold Machine.loseOnPort
  split
  · exact h.loseSession
  · exact h

theorem Kept.raiseSent {s0 : State} (h : Kept s0 s) {p : Port} {x : Transmission} :
    Kept s0 (Machine.raiseSent p x s) := by
  unfold Machine.raiseSent
  split
  · exact h
  · exact h.raiseEnding

theorem Kept.transmissionEndAt {s0 : State} (h : Kept s0 s) {p : Port} {x : Transmission} :
    Kept s0 (Machine.transmissionEndAt p x s) := by
  have hport := (h.setPort (p := p) (h.port p).finishFrame.startFrame.refill).raiseSent (p := p) (x := x)
  unfold Machine.transmissionEndAt
  dsimp only
  split
  · exact hport
  · exact hport.tellEntered

theorem PortOk.takeWithdrawal {q c : Prop} {x y : PortState} (h : PortOk q c x) {who : Producer}
    (ht : Machine.takeWithdrawal x who = some y) : PortOk q c y := by
  unfold Machine.takeWithdrawal at ht
  split at ht
  · cases ht
  · cases ht; exact ⟨h.bounded, h.counters⟩

theorem Kept.tellWithdrawn {s0 : State} (h : Kept s0 s) {p : Port} {who : Producer} :
    Kept s0 (Machine.tellWithdrawn p who s) := by
  cases who
  · exact h
  · exact h.sessionWithdrawn
  · exact h.noticeKick

theorem Kept.beginStop {s0 : State} (h : Kept s0 s) {c : Current} : Kept s0 (Machine.beginStop c s) :=
  h.setStage.stopCapture

theorem Kept.mgmtEnding {s0 : State} (h : Kept s0 s) {n : Nat} {b : Bool} : Kept s0 (Machine.mgmtEnding n b s) := by
  unfold Machine.mgmtEnding
  split
  · exact h
  · dsimp only
    split
    case h_1 opened _ _ =>
      split
      · split <;> cases opened
        · exact h.beginStop
        · exact h.loseSession.beginStop
        · exact h.clearCurrent.nextRequest
        · exact h.loseSession.clearCurrent.nextRequest
      · exact h
    case h_2 =>
      split
      · exact h.beginStop
      · exact h
    all_goals exact h

theorem Kept.takeEnding {s0 : State} (h : Kept s0 s) {e : Ending} : Kept s0 (Machine.takeEnding e s) := by
  unfold Machine.takeEnding
  split
  · exact h.mgmtEnding
  · exact h
  · exact h.noticeEnding

theorem Kept.passMark {s0 : State} (h : Kept s0 s) {r : Result} {b : Bool} : Kept s0 (Machine.passMark r b s) := by
  unfold Machine.passMark
  split
  · exact h.setRaised
  · exact h

theorem Kept.noteLoss {s0 : State} (h : Kept s0 s) {x : Time} : Kept s0 (Machine.noteLoss x s) := by
  unfold Machine.noteLoss
  split
  · exact h
  · apply Kept.raiseEvent
    exact h.setPacker (h.packer.of rfl rfl)

theorem Kept.takeResult {s0 : State} (h : Kept s0 s) {r : Result} : Kept s0 (Machine.takeResult r s) := by
  unfold Machine.takeResult
  split
  · exact h.passMark
  · rename_i x _
    have hpacked := h.setPacker (h.packer.packCapture (flushInterval s) r x)
    dsimp only
    apply Kept.packed
    apply Kept.passMark
    split
    · exact hpacked
    · exact hpacked.noteLoss

theorem Kept.readDone {s0 : State} (h : Kept s0 s) {who : Requester} {r : ReadResult} :
    Kept s0 (Machine.readDone who r s) := by
  cases who
  case session => exact h.sessionRead
  case sequencer => exact h.mountReadDone
  all_goals exact h

theorem Kept.programDone {s0 : State} (h : Kept s0 s) {who : Requester} {b : Nat} {hd : PageHeader} {d : PageData}
    {ok : Bool} : Kept s0 (Machine.programDone who b hd d ok s) := by
  cases who
  case journal => exact h.journalProgrammed
  case logWriter =>
    cases ok
    · exact h.logFailed
    · exact h.logCommitted
  case sequencer => exact h.mountProgramDone
  all_goals exact h

theorem Kept.eraseDone {s0 : State} (h : Kept s0 s) {who : Requester} {b : Nat} {ok : Bool} :
    Kept s0 (Machine.eraseDone who b ok s) := by
  cases who
  case journal => exact h.journalErased
  case eraseAhead =>
    cases ok
    · exact h.eraseAheadFailed
    · exact h.eraseAheadErased
  case sequencer => exact h.mountEraseDone
  all_goals exact h

/-! ### One lemma for each command that does more than one shared operation -/

theorem Kept.setTimeBase {s0 : State} (h : Kept s0 s) {now : Time} : Kept s0 (moveTime now s) :=
  h.setPacker (h.packer.of rfl rfl)

theorem Kept.closeStaged {s0 : State} (h : Kept s0 s) : Kept s0 (s.setPacker (closeFilling s.packer)) :=
  h.setPacker h.packer.closeFilling

theorem Kept.setManagers {s0 : State} (h : Kept s0 s) {ms : List Byte} (hms : managersValid ms = true) :
    Kept s0 (putManagers ms s) := h.setMgmt { h.mgmt with managers := fun _ => hms }

theorem Kept.frameEndAt {s0 : State} (h : Kept s0 s) {p : Port} {bytes : Bytes} :
    Kept s0 (Machine.frameEndAt p bytes s) := by
  unfold Machine.frameEndAt
  dsimp only
  split
  · exact h.setPort ⟨(h.port p).bounded, (h.port p).counters⟩
  · apply Kept.setRaised
    exact h.setPort ((h.port p).received _ _)

/-- The counters cleared, as CLEAR_COUNTERS leaves them (R168). -/
theorem Kept.clearedCounters {s0 : State} (h : Kept s0 s) : Kept s0 (Machine.clearedCounters s) :=
  { h with
    store := h.store
    array := h.array
    pages := h.pages
    pa := ⟨h.pa.bounded, fun _ => by constructor <;> exact Nat.zero_le _⟩
    pb := ⟨h.pb.bounded, fun _ => by constructor <;> exact Nat.zero_le _⟩
    cls := { h.cls with defaultHits := fun _ => Nat.zero_le _ }
    packer := ⟨fun _ => Nat.zero_le _, fun _ => Nat.zero_le _⟩
    log := ⟨fun _ => Nat.zero_le _, fun _ => Nat.zero_le _, fun _ => Nat.zero_le _⟩
    ctl := ⟨h.ctl.settings, fun _ => Nat.zero_le _, fun _ => Nat.zero_le _, fun _ => Nat.zero_le _⟩
    jrnl := ⟨fun _ => Nat.zero_le _, fun _ => Nat.zero_le _⟩
    mgmt := { h.mgmt with
      discarded := fun _ => Nat.zero_le _, denied := fun _ => Nat.zero_le _, duplicates := fun _ => Nat.zero_le _ }
    notice := { h.notice with dropped := fun _ => Nat.zero_le _, discarded := fun _ => Nat.zero_le _ } }

/-- The part leaves RESET, in which no erase is suspended. -/
theorem Kept.leftReset (hpart : s.seqr.part = .reset) {a b : Bool} : Kept s (Machine.leftReset a b s) :=
  have h := Kept.refl s
  { h with
    store := h.store
    array := fun harray hsuspended => by
      have hready := (harray hsuspended).1
      rw [hpart] at hready
      cases hready
    pages := h.pages
    pa := ⟨h.pa.bounded, h.pa.counters⟩
    pb := ⟨h.pb.bounded, h.pb.counters⟩
    packer := h.packer.of rfl rfl
    notice := { h.notice with } }

/-- RESET_N taken low in RESET changes own address and cause alone. -/
theorem StepKept.lineInReset (hpart : s.seqr.part = .reset) {straps : Byte} :
    StepKept s (Machine.lineInReset straps s) where
  pending := rfl
  store := id
  array := id
  queues := id
  counters := id
  attempts := id
  credit := id
  settings := id
  station _ := isStation_strapAddress straps
  own hleft := absurd hpart hleft
  pages _ _ _ _ _ _ hpage := .inl hpage

/-- An outcome is a next state with what a step from `s` keeps. -/
def Goes (s : State) (o : Host.Outcome State Fault Refusal) : Prop := ∃ t, o = .next t ∧ StepKept s t

theorem StepKept.goes (h : StepKept s t) : Goes s (.next t) := ⟨t, rfl, h⟩

theorem Kept.goes (h : Kept s t) : Goes s (.next t) := h.step.goes

/-- A command that changes nothing. -/
theorem goes_same : Goes s (.next s) := (Kept.refl s).goes

/-- A request that its owner answers, or that was not handed to it. -/
theorem goes_takeRequest {code : Byte} {f : Request → State → State} (hf : ∀ r, StepKept s (f r s)) :
    Goes s (.next (takeRequest code f s)) := (StepKept.takeRequest hf).goes

theorem goes_powerOn (straps : Byte) : Goes s (execPowerOn straps s) :=
  ((Kept.refl s).beginReset (.inr (isStation_strapAddress straps))).goes

theorem goes_lineReset (straps : Byte) : Goes s (execLineReset straps s) := by
  apply StepKept.goes
  split
  · exact StepKept.lineInReset (by assumption)
  · exact (Kept.refl s).beginReset (.inr (isStation_strapAddress straps))

theorem goes_leaveReset (a b : Bool) : Goes s (execLeaveReset a b s) := by
  apply StepKept.goes
  split
  · exact (Kept.leftReset (by assumption)).beginMount.step
  · exact (Kept.refl s).step

/-! ### Links and frames -/

theorem goes_linkDown (p : Port) : Goes s (execLinkDown p s) := by
  unfold execLinkDown
  split
  · exact goes_same
  · rename_i t ht
    have h := Kept.takeLink ht
    exact (h.setPort (h.port p).portDown).setRaised.goes

theorem goes_linkUp (p : Port) : Goes s (execLinkUp p s) := by
  unfold execLinkUp
  split
  · exact goes_same
  · rename_i t ht
    have h := Kept.takeLink ht
    exact (h.setPort (h.port p).portUp).goes

theorem goes_sessionLinkLost (p : Port) : Goes s (execSessionLinkLost p s) := by
  unfold execSessionLinkLost
  split
  · exact goes_same
  · rename_i t ht
    exact (Kept.takeLink ht).loseOnPort.loseOnPort.goes

theorem goes_noticeLinkDown (p : Port) : Goes s (execNoticeLinkDown p s) := by
  unfold execNoticeLinkDown
  split
  · exact goes_same
  · rename_i t ht
    exact (Kept.takeLink ht).noticeDown.goes

theorem goes_noticeLinkUp (p : Port) : Goes s (execNoticeLinkUp p s) := by
  unfold execNoticeLinkUp
  split
  · exact goes_same
  · rename_i t ht
    exact (Kept.takeLink ht).noticeUp.goes

theorem goes_frameStart (p : Port) : Goes s (execFrameStart p s) := by
  apply Kept.goes
  have h := Kept.refl s
  split
  · exact h.setPort ⟨(h.port p).bounded, (h.port p).counters⟩
  · exact h

theorem goes_frameEnd (p : Port) (bytes : Bytes) : Goes s (execFrameEnd p bytes s) := by
  apply Kept.goes
  split
  · exact (Kept.refl s).frameEndAt
  · exact Kept.refl s

theorem goes_relayOffer (p : Port) : Goes s (execRelayOffer p s) := by
  unfold execRelayOffer
  split
  · exact goes_same
  · have h := Kept.refl s
    exact (h.setRaised.setPort ((h.port _).relayTake _)).goes

theorem goes_transmissionEnd (p : Port) : Goes s (execTransmissionEnd p s) := by
  unfold execTransmissionEnd
  split
  · exact goes_same
  · exact (Kept.refl s).transmissionEndAt.goes

theorem goes_frameWithdrawal (p : Port) (who : Producer) : Goes s (execFrameWithdrawal p who s) := by
  unfold execFrameWithdrawal
  split
  · exact goes_same
  · rename_i x hx
    have h := Kept.refl s
    exact (h.setPort ((h.port p).takeWithdrawal hx)).tellWithdrawn.goes

theorem goes_localFrameEnding (p : Port) (who : Producer) : Goes s (execLocalFrameEnding p who s) := by
  unfold execLocalFrameEnding
  split
  · exact goes_same
  · exact (Kept.refl s).setRaised.takeEnding.settle.goes

theorem goes_frameReceived (p : Port) : Goes s (execFrameReceived p s) := by
  unfold execFrameReceived
  split
  · exact goes_same
  · have h := Kept.refl s
    exact ((h.setCls (h.cls.classify _ _ _)).setRaised).goes

theorem goes_classificationResult : Goes s (execClassificationResult s) := by
  unfold execClassificationResult
  split
  · exact goes_same
  · apply StepKept.goes
    split
    · exact (Kept.refl s).setRaised.step
    · exact (Kept.refl s).setRaised.takeResult.settle

theorem goes_triggerMark : Goes s (execTriggerMark s) := by
  unfold execTriggerMark
  split
  · exact goes_same
  · exact (Kept.refl s).setRaised.takeMark.goes

theorem goes_noticeEvent (src : EventSource) : Goes s (execNoticeEvent src s) := by
  unfold execNoticeEvent
  split
  · exact goes_same
  · exact (Kept.refl s).setRaised.takeEvent.goes

theorem goes_requestArrival (p : Port) : Goes s (execRequestArrival p s) := by
  unfold execRequestArrival
  split
  · exact goes_same
  · exact (Kept.refl s).setRaised.arrive.goes

/-! ### Closures, timers and the ends of array operations -/

theorem goes_postingClosure : Goes s (execPostingClosure s) := by
  apply StepKept.goes
  split
  · exact (Kept.refl s).step
  · have h := Kept.refl s
    exact (h.setRaised.setPacker h.packer.closeFilling).settle

theorem goes_flushTimerExpiry : Goes s (execFlushTimerExpiry s) := by
  apply StepKept.goes
  have h := Kept.refl s
  split
  · exact h.step
  · apply Kept.settle
    apply h.setPacker
    apply PackerOk.closeFilling
    exact h.packer.of rfl rfl

theorem goes_postTimeExpiry : Goes s (execPostTimeExpiry s) := by
  apply StepKept.goes
  have h := Kept.refl s
  split
  · exact h.step
  · apply Kept.settle
    apply Kept.endPosting
    exact h.setCtl rfl rfl rfl rfl

theorem goes_holdoffExpiry : Goes s (execHoldoffExpiry s) := by
  apply Kept.goes
  exact (Kept.refl s).setCtl rfl rfl rfl rfl

theorem goes_idleTimerExpiry (i : SessionId) : Goes s (execIdleTimerExpiry i s) := by
  apply Kept.goes
  split
  · apply Kept.endSession
    exact (Kept.refl s).sessionChange (fun _ => rfl)
  · exact Kept.refl s

theorem goes_readPageEnd : Goes s (execReadPageEnd s) := by
  unfold execReadPageEnd
  split
  · exact goes_same
  · rename_i x hx
    split
    case h_1 hreq =>
      apply StepKept.goes
      apply Kept.settle
      apply Kept.readDone
      apply (Kept.refl s).arrayFree
      intro r hr b hb
      rw [hx] at hr
      cases hr
      rw [hreq] at hb
      cases hb
    all_goals exact goes_same

theorem goes_programPageEnd (r : ProgramEnd) : Goes s (execProgramPageEnd r s) := by
  unfold execProgramPageEnd
  split
  · exact goes_same
  · rename_i x hx
    split
    case h_1 hreq =>
      apply StepKept.goes
      apply Kept.settle
      apply Kept.programDone
      apply (Kept.refl s).programStore.arrayFree
      intro y hy b hb
      rw [State.setStore_arr, hx] at hy
      cases hy
      rw [hreq] at hb
      cases hb
    all_goals exact goes_same

theorem goes_eraseBlockEnd (r : EraseEnd) : Goes s (execEraseBlockEnd r s) := by
  unfold execEraseBlockEnd
  split
  · exact goes_same
  · rename_i x hx
    split
    case h_1 b hreq =>
      have hout : ∀ y, s.arr.running = some y → ∀ c, y.req = .erase c → eraseOut s.arr c = true := by
        intro y hy c hc
        simp [eraseOut, runningErase, hy, hc]
      apply StepKept.goes
      apply Kept.settle
      apply Kept.eraseDone
      exact ((Kept.refl s).eraseStore (hout x hx b hreq)).arrayFree hout
    all_goals exact goes_same

/-! ### Requests -/

theorem goes_restart : Goes s (execRestart s) := goes_takeRequest fun _ => (Kept.refl s).answerWith.step

theorem goes_clearCounters : Goes s (execClearCounters s) :=
  goes_takeRequest fun _ => (Kept.refl s).clearedCounters.respond.step

theorem goes_setManagers : Goes s (execSetManagers s) := goes_takeRequest fun r => by
  split
  · rename_i h
    exact ((Kept.refl s).setManagers (setManagersValid_managers h)).respond.step
  · exact (Kept.refl s).respond.step

theorem goes_writeRule : Goes s (execWriteRule s) := goes_takeRequest fun r => by
  have h := Kept.refl s
  split
  · exact h.respond.step
  · rename_i e he
    obtain ⟨hvalid, hhits⟩ := readRuleEntry_valid he
    split
    · exact (h.setCls (h.cls.setRule _ (fun _ => hvalid) (fun _ => by omega))).respond.step
    · exact h.respond.step

theorem goes_readRule : Goes s (execReadRule s) := goes_takeRequest fun r => by
  split <;> exact (Kept.refl s).respond.step

theorem StepKept.moveRule (st : RuleState) (r : Request) : StepKept s (Machine.moveRule st r s) := by
  have h := Kept.refl s
  unfold Machine.moveRule
  split
  · dsimp only
    split
    · exact h.respond.step
    · obtain ⟨hvalid, hhits⟩ := h.cls.ruleAt (ruleIndex r.params)
      apply Kept.step
      apply Kept.respond
      exact h.setCls (h.cls.setRule _ hvalid hhits)
  · exact h.respond.step

/-- A change that leaves an entry in range leaves every entry in range. -/
theorem StepKept.changeRules {f : Rule → Rule} (hvalid : ∀ r, ruleValid r = true → ruleValid (f r) = true)
    (hhits : ∀ r : Rule, r.hits ≤ counterMax → (f r).hits ≤ counterMax) (r : Request) :
    StepKept s (Machine.changeRules f r s) := by
  have h := Kept.refl s
  obtain ⟨hruleValid, hruleHits⟩ := h.cls.ruleAt (ruleIndex r.params)
  unfold Machine.changeRules
  split
  · exact (h.setCls (h.cls.mapRules hvalid hhits)).respond.step
  · split
    · exact (h.setCls (h.cls.setRule _ (fun hv => hvalid _ (hruleValid hv))
        (fun hc => hhits _ (hruleHits hc)))).respond.step
    · exact h.respond.step

theorem goes_clearRule : Goes s (execClearRule s) :=
  goes_takeRequest (StepKept.changeRules (fun _ _ => rfl) (fun _ _ => Nat.zero_le _))

theorem goes_clearHits : Goes s (execClearHits s) :=
  goes_takeRequest (StepKept.changeRules (fun _ hr => hr) (fun _ _ => Nat.zero_le _))

theorem goes_setDefaultAction : Goes s (execSetDefaultAction s) := goes_takeRequest fun r => by
  have h := Kept.refl s
  split
  · exact h.respond.step
  · split
    · rename_i hdflt
      apply Kept.step
      apply Kept.respond
      exact h.setCls { h.cls with dflt := fun _ => hdflt }
    · exact h.respond.step

theorem goes_flush : Goes s (execFlush s) := goes_takeRequest fun _ => (Kept.refl s).closeStaged.respond.settle

theorem goes_setTime : Goes s (execSetTime s) := goes_takeRequest fun _ => by
  have h := Kept.refl s
  dsimp only
  split
  · exact h.setTimeBase.respond.step
  · split
    · exact (h.setPacker (h.packer.packTimeSet _ _)).packed.respond.settle
    · exact h.respond.step

theorem goes_setCapture : Goes s (execSetCapture s) := goes_takeRequest fun _ => by
  have h := Kept.refl s
  split
  · exact h.respond.step
  · split
    · exact h.respond.step
    · rename_i x hx
      apply Kept.step
      apply Kept.respond
      exact h.setCtlOk { h.ctl with settings := fun _ => readSettings_valid hx }

theorem goes_startCapture : Goes s (execStartCapture s) := goes_takeRequest fun _ => by
  have h := (Kept.refl s).startCapture
  dsimp only
  split
  · exact h.respond.step
  · exact h.respond.step
  · exact h.respond.settle

theorem goes_stopCapture : Goes s (execStopCapture s) :=
  goes_takeRequest fun _ => (Kept.refl s).stopCapture.respond.settle

theorem goes_forceTrigger : Goes s (execForceTrigger s) := goes_takeRequest fun _ => by
  dsimp only
  split <;> exact (Kept.refl s).takeMark.respond.step

theorem goes_readRecording : Goes s (execReadRecording s) := goes_takeRequest fun _ => by
  split <;> exact (Kept.refl s).respond.step

theorem goes_releaseRecording : Goes s (execReleaseRecording s) := goes_takeRequest fun _ => by
  have h := Kept.refl s
  split
  · exact h.respond.step
  · split
    · exact h.respond.step
    · exact h.awaitStore.askJob.settle

theorem goes_freezeRecording : Goes s (execFreezeRecording s) := goes_takeRequest fun _ => by
  have h := Kept.refl s
  split
  · exact h.respond.step
  · split
    · exact h.respond.step
    · exact h.awaitStore.askJob.settle

theorem goes_saveProfile : Goes s (execSaveProfile s) := goes_takeRequest fun _ => by
  split
  · exact (Kept.refl s).respond.step
  · exact (Kept.refl s).awaitStore.askJob.settle

theorem goes_clearProfile : Goes s (execClearProfile s) :=
  goes_takeRequest fun _ => (Kept.refl s).awaitStore.askJob.settle

theorem openCredit_le {o : OpenParams} (h : ¬ openValid o = false) : o.credit ≤ 16 := by
  simp only [Bool.not_eq_false, openValid, Bool.and_eq_true, decide_eq_true_eq] at h
  exact h.1.1

theorem goes_openRetrieval : Goes s (execOpenRetrieval s) := goes_takeRequest fun _ => by
  have h := Kept.refl s
  dsimp only
  split
  · exact h.respond.step
  · rename_i hvalid
    split
    · exact h.respond.step
    · split
      · exact h.respond.step
      · exact (h.openSession (openCredit_le hvalid)).answerWith.step

theorem goes_grantCredit : Goes s (execGrantCredit s) := goes_takeRequest fun _ => by
  have h := Kept.refl s
  dsimp only
  split
  · exact h.respond.step
  · split
    · exact h.respond.step
    · split
      · exact (h.setSession (fun _ => Nat.min_le_left _ _)).respond.sessionPlace.step
      · exact h.respond.step

theorem goes_closeRetrieval : Goes s (execCloseRetrieval s) := goes_takeRequest fun _ => by
  split
  · exact (Kept.refl s).respond.step
  · split
    · exact (Kept.refl s).respond.endSession.step
    · exact (Kept.refl s).respond.step

theorem goes_setNotify : Goes s (execSetNotify s) := goes_takeRequest fun _ => by
  have h := Kept.refl s
  split
  · exact h.respond.step
  · rename_i x hx
    exact (h.putNotify (readNotify_valid hx)).respond.step

theorem goes_ackNotice : Goes s (execAckNotice s) := goes_takeRequest fun _ => by
  split
  · exact (Kept.refl s).ackHead.respond.step
  · exact (Kept.refl s).respond.step

/-! ### Every command -/

/-- Every command in every state goes on, and keeps what a step keeps. -/
theorem goes_exec (c : Instr) (s : State) : Goes s (exec c s) := by
  cases c with
  | powerOn straps => exact goes_powerOn straps
  | lineReset straps => exact goes_lineReset straps
  | leaveReset a b => exact goes_leaveReset a b
  | linkDown p => exact goes_linkDown p
  | linkUp p => exact goes_linkUp p
  | sessionLinkLost p => exact goes_sessionLinkLost p
  | noticeLinkDown p => exact goes_noticeLinkDown p
  | noticeLinkUp p => exact goes_noticeLinkUp p
  | frameEnd p bytes => exact goes_frameEnd p bytes
  | relayOffer p => exact goes_relayOffer p
  | frameReceived p => exact goes_frameReceived p
  | classificationResult => exact goes_classificationResult
  | triggerMark => exact goes_triggerMark
  | postingClosure => exact goes_postingClosure
  | flushTimerExpiry => exact goes_flushTimerExpiry
  | postTimeExpiry => exact goes_postTimeExpiry
  | holdoffExpiry => exact goes_holdoffExpiry
  | idleTimerExpiry i => exact goes_idleTimerExpiry i
  | retryTimerExpiry => exact (Kept.refl s).retryExpired.goes
  | readPageEnd => exact goes_readPageEnd
  | programPageEnd r => exact goes_programPageEnd r
  | eraseBlockEnd r => exact goes_eraseBlockEnd r
  | frameWithdrawal p who => exact goes_frameWithdrawal p who
  | transmissionEnd p => exact goes_transmissionEnd p
  | localFrameEnding p who => exact goes_localFrameEnding p who
  | requestArrival p => exact goes_requestArrival p
  | discover => exact goes_takeRequest fun _ => (Kept.refl s).respond.step
  | readStatus => exact goes_takeRequest fun _ => (Kept.refl s).respond.step
  | readCounters => exact goes_takeRequest fun _ => (Kept.refl s).respond.step
  | clearCounters => exact goes_clearCounters
  | setManagers => exact goes_setManagers
  | restart => exact goes_restart
  | writeRule => exact goes_writeRule
  | readRule => exact goes_readRule
  | enableRule => exact goes_takeRequest (StepKept.moveRule .enabled)
  | disableRule => exact goes_takeRequest (StepKept.moveRule .disabled)
  | clearRule => exact goes_clearRule
  | clearHits => exact goes_clearHits
  | setDefaultAction => exact goes_setDefaultAction
  | flush => exact goes_flush
  | setTime => exact goes_setTime
  | setCapture => exact goes_setCapture
  | startCapture => exact goes_startCapture
  | stopCapture => exact goes_stopCapture
  | forceTrigger => exact goes_forceTrigger
  | listRecordings => exact goes_takeRequest fun _ => (Kept.refl s).respond.step
  | readRecording => exact goes_readRecording
  | releaseRecording => exact goes_releaseRecording
  | freezeRecording => exact goes_freezeRecording
  | saveProfile => exact goes_saveProfile
  | clearProfile => exact goes_clearProfile
  | openRetrieval => exact goes_openRetrieval
  | grantCredit => exact goes_grantCredit
  | closeRetrieval => exact goes_closeRetrieval
  | setNotify => exact goes_setNotify
  | ackNotice => exact goes_ackNotice
  | noticeEvent src => exact goes_noticeEvent src
  | frameStart p => exact goes_frameStart p

/-! ### Every step -/

/-- A step goes on, and keeps what a step keeps but for the waiting commands. -/
theorem step_keeps (h : step s = .next t) : ∃ s0 : State, StepKept s0 t ∧ ∃ rest, s0 = s.setPending rest := by
  unfold step at h
  split at h
  · cases h
    refine ⟨s, ?_, s.pending, rfl⟩
    unfold tick
    split
    · exact (Kept.refl s).step
    · exact (Kept.refl s).setTimeBase.step
  · rename_i c rest _
    obtain ⟨u, hu, hkept⟩ := goes_exec c (s.setPending rest)
    rw [h] at hu
    cases hu
    exact ⟨_, hkept, rest, rfl⟩

/-- Settles O3: every command goes on and keeps the queue. -/
theorem everyCommandGoesOnAndKeepsTheQueue : Obligations.EveryCommandGoesOnAndKeepsTheQueue := by
  unfold Obligations.EveryCommandGoesOnAndKeepsTheQueue
  intro c s
  obtain ⟨t, ht, hkept⟩ := goes_exec c s
  exact ⟨t, ht, hkept.pending⟩

/-- Settles O5, by what every operation keeps of the Page Array and of a suspended erase. -/
theorem pageArrayAndSuspendedEraseStaySound : Obligations.PageArrayAndSuspendedEraseStaySound := by
  unfold Obligations.PageArrayAndSuspendedEraseStaySound
  intro s t h
  obtain ⟨_, hkept, rest, rfl⟩ := step_keeps h
  exact ⟨hkept.store, hkept.array⟩

/-- Settles O6, by what every operation keeps of the written pages. -/
theorem writtenPagesLastUntilTheirBlockIsErased : Obligations.WrittenPagesLastUntilTheirBlockIsErased := by
  unfold Obligations.WrittenPagesLastUntilTheirBlockIsErased
  intro s t harray h hpart
  obtain ⟨_, hkept, rest, rfl⟩ := step_keeps h
  exact hkept.pages hpart harray

/-- Settles O7, by what every operation keeps of queues, counters, attempts and credit. -/
theorem queuesCountersAndCreditKeepTheirBounds : Obligations.QueuesCountersAndCreditKeepTheirBounds := by
  unfold Obligations.QueuesCountersAndCreditKeepTheirBounds
  intro s t h
  obtain ⟨_, hkept, rest, rfl⟩ := step_keeps h
  exact ⟨hkept.queues, hkept.counters, hkept.attempts, hkept.credit⟩

/-- Settles O8, by what every operation keeps of the settings and the own address. -/
theorem settingsAndOwnAddressStayInRange : Obligations.SettingsAndOwnAddressStayInRange := by
  unfold Obligations.SettingsAndOwnAddressStayInRange
  intro s t h
  obtain ⟨_, hkept, rest, rfl⟩ := step_keeps h
  exact ⟨hkept.settings, hkept.station, hkept.own⟩

end Sys2Proof.Machine
end

section
/-! PROOF. Every step keeps the staging buffers in order (R28, R36, R38, R41): each command through the lemmas of Staged. -/

set_option Elab.async false

namespace Sys2Proof.Machine

variable {s : State}

/-- An outcome is a next state with the staging buffers in order. -/
def GoesStaged (o : Host.Outcome State Fault Refusal) : Prop := ∃ t, o = .next t ∧ Staged t

theorem Has.goes {t : State} (h : Staged t) : GoesStaged (.next t) := ⟨t, rfl, h⟩

/-- A request that its owner answers, or that was not handed to it. -/
theorem staged_takeRequest {code : Byte} {f : Request → State → State} (h : Staged s)
    (hf : ∀ r t, Staged t → Staged (f r t)) : GoesStaged (.next (takeRequest code f s)) :=
  Has.goes (h.takeRequest hf)

theorem Has.respond {q : Packer → Prop} (h : Has q s) {st : Status} {b : Bytes} : Has q (Machine.respond st b s) :=
  Has.steady.respond h

theorem Staged.setStore (h : Staged s) {x : List (Nat × Page)} : Staged (s.setStore x) := h

theorem Staged.closeStaged (h : Staged s) : Staged (s.setPacker (closeFilling s.packer)) := StagingWf.closeFilling h

/-! ### Starts and links -/

theorem staged_lineReset (h : Staged s) (straps : Byte) : GoesStaged (execLineReset straps s) :=
  Has.goes (ite_staged h.setSeqr Staged.beginReset)

theorem staged_leaveReset (h : Staged s) (a b : Bool) : GoesStaged (execLeaveReset a b s) := by
  have hleft : Staged (leftReset a b s) := StagingWf.of_eq h rfl rfl rfl rfl rfl
  exact Has.goes (ite_staged hleft.beginMount h)

theorem staged_linkDown (h : Staged s) (p : Port) : GoesStaged (execLinkDown p s) := by
  unfold execLinkDown
  split
  · exact Has.goes h
  · rename_i t ht
    exact Has.goes (staged_port (takeLink_staged h ht)).setRaised

theorem staged_linkUp (h : Staged s) (p : Port) : GoesStaged (execLinkUp p s) := by
  unfold execLinkUp
  split
  · exact Has.goes h
  · rename_i t ht
    exact Has.goes (staged_port (takeLink_staged h ht))

theorem Staged.loseOnPort (h : Staged s) {p : Port} {i : SessionId} : Staged (Machine.loseOnPort p i s) :=
  ite_staged (Has.steady.loseSession h) h

theorem staged_sessionLinkLost (h : Staged s) (p : Port) : GoesStaged (execSessionLinkLost p s) := by
  unfold execSessionLinkLost
  split
  · exact Has.goes h
  · rename_i t ht
    exact Has.goes (takeLink_staged h ht).loseOnPort.loseOnPort

theorem staged_noticeLinkDown (h : Staged s) (p : Port) : GoesStaged (execNoticeLinkDown p s) := by
  unfold execNoticeLinkDown
  split
  · exact Has.goes h
  · rename_i t ht
    exact Has.goes (Has.steady.noticeDown (takeLink_staged h ht))

theorem staged_noticeLinkUp (h : Staged s) (p : Port) : GoesStaged (execNoticeLinkUp p s) := by
  unfold execNoticeLinkUp
  split
  · exact Has.goes h
  · rename_i t ht
    exact Has.goes (Has.steady.noticeUp (takeLink_staged h ht))

/-! ### Frames -/

theorem staged_frameEnd (h : Staged s) (p : Port) (bytes : Bytes) : GoesStaged (execFrameEnd p bytes s) := by
  refine Has.goes (ite_staged ?_ h)
  unfold frameEndAt
  exact ite_staged (staged_port h) (staged_port h).setRaised

theorem staged_relayOffer (h : Staged s) (p : Port) : GoesStaged (execRelayOffer p s) := by
  unfold execRelayOffer
  split
  · exact Has.goes h
  · exact Has.goes (staged_port h.setRaised)

theorem Staged.transmissionEndAt (h : Staged s) {p : Port} {x : Transmission} :
    Staged (Machine.transmissionEndAt p x s) := by
  have hsent : Staged (raiseSent p x (s.setPort p (refill (startFrame (finishFrame (s.port p)))).1)) := by
    unfold raiseSent
    split
    · exact staged_port h
    · exact (staged_port h).setRaised
  unfold Machine.transmissionEndAt
  dsimp only
  split
  · exact hsent
  · exact Has.steady.tellEntered hsent

theorem staged_transmissionEnd (h : Staged s) (p : Port) : GoesStaged (execTransmissionEnd p s) := by
  unfold execTransmissionEnd
  split
  · exact Has.goes h
  · exact Has.goes h.transmissionEndAt

theorem staged_frameWithdrawal (h : Staged s) (p : Port) (who : Producer) :
    GoesStaged (execFrameWithdrawal p who s) := by
  unfold execFrameWithdrawal
  split
  · exact Has.goes h
  · apply Has.goes
    cases who
    · exact staged_port h
    · exact Has.steady.sessionWithdrawn (staged_port h)
    · exact Has.steady.noticeKick (staged_port h)

theorem staged_localFrameEnding (h : Staged s) (p : Port) (who : Producer) :
    GoesStaged (execLocalFrameEnding p who s) := by
  unfold execLocalFrameEnding
  split
  · exact Has.goes h
  · exact Has.goes (Staged.settle (Staged.takeEnding h.setRaised))

theorem staged_frameReceived (h : Staged s) (p : Port) : GoesStaged (execFrameReceived p s) := by
  unfold execFrameReceived
  split
  · exact Has.goes h
  · exact Has.goes h.setCls.setRaised

theorem staged_classificationResult (h : Staged s) : GoesStaged (execClassificationResult s) := by
  unfold execClassificationResult
  split
  · exact Has.goes h
  · exact Has.goes (ite_staged h.setRaised (Staged.settle (Staged.takeResult h.setRaised)))

theorem staged_triggerMark (h : Staged s) : GoesStaged (execTriggerMark s) := by
  unfold execTriggerMark
  split
  · exact Has.goes h
  · exact Has.goes h.setRaised.takeMark

theorem staged_noticeEvent (h : Staged s) (src : EventSource) : GoesStaged (execNoticeEvent src s) := by
  unfold execNoticeEvent
  split
  · exact Has.goes h
  · exact Has.goes (Has.steady.takeEvent h.setRaised)

theorem staged_requestArrival (h : Staged s) (p : Port) : GoesStaged (execRequestArrival p s) := by
  unfold execRequestArrival
  split
  · exact Has.goes h
  · exact Has.goes (Has.steady.arrive h.setRaised)

/-! ### Closures, timers and the ends of array operations -/

theorem staged_postingClosure (h : Staged s) : GoesStaged (execPostingClosure s) :=
  Has.goes (ite_staged h (Staged.settle (Has.setPacker (StagingWf.closeFilling h))))

theorem staged_flushTimerExpiry (h : Staged s) : GoesStaged (execFlushTimerExpiry s) :=
  Has.goes (ite_staged h (Staged.settle (Has.setPacker (StagingWf.closeFilling (StagingWf.noTimer h)))))

theorem staged_postTimeExpiry (h : Staged s) : GoesStaged (execPostTimeExpiry s) :=
  Has.goes (ite_staged h (Staged.settle (Has.endPosting h.setCtl)))

theorem staged_idleTimerExpiry (h : Staged s) (i : SessionId) : GoesStaged (execIdleTimerExpiry i s) :=
  Has.goes (ite_staged (Has.steady.endSession (Has.steady.sessionChange h)) h)

theorem staged_readPageEnd (h : Staged s) : GoesStaged (execReadPageEnd s) := by
  unfold execReadPageEnd
  split
  · exact Has.goes h
  · split
    · exact Has.goes (Staged.settle (Staged.readDone h.arrayFree))
    all_goals exact Has.goes h

theorem staged_programPageEnd (h : Staged s) (r : ProgramEnd) : GoesStaged (execProgramPageEnd r s) := by
  unfold execProgramPageEnd
  split
  · exact Has.goes h
  · split
    · exact Has.goes (Staged.settle (Staged.programDone (Has.arrayFree (Staged.setStore h))))
    all_goals exact Has.goes h

theorem staged_eraseBlockEnd (h : Staged s) (r : EraseEnd) : GoesStaged (execEraseBlockEnd r s) := by
  unfold execEraseBlockEnd
  split
  · exact Has.goes h
  · split
    · exact Has.goes (Staged.settle (Staged.eraseDone (Has.arrayFree (Staged.setStore h))))
    all_goals exact Has.goes h

/-! ### Requests -/

/-- A request whose owner changes what is not the Packer's before it answers. -/
theorem staged_moveRule (h : Staged s) (code : Byte) (st : RuleState) :
    GoesStaged (.next (takeRequest code (moveRule st) s)) := staged_takeRequest h fun r t ht => by
  unfold moveRule
  exact ite_staged (ite_staged ht.respond ht.setCls.respond) ht.respond

theorem staged_changeRules (h : Staged s) (code : Byte) (f : Rule → Rule) :
    GoesStaged (.next (takeRequest code (changeRules f) s)) := staged_takeRequest h fun r t ht => by
  unfold changeRules
  exact ite_staged ht.setCls.respond (ite_staged ht.setCls.respond ht.respond)

theorem staged_writeRule (h : Staged s) : GoesStaged (execWriteRule s) := staged_takeRequest h fun r t ht => by
  split
  · exact ht.respond
  · exact ite_staged ht.setCls.respond ht.respond

theorem staged_setDefaultAction (h : Staged s) : GoesStaged (execSetDefaultAction s) :=
  staged_takeRequest h fun r t ht => by
    split
    · exact ht.respond
    · exact ite_staged ht.setCls.respond ht.respond

theorem staged_clearCounters (h : Staged s) : GoesStaged (execClearCounters s) :=
  staged_takeRequest h fun _ t ht => by
    have hcleared : Staged (clearedCounters t) := StagingWf.of_eq ht rfl rfl rfl rfl rfl
    exact hcleared.respond

theorem staged_setTime (h : Staged s) : GoesStaged (execSetTime s) := staged_takeRequest h fun r t ht => by
  have hmoved : Staged (moveTime (BitVec.ofNat 32 (fieldAt 0 4 r.params)) t) :=
    StagingWf.of_eq ht rfl rfl rfl rfl rfl
  exact ite_staged hmoved.respond
    (ite_staged (Staged.settle (Staged.packed (Has.setPacker (StagingWf.packTimeSet ht))).respond) ht.respond)

theorem staged_setCapture (h : Staged s) : GoesStaged (execSetCapture s) := staged_takeRequest h fun _ t ht => by
  refine ite_staged ht.respond ?_
  split
  · exact ht.respond
  · exact ht.setCtl.respond

theorem staged_startCapture (h : Staged s) : GoesStaged (execStartCapture s) := staged_takeRequest h fun _ t ht => by
  have hstarted := Staged.startCapture ht
  dsimp only
  split
  · exact hstarted.respond
  · exact hstarted.respond
  · exact Staged.settle hstarted.respond

theorem staged_forceTrigger (h : Staged s) : GoesStaged (execForceTrigger s) := staged_takeRequest h fun _ t ht => by
  dsimp only
  split <;> exact ht.takeMark.respond

theorem staged_readRecording (h : Staged s) : GoesStaged (execReadRecording s) := staged_takeRequest h fun _ t ht => by
  split <;> exact ht.respond

/-- A job asked for a request that waits for the array. -/
theorem Staged.askStore (h : Staged s) {j : Job} : Staged (Machine.settle (askJob j (awaitStore s))) :=
  Staged.settle (Has.steady.askJob (Has.steady.awaitStore h))

theorem staged_releaseRecording (h : Staged s) : GoesStaged (execReleaseRecording s) :=
  staged_takeRequest h fun _ t ht => by
    split
    · exact ht.respond
    · split
      · exact ht.respond
      · exact ht.askStore

theorem staged_freezeRecording (h : Staged s) : GoesStaged (execFreezeRecording s) :=
  staged_takeRequest h fun _ t ht => by
    split
    · exact ht.respond
    · split
      · exact ht.respond
      · exact ht.askStore

theorem staged_openRetrieval (h : Staged s) : GoesStaged (execOpenRetrieval s) :=
  staged_takeRequest h fun _ t ht => by
    refine ite_staged ht.respond ?_
    split
    · exact ht.respond
    · split
      · exact ht.respond
      · exact Has.steady.answerWith (Has.steady.openSession ht)

theorem staged_grantCredit (h : Staged s) : GoesStaged (execGrantCredit s) := staged_takeRequest h fun _ t ht => by
  dsimp only
  split
  · exact ht.respond
  · exact ite_staged ht.respond
      (ite_staged (Has.steady.sessionPlace (Has.respond (Has.steady.sessionChange ht))) ht.respond)

theorem staged_closeRetrieval (h : Staged s) : GoesStaged (execCloseRetrieval s) :=
  staged_takeRequest h fun _ t ht => by
    split
    · exact ht.respond
    · exact ite_staged (Has.steady.endSession ht.respond) ht.respond

theorem staged_setNotify (h : Staged s) : GoesStaged (execSetNotify s) := staged_takeRequest h fun _ t ht => by
  split
  · exact ht.respond
  · exact Has.respond (Has.steady.putNotify ht)

/-! ### Every command -/

/-- Every command keeps the staging buffers in order. -/
theorem staged_exec (c : Instr) (h : Staged s) : GoesStaged (exec c s) := by
  cases c with
  | powerOn straps => exact Has.goes Staged.beginReset
  | lineReset straps => exact staged_lineReset h straps
  | leaveReset a b => exact staged_leaveReset h a b
  | linkDown p => exact staged_linkDown h p
  | linkUp p => exact staged_linkUp h p
  | sessionLinkLost p => exact staged_sessionLinkLost h p
  | noticeLinkDown p => exact staged_noticeLinkDown h p
  | noticeLinkUp p => exact staged_noticeLinkUp h p
  | frameEnd p bytes => exact staged_frameEnd h p bytes
  | relayOffer p => exact staged_relayOffer h p
  | frameReceived p => exact staged_frameReceived h p
  | classificationResult => exact staged_classificationResult h
  | triggerMark => exact staged_triggerMark h
  | postingClosure => exact staged_postingClosure h
  | flushTimerExpiry => exact staged_flushTimerExpiry h
  | postTimeExpiry => exact staged_postTimeExpiry h
  | holdoffExpiry => exact Has.goes h.setCtl
  | idleTimerExpiry i => exact staged_idleTimerExpiry h i
  | retryTimerExpiry => exact Has.goes (Has.steady.retryExpired h)
  | readPageEnd => exact staged_readPageEnd h
  | programPageEnd r => exact staged_programPageEnd h r
  | eraseBlockEnd r => exact staged_eraseBlockEnd h r
  | frameWithdrawal p who => exact staged_frameWithdrawal h p who
  | transmissionEnd p => exact staged_transmissionEnd h p
  | localFrameEnding p who => exact staged_localFrameEnding h p who
  | requestArrival p => exact staged_requestArrival h p
  | discover => exact staged_takeRequest h fun _ _ ht => ht.respond
  | readStatus => exact staged_takeRequest h fun _ _ ht => ht.respond
  | readCounters => exact staged_takeRequest h fun _ _ ht => ht.respond
  | clearCounters => exact staged_clearCounters h
  | setManagers => exact staged_takeRequest h fun _ _ ht => ite_staged (Has.respond ht.setMgmt) ht.respond
  | restart => exact staged_takeRequest h fun _ _ ht => Has.steady.answerWith ht
  | writeRule => exact staged_writeRule h
  | readRule => exact staged_takeRequest h fun _ _ ht => ite_staged ht.respond ht.respond
  | enableRule => exact staged_moveRule h _ .enabled
  | disableRule => exact staged_moveRule h _ .disabled
  | clearRule => exact staged_changeRules h _ _
  | clearHits => exact staged_changeRules h _ _
  | setDefaultAction => exact staged_setDefaultAction h
  | flush => exact staged_takeRequest h fun _ _ ht => Staged.settle ht.closeStaged.respond
  | setTime => exact staged_setTime h
  | setCapture => exact staged_setCapture h
  | startCapture => exact staged_startCapture h
  | stopCapture => exact staged_takeRequest h fun _ _ ht => Staged.settle (Staged.stopCapture ht).respond
  | forceTrigger => exact staged_forceTrigger h
  | listRecordings => exact staged_takeRequest h fun _ _ ht => ht.respond
  | readRecording => exact staged_readRecording h
  | releaseRecording => exact staged_releaseRecording h
  | freezeRecording => exact staged_freezeRecording h
  | saveProfile => exact staged_takeRequest h fun _ _ ht => ite_staged ht.respond ht.askStore
  | clearProfile => exact staged_takeRequest h fun _ _ ht => ht.askStore
  | openRetrieval => exact staged_openRetrieval h
  | grantCredit => exact staged_grantCredit h
  | closeRetrieval => exact staged_closeRetrieval h
  | setNotify => exact staged_setNotify h
  | ackNotice => exact staged_takeRequest h fun _ _ ht => ite_staged (Has.respond (Has.steady.ackHead ht)) ht.respond
  | noticeEvent src => exact staged_noticeEvent h src
  | frameStart p => exact Has.goes (ite_staged (staged_port h) h)

/-- Settles O9: a step runs the front command, or counts the Time Base, which leaves the buffers. -/
theorem stagingBuffersStayInOrder : Obligations.StagingBuffersStayInOrder := by
  unfold Obligations.StagingBuffersStayInOrder
  intro s t h hstep
  unfold step at hstep
  split at hstep
  · cases hstep
    unfold tick
    split
    · exact h
    · exact h.of_eq rfl rfl rfl rfl rfl
  · rename_i c rest _
    obtain ⟨u, hu, hstaged⟩ := staged_exec (s := s.setPending rest) c h
    rw [hstep] at hu
    cases hu
    exact hstaged

end Sys2Proof.Machine
end

section
/-! PROOF. Steps, the values after a reset, and the start of the mount scan (00, 11). -/

set_option Elab.async false

namespace Sys2Proof.Machine

/-- Settles O1: the front command is taken off the queue and run. -/
theorem stepRunsTheFrontCommand : Obligations.StepRunsTheFrontCommand := by
  unfold Obligations.StepRunsTheFrontCommand
  intro c rest s hpending
  rw [step, hpending]
  rfl

/-- Settles O2: with an empty queue a step is a tick. -/
theorem idleStepCountsTheTimeBase : Obligations.IdleStepCountsTheTimeBase := by
  unfold Obligations.IdleStepCountsTheTimeBase
  intro s hpending
  have hstep : step s = .next (tick s) := by rw [step, hpending]
  refine ⟨fun hlive => ?_, fun hreset => ?_⟩
  · rw [hstep, tick, if_neg hlive]
    rfl
  · rw [hstep, tick, if_pos hreset]

/-- Settles O4, by the values after a reset. -/
theorem resetStateIsSafe : Obligations.ResetStateIsSafe := by
  unfold Obligations.ResetStateIsSafe
  exact ⟨reset_store_wf, fun hsuspended => absurd rfl hsuspended, queuesBounded_inReset .., settingsInRange_inReset ..,
    countersInRange_inReset .., attemptsBounded_inReset .., creditBounded_inReset .., rfl, StagingWf.initial⟩

/-- A port in RESET is empty whichever it is. -/
theorem port_inReset (pending : List Instr) (store : List (Nat × Page)) (cause : ResetCause) (own : Byte)
    (serial free : Nat) (p : Port) : (State.inReset pending store cause own serial free).port p = PortState.initial := by
  cases p <;> rfl

/-- Settles O11: the values of `State.inReset`, field by field. -/
theorem resetValuesOfEveryBlock : Obligations.ResetValuesOfEveryBlock := by
  unfold Obligations.ResetValuesOfEveryBlock
  intro pending store cause own serial free s
  have hports : ∀ p, s.port p = PortState.initial := port_inReset pending store cause own serial free
  refine ⟨rfl, rfl, rfl, rfl, rfl, rfl, rfl, rfl, rfl, rfl, rfl, rfl, rfl, rfl, rfl, rfl, rfl, rfl, rfl, rfl, rfl, rfl,
    rfl, rfl, rfl, rfl, rfl, rfl, rfl, rfl, rfl, rfl, rfl, rfl, rfl, rfl, rfl, rfl, rfl, rfl, rfl, rfl, rfl, rfl, rfl,
    fun p => ?_, rfl, rfl⟩
  rw [hports p]
  exact ⟨rfl, rfl, rfl, rfl, rfl, rfl⟩

/-- Settles O14: command by command, each finds nothing raised, nothing running and no request held. -/
theorem nothingElseActsInReset : Obligations.NothingElseActsInReset := by
  unfold Obligations.NothingElseActsInReset
  intro c pending store cause own serial free hpowerOn hlineReset hleaveReset
  cases c
  case powerOn x => exact absurd rfl (hpowerOn x)
  case lineReset x => exact absurd rfl (hlineReset x)
  case leaveReset x y => exact absurd rfl (hleaveReset x y)
  case transmissionEnd p => cases p <;> rfl
  case frameWithdrawal p who => cases p <;> rfl
  case idleTimerExpiry i => cases i <;> rfl
  all_goals rfl

/-- The array with nothing waiting and nothing suspended, as a reset leaves it. -/
theorem arrayAlone_initial : ArrayAlone ArrayCtl.initial := ⟨rfl, rfl, rfl, rfl, rfl, rfl, rfl⟩

/-- A read or a program of the mount scan that finds the array free runs. -/
theorem scanAsk_runs {step : ScanStep} {req : ArrayReq} {s : State} (hpart : s.seqr.part = .mounting)
    (hfree : s.arr.running = none) (halone : ArrayAlone s.arr) (hmay : mayAsk .sequencer req = true)
    (hkind : ∀ b, req ≠ .erase b) :
    scanAsk step req s = (s.setSeqr { s.seqr with scan := step }).setArr { s.arr with
      running := some { who := .sequencer, req := req, count := 0, reached := 0 } } := by
  unfold scanAsk
  rw [arrayAsk_runs (s := s.setSeqr { s.seqr with scan := step }) hfree halone hmay (.inl ⟨hpart, rfl⟩) hkind]
  cases req <;> rfl

/-- Settles O13: the first read of the mount scan runs over an array as a reset leaves it. -/
theorem leavingResetBeginsTheMountScan : Obligations.LeavingResetBeginsTheMountScan := by
  unfold Obligations.LeavingResetBeginsTheMountScan
  intro a b s
  have hexec : exec (.leaveReset a b) s
      = .next (if s.seqr.part = .reset then beginMount (leftReset a b s) else s) := rfl
  refine ⟨fun hreset harr => ?_, fun hlive => ?_⟩
  · have hfree : s.arr.running = none := congrArg ArrayCtl.running harr
    have halone : ArrayAlone s.arr := harr ▸ arrayAlone_initial
    rw [hexec, if_pos hreset, beginMount,
      scanAsk_runs (s := setPhase 1 (leftReset a b s)) rfl hfree halone rfl (fun _ => ArrayReq.noConfusion)]
    rfl
  · rw [hexec, if_neg hlive]

end Sys2Proof.Machine
end

section
/-! PROOF. The pages that programs, erases and resets leave (03, R44 to R50 and R59). -/

set_option Elab.async false

namespace Sys2Proof.Machine

variable {st : List (Nat × Page)} {b p c q n : Nat}

/-! ### One page -/

/-- Two pages of blocks of 16 pages have the same place only when they are the same. -/
theorem pageKey_ne (hp : p ≤ 15) (hq : q ≤ 15) (hne : c ≠ b ∨ q ≠ p) : pageKey c q ≠ pageKey b p := by
  simp only [pageKey]
  omega

theorem pageAt_setPage_ne (hp : p ≤ 15) (hq : q ≤ 15) (hne : c ≠ b ∨ q ≠ p) (x : Option Page) :
    pageAt (setPage st b p x) c q = pageAt st c q := lookup_putAt_ne _ _ _ _ (pageKey_ne hp hq hne)

theorem pageAt_setPage_some (x : Page) : pageAt (setPage st b p (some x)) b p = some x := lookup_putAt_some ..

theorem pageAt_setPage_none (hst : sparseWf st = true) : pageAt (setPage st b p none) b p = none :=
  lookup_putAt_none _ _ hst

theorem readPage_congr {st2 : List (Nat × Page)} (h : pageAt st2 b p = pageAt st b p) :
    readPage st2 b p = readPage st b p := by rw [readPage, readPage, h]

theorem readPage_blank (h : pageAt st b p = none) : readPage st b p = .blank := by rw [readPage, h]

/-- A page without a present mark reads UNCOMMITTED (R45). -/
theorem readPage_unmarked {x : Page} (h : pageAt st b p = some x) (hmark : x.mark ≠ .present) :
    readPage st b p = .uncommitted := by
  rw [readPage, h]
  exact if_pos (.inl hmark)

/-- A written page gives back header, data and the computed checks (R44). -/
theorem readPage_written {h : PageHeader} {d : PageData} (hpage : pageAt st b p = some (writtenPage h d)) :
    readPage st b p = .committed h (computedChecks h d) d := by
  rw [readPage, hpage]
  simp [writtenPage, storedChecks, computedChecks]

/-! ### Cancelled marks -/

/-- A page with its mark cancelled. -/
def unmarked (x : Page) : Page := { x with mark := .cancelled }

theorem pageAt_cancelMark_self : pageAt (cancelMark st b p) b p = (pageAt st b p).map unmarked := by
  unfold cancelMark
  split
  · rename_i h
    rw [h]
    rfl
  · rename_i x h
    rw [pageAt_setPage_some, h]
    rfl

theorem pageAt_cancelMark_ne (hp : p ≤ 15) (hq : q ≤ 15) (hne : c ≠ b ∨ q ≠ p) :
    pageAt (cancelMark st b p) c q = pageAt st c q := by
  unfold cancelMark
  split
  · rfl
  · exact pageAt_setPage_ne hp hq hne _

/-- Marks cancelled below page `n` are those of the pages below `n`. -/
theorem pageAt_cancelMarks (hn : n ≤ 16) (hq : q ≤ 15) :
    pageAt (cancelMarks b n st) b q = if q < n then (pageAt st b q).map unmarked else pageAt st b q := by
  induction n with
  | zero => rfl
  | succ n ih =>
    rw [cancelMarks]
    by_cases hlast : q = n
    · subst hlast
      rw [pageAt_cancelMark_self, ih (by omega), if_neg (Nat.lt_irrefl q), if_pos (Nat.lt_succ_self q)]
    · rw [pageAt_cancelMark_ne (by omega) hq (.inr hlast), ih (by omega)]
      simp only [show q < n + 1 ↔ q < n by omega]

/-- A page that was there and is cancelled reads UNCOMMITTED; one that was erased reads BLANK (R49, R50). -/
theorem readPage_cancelled {x : Option Page} (h : pageAt st b q = x.map unmarked) :
    readPage st b q = if x = none then .blank else .uncommitted := by
  cases x with
  | none => exact readPage_blank h
  | some y => exact readPage_unmarked h nofun

/-! ### Erased pages -/

theorem pageAt_partlyErased (hst : sparseWf st = true) (blank : BitVec 16) (hn : n ≤ 16) (hq : q < n) :
    pageAt (partlyErased b blank n st) b q = if blank.getLsbD q then none else some damagedPage := by
  induction n with
  | zero => exact absurd hq (Nat.not_lt_zero q)
  | succ n ih =>
    rw [partlyErased]
    by_cases hlast : q = n
    · subst hlast
      split
      · exact pageAt_setPage_none (partlyErased_wf hst _ _ _)
      · exact pageAt_setPage_some _
    · rw [pageAt_setPage_ne (by omega) (by omega) (.inr hlast), ih (by omega) (by omega)]

/-- A page below the reach of a stopped second stage reads BLANK where its bit is set, and UNCOMMITTED elsewhere (R50). -/
theorem readPage_partlyErased (hst : sparseWf st = true) (blank : BitVec 16) (hq : q ≤ 15) :
    readPage (partlyErased b blank 16 st) b q = if blank.getLsbD q then .blank else .uncommitted := by
  have hpage := pageAt_partlyErased (b := b) hst blank (Nat.le_refl 16) (show q < 16 by omega)
  split at hpage
  · rename_i hbit
    rw [readPage_blank hpage, if_pos hbit]
  · rename_i hbit
    rw [readPage_unmarked hpage nofun, if_neg hbit]

theorem pageAt_erasePages (hst : sparseWf st = true) (hn : n ≤ 16) (hq : q < n) :
    pageAt (erasePages b n st) b q = none := by
  induction n with
  | zero => exact absurd hq (Nat.not_lt_zero q)
  | succ n ih =>
    rw [erasePages]
    by_cases hlast : q = n
    · subst hlast
      exact pageAt_setPage_none (erasePages_wf hst _ _)
    · rw [pageAt_setPage_ne (by omega) (by omega) (.inr hlast), ih (by omega) (by omega)]

/-! ### Programs -/

/-- A program touches only its page. -/
theorem pageAt_programPage_ne (hp : p ≤ 15) (hq : q ≤ 15) (hne : c ≠ b ∨ q ≠ p) (h : PageHeader) (d : PageData)
    (r : ProgramEnd) : pageAt (programPage st b p h d r).1 c q = pageAt st c q := by
  unfold programPage
  split
  · rfl
  · cases r
    case failedBlank => rfl
    all_goals exact pageAt_setPage_ne hp hq hne _

/-- A page that is not erased fails the blank check (R48). -/
theorem programPage_used {x : Page} (hpage : pageAt st b p = some x) (h : PageHeader) (d : PageData) (r : ProgramEnd) :
    programPage st b p h d r = (st, false) := by simp only [programPage, hpage]

/-- A program of an erased page that succeeds writes it (R47). -/
theorem programPage_committed (hpage : pageAt st b p = none) (h : PageHeader) (d : PageData) :
    programPage st b p h d .committed = (setPage st b p (some (writtenPage h d)), true) := by simp only [programPage, hpage]

/-- A program of an erased page that fails before it writes leaves the page (R48). -/
theorem programPage_failedBlank (hpage : pageAt st b p = none) (h : PageHeader) (d : PageData) :
    programPage st b p h d .failedBlank = (st, false) := by simp only [programPage, hpage]

/-- A program of an erased page that fails in writing leaves it without a mark (R48). -/
theorem programPage_failedLater (hpage : pageAt st b p = none) (h : PageHeader) (d : PageData) {r : ProgramEnd}
    (hr : r = .failedWrite ∨ r = .failedCommit) :
    programPage st b p h d r = (setPage st b p (some { writtenPage h d with mark := .absent }), false) := by
  simp only [programPage, hpage]
  rcases hr with rfl | rfl <;> rfl

/-- A first stage that stops at page `k` has cancelled page 0 and the pages below `k` (R50). -/
theorem eraseBlock_cancelFailed {k : Nat} (hk : k ≤ 15) :
    eraseBlock st b (.cancelFailed k) = (cancelMarks b k (cancelMark st b 0), false) := by
  rw [eraseBlock, Nat.min_eq_left (Nat.le_succ_of_le hk)]

/-- Every page of an erased block reads BLANK (R49). -/
theorem readPage_erased (hst : sparseWf st = true) (hq : q ≤ 15) :
    readPage (eraseBlock st b .erased).1 b q = .blank := by
  have hpage : pageAt (erasePages b 16 st) b q = none := pageAt_erasePages hst (Nat.le_refl 16) (by omega)
  simpa only [eraseBlock] using readPage_blank hpage

/-- A block whose erase stopped in its second stage (R50). -/
theorem readPage_eraseFailed (hst : sparseWf st = true) (blank : BitVec 16) (hq : q ≤ 15) :
    readPage (eraseBlock st b (.eraseFailed blank)).1 b q = if blank.getLsbD q then .blank else .uncommitted := by
  simpa only [eraseBlock] using readPage_partlyErased (b := b) hst blank hq

/-- Settles O29: the ends of a program by the page that it finds, the ends of an erase by its stage. -/
theorem programsAndErasesLeaveTheirPages : Obligations.ProgramsAndErasesLeaveTheirPages := by
  unfold Obligations.ProgramsAndErasesLeaveTheirPages
  intro store b hstore
  refine ⟨fun p h d hp => ?program, ?erase⟩
  case program =>
    refine ⟨fun r c q hq hne => pageAt_programPage_ne hp hq hne h d r, fun hused r => ?used, fun hpage => ?erased⟩
    case used =>
      obtain ⟨x, hx⟩ := Option.ne_none_iff_exists'.mp hused
      exact programPage_used hx h d r
    case erased =>
      have hlater := fun r => programPage_failedLater (r := r) hpage h d
      rw [programPage_committed hpage, programPage_failedBlank hpage, hlater _ (.inl rfl), hlater _ (.inr rfl)]
      exact ⟨rfl, readPage_written (pageAt_setPage_some _), rfl, rfl,
        readPage_unmarked (pageAt_setPage_some _) nofun, rfl, readPage_unmarked (pageAt_setPage_some _) nofun⟩
  case erase =>
    refine ⟨fun r => sameOutside_eraseBlock b r store, rfl, fun q hq => readPage_erased hstore hq,
      fun k q hk hq => ?first, fun blank q hq => ⟨rfl, readPage_eraseFailed hstore blank hq⟩⟩
    have hmarks : pageAt (eraseBlock store b (.cancelFailed k)).1 b q
        = if q < k then (pageAt (cancelMark store b 0) b q).map unmarked else pageAt (cancelMark store b 0) b q := by
      rw [eraseBlock_cancelFailed hk]
      exact pageAt_cancelMarks (by omega) hq
    have hfirst : pageAt (cancelMark store b 0) b 0 = (pageAt store b 0).map unmarked := pageAt_cancelMark_self
    have hlater : q ≠ 0 → pageAt (cancelMark store b 0) b q = pageAt store b q :=
      fun hne => pageAt_cancelMark_ne (Nat.zero_le 15) hq (.inr hne)
    refine ⟨rfl, fun hbelow => ?_, fun habove hne => ?_⟩
    · apply readPage_cancelled
      rw [hmarks]
      by_cases hzero : q = 0
      · subst hzero
        rw [hfirst, Option.map_map]
        split <;> rfl
      · rw [if_pos (hbelow.resolve_right hzero), hlater hzero]
    · rw [hmarks, if_neg (Nat.not_lt.mpr habove), hlater hne]

end Sys2Proof.Machine
end

section
/-! PROOF. What a reset leaves of the Page Array (R59), and the resets (R181). -/

set_option Elab.async false

namespace Sys2Proof.Machine

variable {st : List (Nat × Page)} {b p c q n reached : Nat} {s : State}

/-! ### Abandoned operations, page by page -/

/-- An abandoned program changes no page with another place. -/
theorem pageAt_cutProgram_ne (hne : pageKey c q ≠ pageKey b p) (h : PageHeader) (d : PageData) (cut : ProgramCut) :
    pageAt (cutProgram st b p h d cut) c q = pageAt st c q := by
  unfold cutProgram
  split
  · rfl
  · cases cut
    case unwritten => rfl
    all_goals exact lookup_putAt_ne _ _ _ _ hne

/-- The page of an abandoned program is as it was, or was erased and is now part written or written (R59). -/
theorem pageAt_cutProgram_self (h : PageHeader) (d : PageData) (cut : ProgramCut) :
    pageAt (cutProgram st b p h d cut) b p = pageAt st b p
      ∨ pageAt st b p = none ∧ (readPage (cutProgram st b p h d cut) b p = .uncommitted
        ∨ readPage (cutProgram st b p h d cut) b p = .committed h (computedChecks h d) d) := by
  cases hpage : pageAt st b p with
  | some x => exact .inl (by simp only [cutProgram, hpage])
  | none =>
    simp only [cutProgram, hpage]
    cases cut with
    | unwritten => exact .inl hpage
    | partly => exact .inr ⟨trivial, .inl (readPage_unmarked (pageAt_setPage_some _) nofun)⟩
    | committed => exact .inr ⟨trivial, .inr (readPage_written (pageAt_setPage_some _))⟩

/-- An abandoned erase changes no page of another block. -/
theorem pageAt_cutErase_ne (hne : c ≠ b) (hq : q ≤ 15) (cut : EraseCut) :
    pageAt (cutErase st b reached cut) c q = pageAt st c q := by
  cases cut with
  | firstStage n => exact sameOutside_cancelMarks (Nat.min_le_right _ _) (sameOutside_refl b st) c q hq hne
  | secondStage blank => exact sameOutside_partlyErased (Nat.le_refl 16) (sameOutside_refl b st) c q hq hne

/-- A page of a block whose erase was abandoned reads BLANK or UNCOMMITTED, or stands above the reach of the first stage
as it was (R59). -/
theorem readPage_cutErase (hst : sparseWf st = true) (hq : q ≤ 15) (cut : EraseCut) :
    readPage (cutErase st b reached cut) b q = .blank ∨ readPage (cutErase st b reached cut) b q = .uncommitted
      ∨ reached ≤ q ∧ pageAt (cutErase st b reached cut) b q = pageAt st b q := by
  cases cut with
  | firstStage n =>
    simp only [cutErase]
    have hmarks := pageAt_cancelMarks (st := st) (b := b) (n := min (max n reached) 16) (Nat.min_le_right _ _) hq
    by_cases hbelow : q < min (max n reached) 16
    · rw [if_pos hbelow] at hmarks
      rw [readPage_cancelled hmarks]
      split
      · exact .inl rfl
      · exact .inr (.inl rfl)
    · rw [if_neg hbelow] at hmarks
      exact .inr (.inr ⟨by omega, hmarks⟩)
  | secondStage blank =>
    simp only [cutErase]
    rw [readPage_partlyErased hst blank hq]
    split
    · exact .inl rfl
    · exact .inr (.inl rfl)

/-! ### The operation in progress and the suspended erase -/

/-- A page that the operation in progress does not cover stays. -/
theorem pageAt_abandonRunning {running : Option Running} (hq : q ≤ 15)
    (hrest : ∀ x ∈ running, opCovers c q x.req = false) :
    pageAt (abandonRunning n st running) c q = pageAt st c q := by
  cases running with
  | none => rfl
  | some x =>
    have hcovers := hrest x rfl
    cases hreq : x.req with
    | read => simp only [abandonRunning, hreq]
    | program b p h d =>
      simp only [hreq, opCovers, decide_eq_false_iff_not] at hcovers
      simp only [abandonRunning, hreq]
      exact pageAt_cutProgram_ne (Ne.symm hcovers) h d _
    | erase b =>
      simp only [hreq, opCovers, decide_eq_false_iff_not] at hcovers
      simp only [abandonRunning, hreq]
      exact pageAt_cutErase_ne (Ne.symm hcovers) hq _

theorem abandonRunning_wf {running : Option Running} (hst : sparseWf st = true) :
    sparseWf (abandonRunning n st running) = true := by
  cases running with
  | none => exact hst
  | some x =>
    cases hreq : x.req with
    | read => simpa only [abandonRunning, hreq] using hst
    | program b p h d => simpa only [abandonRunning, hreq] using cutProgram_wf hst ..
    | erase b => simpa only [abandonRunning, hreq] using cutErase_wf hst ..

/-- A page of a block whose erase is not suspended stays. -/
theorem pageAt_abandonSuspended {a : ArrayCtl} (hq : q ≤ 15) (hrest : suspendedErase a c = false) :
    pageAt (abandonSuspended n st a.suspended) c q = pageAt st c q := by
  cases he : a.suspended with
  | none => rfl
  | some e =>
    simp only [suspendedErase, he, decide_eq_false_iff_not] at hrest
    exact pageAt_cutErase_ne (Ne.symm hrest) hq _

/-- Pages at rest stay. -/
theorem pageAt_abandonOperations_rest (hq : q ≤ 15) (hrest : pageAtRest s.arr c q = true) :
    pageAt (abandonOperations s) c q = pageAt s.store c q := by
  simp only [pageAtRest, Bool.and_eq_true, Bool.not_eq_true'] at hrest
  obtain ⟨hrunning, hsuspended⟩ := hrest
  rw [abandonOperations, pageAt_abandonSuspended hq hsuspended]
  apply pageAt_abandonRunning hq
  intro x hx
  rw [Option.mem_def.mp hx] at hrunning
  simpa using hrunning

/-- The page of the program in progress. -/
theorem pageAt_abandonOperations_program {x : Running} {h : PageHeader} {d : PageData}
    (hrunning : s.arr.running = some x) (hreq : x.req = .program b q h d) (hq : q ≤ 15)
    (hsuspended : suspendedErase s.arr b = false) :
    pageAt (abandonOperations s) b q = pageAt s.store b q
      ∨ pageAt s.store b q = none ∧ (readPage (abandonOperations s) b q = .uncommitted
        ∨ readPage (abandonOperations s) b q = .committed h (computedChecks h d) d) := by
  have hpage : pageAt (abandonOperations s) b q
      = pageAt (cutProgram s.store b q h d (Config.programCut s.free)) b q := by
    rw [abandonOperations, pageAt_abandonSuspended hq hsuspended]
    simp only [abandonRunning, hrunning, hreq]
  rw [readPage_congr hpage, hpage]
  exact pageAt_cutProgram_self h d _

/-- The pages of a block under erase. -/
theorem readPage_abandonOperations_erase (hreached : ErasedTo s.arr b reached) (hq : q ≤ 15) (hst : StoreWf s) :
    readPage (abandonOperations s) b q = .blank ∨ readPage (abandonOperations s) b q = .uncommitted
      ∨ reached ≤ q ∧ pageAt (abandonOperations s) b q = pageAt s.store b q := by
  rcases hreached with ⟨x, hrunning, hreq, rfl, hsuspended⟩ | ⟨e, hsuspended, rfl, rfl, hrest⟩
  · have hpage : pageAt (abandonOperations s) b q
        = pageAt (cutErase s.store b x.reached (Config.eraseCut s.free)) b q := by
      rw [abandonOperations, pageAt_abandonSuspended hq hsuspended]
      simp only [abandonRunning, hrunning, hreq]
    rw [readPage_congr hpage, hpage]
    exact readPage_cutErase hst hq _
  · have hbefore : pageAt (abandonRunning s.free s.store s.arr.running) e.block q = pageAt s.store e.block q :=
      pageAt_abandonRunning hq (fun x hx => hrest x hx q hq)
    rw [abandonOperations, hsuspended, abandonSuspended, ← hbefore]
    exact readPage_cutErase (abandonRunning_wf hst) hq _

/-- What a reset leaves of the Page Array is the table of R59. -/
theorem cutByReset_abandonOperations (s : State) : CutByReset s (abandonOperations s) :=
  ⟨fun _ _ hp hrest => pageAt_abandonOperations_rest hp hrest,
    fun _ _ _ _ _ hrunning hreq hq hsuspended _ => pageAt_abandonOperations_program hrunning hreq hq hsuspended,
    fun _ _ _ hreached hq hst => readPage_abandonOperations_erase hreached hq hst⟩

/-! ### The resets -/

/-- The strap value 0 is the byte whose number is 0. -/
theorem strapAddress_eq (straps : Byte) :
    strapAddress straps = if straps.toNat = 0 ∨ 251 ≤ straps.toNat then 250 else straps := by
  have hzero : straps = 0 ↔ straps.toNat = 0 := ⟨fun e => by rw [e]; rfl, fun e => BitVec.eq_of_toNat_eq e⟩
  simp only [strapAddress, hzero]

/-- Settles O12: every reset begins over what R59 leaves of the Page Array. -/
theorem resetsDiscardVolatileStateAndKeepPages : Obligations.ResetsDiscardVolatileStateAndKeepPages := by
  unfold Obligations.ResetsDiscardVolatileStateAndKeepPages
  intro straps s own
  have hown : strapAddress straps = own := strapAddress_eq straps
  have hpowerOn : exec (.powerOn straps) s = .next (beginReset .powerOn (strapAddress straps) s) := rfl
  have hlineReset : exec (.lineReset straps) s = .next (if s.seqr.part = .reset then lineInReset straps s
      else beginReset .line (strapAddress straps) s) := rfl
  refine ⟨abandonOperations s, cutByReset_abandonOperations s, ?_, fun hlive => ?_, fun hreset => ?_⟩
  · rw [hpowerOn, hown, beginReset]
  · rw [hlineReset, if_neg hlive, hown, beginReset]
  · rw [hlineReset, if_pos hreset, lineInReset, hown]
    rfl

end Sys2Proof.Machine
end

section
/-! PROOF. The controller's order, and the suspension of a running erase (03, R46 and R51 to R57). -/

set_option Elab.async false

namespace Sys2Proof.Machine

variable {s : State} {a : ArrayCtl}

/-! ### The order of R53 -/

/-- A journal program comes first. -/
theorem nextChoice_journal {r : ArrayReq} (h : waitingProgram a a.journal = some r) :
    nextChoice false a = .start .journal r := by simp only [nextChoice, h, Bool.false_eq_true, if_false]

/-- Then a log program. -/
theorem nextChoice_logWriter {r : ArrayReq} (hjournal : waitingProgram a a.journal = none)
    (h : waitingProgram a a.logWriter = some r) : nextChoice false a = .start .logWriter r := by
  simp only [nextChoice, hjournal, h, Bool.false_eq_true, if_false]

/-- With no program to run, a session's read. -/
theorem nextChoice_session {i : SessionId} {r : ArrayReq} (hjournal : waitingProgram a a.journal = none)
    (hlog : waitingProgram a a.logWriter = none) (h : sessionChoice a = some (i, r)) :
    nextChoice false a = .start (.session i) r := by
  simp only [nextChoice, hjournal, hlog, h, Bool.false_eq_true, if_false]

/-- Then the suspended erase, and the waiting erases behind it. -/
theorem nextChoice_erases (hjournal : waitingProgram a a.journal = none) (hlog : waitingProgram a a.logWriter = none)
    (hsession : sessionChoice a = none) :
    nextChoice false a = match a.suspended with
      | some e => .resume e
      | none => eraseChoice a := by
  simp only [nextChoice, hjournal, hlog, hsession, Bool.false_eq_true, if_false] <;> rfl

theorem waitingProgram_none : waitingProgram a none = none := rfl

/-- The resumption of the suspended erase. -/
theorem arrayChoose_resume {e : Suspended} (h : nextChoice (decide (s.seqr.part = .mounting)) s.arr = .resume e) :
    arrayChoose s = s.setArr (resumeErase e s.arr) := by
  unfold arrayChoose
  rw [chooseNext]
  simp only [h]
  rfl

/-- The erase of a log block with a hold is returned, and the choice is made again (R51). -/
theorem arrayChoose_held {b : Nat} {who : Requester}
    (h : nextChoice (decide (s.seqr.part = .mounting)) s.arr = .start who (.erase b)) (hlog : isLogBlock b = true)
    (hhold : holdOf s.log b ≠ 0)
    (hidle : nextChoice (decide (s.seqr.part = .mounting)) (setSlot s.arr none who) = .idle) :
    arrayChoose s = s.setArr (setSlot s.arr none who) := by
  unfold arrayChoose
  rw [chooseNext]
  simp only [h, hlog, hhold, ne_eq, not_false_eq_true, and_self, if_true]
  rw [chooseNext]
  simp only [hidle]
  rfl

theorem isLogBlock_iff {b : Nat} : isLogBlock b = true ↔ 4 ≤ b ∧ b ≤ 1023 := by
  simp [isLogBlock, show Config.firstLogBlock = 4 from rfl, show Config.lastLogBlock = 1023 from rfl]

section Ready

variable (hready : s.seqr.part = .ready)

include hready

theorem not_mounting_of_ready : decide (s.seqr.part = .mounting) = false := by simp [hready]

/-- What is chosen while READY starts, an erase with the cancellation of page 0. -/
theorem arrayChoose_ready {who : Requester} {req : ArrayReq} (h : nextChoice false s.arr = .start who req)
    (hhold : ∀ b, req = .erase b → isLogBlock b = true → holdOf s.log b = 0) :
    arrayChoose s = (s.setArr (startRequest who req s.arr s.store).1).setStore
      (startRequest who req s.arr s.store).2 :=
  arrayChoose_start (by rw [not_mounting_of_ready hready, h]) hhold

end Ready

theorem waitingRead_none : waitingRead a none = none := rfl

/-- A waiting read of a block that is not under the suspended erase, by what stands in its slot. -/
theorem waitingRead_eq {o : Option ArrayReq} {b p : Nat} (h : o = some (.read b p)) (hfree : suspendedErase a b = false) :
    waitingRead a o = some (.read b p) := by rw [h, waitingRead_free hfree]

/-- Between two session reads the session not served by the most recent one is chosen (R54). -/
theorem sessionChoice_both {r1 r2 : ArrayReq} (h1 : waitingRead a a.session1 = some r1)
    (h2 : waitingRead a a.session2 = some r2) :
    sessionChoice a = some (match a.lastSession with
      | .one => (.two, r2)
      | .two => (.one, r1)) := by
  simp only [sessionChoice, h1, h2]
  cases a.lastSession <;> rfl

theorem sessionChoice_first {r : ArrayReq} (h1 : waitingRead a a.session1 = some r) (h2 : a.session2 = none) :
    sessionChoice a = some (.one, r) := by
  simp only [sessionChoice, h1, h2, waitingRead_none]

theorem sessionChoice_second {r : ArrayReq} (h1 : a.session1 = none) (h2 : waitingRead a a.session2 = some r) :
    sessionChoice a = some (.two, r) := by
  simp only [sessionChoice, h1, h2, waitingRead_none]

/-- Settles O30: by the first place of R53's order at which something waits that may run. -/
theorem theControllerChoosesInOrder : Obligations.TheControllerChoosesInOrder := by
  unfold Obligations.TheControllerChoosesInOrder
  intro s hready _
  dsimp only
  have hnotMounting : decide (s.seqr.part = .mounting) = false := not_mounting_of_ready hready
  have hnoErase : ∀ {x : ArrayReq}, (∀ b, x ≠ .erase b) →
      ∀ b, x = .erase b → isLogBlock b = true → holdOf s.log b = 0 := fun hne b he => absurd he (hne b)
  refine ⟨fun b p h d hjournal hheld => ?journal, fun b p h d hnone hlog hheld => ?log,
    fun hnoJournal hnoLog => ⟨?both, ?first, ?second, fun hnoSession => ?erases⟩⟩
  case journal =>
    have hnext : nextChoice false s.arr = .start .journal (.program b p h d) :=
      nextChoice_journal (by rw [hjournal, waitingProgram_free hheld])
    exact arrayChoose_ready hready hnext (hnoErase fun _ => ArrayReq.noConfusion)
  case log =>
    have hnext : nextChoice false s.arr = .start .logWriter (.program b p h d) :=
      nextChoice_logWriter hnone (by rw [hlog, waitingProgram_free hheld])
    exact arrayChoose_ready hready hnext (hnoErase fun _ => ArrayReq.noConfusion)
  case both =>
    intro b1 p1 b2 p2 h1 h2 hfree1 hfree2
    have hchoice := sessionChoice_both (waitingRead_eq h1 hfree1) (waitingRead_eq h2 hfree2)
    cases hlast : s.arr.lastSession with
    | one =>
      rw [hlast] at hchoice
      exact arrayChoose_ready hready (nextChoice_session hnoJournal hnoLog hchoice)
        (hnoErase fun _ => ArrayReq.noConfusion)
    | two =>
      rw [hlast] at hchoice
      exact arrayChoose_ready hready (nextChoice_session hnoJournal hnoLog hchoice)
        (hnoErase fun _ => ArrayReq.noConfusion)
  case first =>
    intro b p h1 hfree h2
    have hchoice := sessionChoice_first (waitingRead_eq h1 hfree) h2
    exact arrayChoose_ready hready (nextChoice_session hnoJournal hnoLog hchoice)
      (hnoErase fun _ => ArrayReq.noConfusion)
  case second =>
    intro b p h2 hfree h1
    have hchoice := sessionChoice_second h1 (waitingRead_eq h2 hfree)
    exact arrayChoose_ready hready (nextChoice_session hnoJournal hnoLog hchoice)
      (hnoErase fun _ => ArrayReq.noConfusion)
  case erases =>
    have hchoice := nextChoice_erases hnoJournal hnoLog hnoSession
    refine ⟨fun e he => ?resume, fun b hnone hjournal hb => ?journalErase, fun b hnone hjournal hahead hlow hhigh hhold
      => ?ahead, fun b hnone hjournal hlog hahead hlow hhigh hhold => ?held, fun hnone hjournal hahead => ?idle⟩
    case resume =>
      rw [he] at hchoice
      exact arrayChoose_resume (by rw [hnotMounting, hchoice])
    case journalErase =>
      have hnext : nextChoice false s.arr = .start .journal (.erase b) := by
        rw [hchoice, hnone]
        simp only [eraseChoice, hjournal, waitingErase]
      refine arrayChoose_ready hready hnext (fun c hc hlogBlock => ?_)
      cases hc
      have := (isLogBlock_iff.mp hlogBlock).1
      omega
    case ahead =>
      have hnext : nextChoice false s.arr = .start .eraseAhead (.erase b) := by
        rw [hchoice, hnone]
        simp only [eraseChoice, hjournal, hahead, waitingErase]
      refine arrayChoose_ready hready hnext (fun c hc _ => ?_)
      cases hc
      exact hhold
    case held =>
      have hnext : nextChoice false s.arr = .start .eraseAhead (.erase b) := by
        rw [hchoice, hnone]
        simp only [eraseChoice, hjournal, hahead, waitingErase]
      have hidle : nextChoice false (setSlot s.arr none .eraseAhead) = .idle := by
        rw [nextChoice_erases (a := setSlot s.arr none .eraseAhead) (congrArg _ hjournal) (congrArg _ hlog) hnoSession]
        simp only [setSlot, hnone, eraseChoice, hjournal, waitingErase]
      exact arrayChoose_held (by rw [hnotMounting, hnext]) (isLogBlock_iff.mpr ⟨hlow, hhigh⟩) hhold
        (by rw [hnotMounting, hidle])
    case idle =>
      apply arrayChoose_idle
      rw [hnotMounting, hchoice, hnone]
      simp only [eraseChoice, hjournal, hahead, waitingErase]

/-! ### Reads while an erase runs -/

/-- Settles O31: the read is of the erase's block, or suspends the erase, or waits. -/
theorem readsSuspendARunningErase : Obligations.ReadsSuspendARunningErase := by
  unfold Obligations.ReadsSuspendARunningErase
  intro i b c p x s hrunning hreq hready halone hlow hhigh hp
  have hmay : mayAsk (.session i) (.read c p) = true := by
    simp [mayAsk, isLogBlock_iff.mpr ⟨hlow, hhigh⟩, hp]
  have herasing : readsErasing s.arr (.read c p) = decide (b = c) := by
    simp [readsErasing, runningErase, suspendedErase, hrunning, hreq, halone.1]
  have hask : arrayAsk (.session i) (.read c p) s
      = if c = b then (s, .erasing)
        else if x.count < 8 then
          (arrayChoose (s.setArr (suspendRunning (setSlot s.arr (some (.read c p)) (.session i)) x)), .accepted)
        else (s.setArr (setSlot s.arr (some (.read c p)) (.session i)), .accepted) := by
    unfold arrayAsk
    rw [if_neg (by simp [hmay]), herasing]
    by_cases hsame : c = b
    · simp [hsame]
    · have hne : ¬ decide (b = c) = true := by simpa using Ne.symm hsame
      rw [if_neg hne, if_neg hsame]
      by_cases hcount : x.count < 8 <;> simp [hrunning, suspends, hreq, hready, hsame, hcount, Config.suspendMax]
  refine ⟨fun hsame => ?_, fun hne hcount => ?_, fun hne hcount => ?_⟩
  · rw [hask, if_pos hsame]
  · rw [hask, if_neg hne, if_pos hcount]
    obtain ⟨-, hjournal, hlog, -, hsession1, hsession2, -⟩ := halone
    have hnext : nextChoice false (suspendRunning (setSlot s.arr (some (.read c p)) (.session i)) x)
        = .start (.session i) (.read c p) := by
      have hfree : suspendedErase (suspendRunning (setSlot s.arr (some (.read c p)) (.session i)) x) c = false := by
        simp [suspendedErase, suspendRunning, blockOf, hreq, Ne.symm hne]
      cases i with
      | one =>
        exact nextChoice_session (congrArg _ hjournal) (congrArg _ hlog)
          (sessionChoice_first (waitingRead_free hfree) hsession2)
      | two =>
        exact nextChoice_session (congrArg _ hjournal) (congrArg _ hlog)
          (sessionChoice_second hsession1 (waitingRead_free hfree))
    rw [arrayChoose_ready (s := s.setArr (suspendRunning _ x)) hready hnext (fun _ he => ArrayReq.noConfusion he)]
    cases i with
    | one => simp [startRequest, suspendRunning, setSlot, blockOf, hreq, hsession1]; rfl
    | two => simp [startRequest, suspendRunning, setSlot, blockOf, hreq, hsession2]; rfl
  · rw [hask, if_neg hne, if_neg (Nat.not_lt.mpr hcount)]
    cases i <;> rfl

end Sys2Proof.Machine
end

section
/-! PROOF. What the Capture Controller does at the end of posting, and what the Journal Writer does with a job that it
is asked (05, R98 to R100; 06, R111 and R112), in the terms of Safety. -/

set_option Elab.async false

namespace Sys2Proof.Machine

variable {s u v : State} {e : Entry} {j : Job}

/-! ### Counters and entries -/

theorem bump_eq (n : Nat) : bump n = min counterMax (n + 1) := by
  unfold bump
  split <;> omega

/-- A change of the only entry of a number is a change of that entry. -/
theorem changeEntry_alone {d : Directory} (h : ∀ x ∈ d.entries, x.num = e.num → x = e) (f : Entry → Entry) :
    changeEntry d e.num f = { d with entries := d.entries.map (fun x => if x = e then f e else x) } := by
  have hmap : d.entries.map (fun x => if x.num = e.num then f x else x)
      = d.entries.map (fun x => if x = e then f e else x) := by
    refine List.map_congr_left fun x hx => ?_
    by_cases hnum : x.num = e.num
    · rw [if_pos hnum, if_pos (h x hx hnum), h x hx hnum]
    · rw [if_neg hnum, if_neg (fun heq => hnum (congrArg Entry.num heq))]
  rw [changeEntry, hmap]

theorem findEntry_mem {d : Directory} {num : Nat} (h : findEntry d num = some e) : e ∈ d.entries :=
  List.mem_of_find?_eq_some h

theorem openEntry_mem {d : Directory} (h : openEntry d = some e) : e ∈ d.entries := List.mem_of_find?_eq_some h

theorem findEntry_alone {d : Directory} (hmem : e ∈ d.entries) (h : ∀ x ∈ d.entries, x.num = e.num → x = e) :
    findEntry d e.num = some e := by
  rw [findEntry]
  cases hfind : d.entries.find? (fun x => decide (x.num = e.num)) with
  | none => simpa using List.find?_eq_none.mp hfind e hmem
  | some x => rw [h x (List.mem_of_find?_eq_some hfind) (by simpa using List.find?_some hfind)]

theorem findEntry_none {d : Directory} {num : Nat} (h : ∀ e ∈ d.entries, e.num ≠ num) : findEntry d num = none := by
  rw [findEntry, List.find?_eq_none]
  simpa using h

/-! ### Jobs -/

theorem coveredBy_eq (r : PageRecord) (jobs : List Job) : coveredBy r jobs = coverJobs r jobs := by
  cases r with
  | retiredList bs =>
    refine List.map_congr_left fun j _ => ?_
    cases j <;> rfl
  | _ => rfl

theorem jobRecord_of {r : PageRecord} (h : JobRecord s j r) : jobRecord s j = r := by
  rcases h with ⟨n, rfl, rfl⟩ | ⟨c, rfl, rfl⟩ | ⟨e, st, blocks, hfind, rfl, hjob⟩
  · rfl
  · rfl
  · rcases hjob with ⟨rfl, rfl⟩ | ⟨rfl, rfl, rfl⟩ | ⟨rfl, rfl, rfl⟩ <;> simp [jobRecord, entryRecord, hfind] <;> rfl

/-- A page of the Directory Area or the Profile Area that the Journal Writer hands in alone is under program. -/
theorem arrayAsk_journal {b p : Nat} {h : PageHeader} {d : PageData} (hready : s.seqr.part ≠ .mounting)
    (hfree : s.arr.running = none) (halone : ArrayAlone s.arr) (hb : b ≤ 3) (hp : p ≤ 15)
    (hkind : h.kind = kindOfBlock b) :
    (arrayAsk .journal (.program b p h d) s).1 = { s with arr := { s.arr with
      running := some { who := .journal, req := .program b p h d, count := 0, reached := 0 } } } := by
  rw [arrayAsk_runs hfree halone (by simp [mayAsk, hb, hp, hkind]) (.inr ⟨hready, by simp⟩) (by simp)]
  rfl

/-- An erase of a block of the Directory Area or the Profile Area that the Journal Writer hands in alone runs. -/
theorem arrayAsk_journalErase {b : Nat} (hready : s.seqr.part ≠ .mounting) (hfree : s.arr.running = none)
    (halone : ArrayAlone s.arr) (hb : b ≤ 3) : (arrayAsk .journal (.erase b) s).1 = eraseHanded .journal b s := by
  rw [arrayAsk_single hfree halone (by simp [mayAsk, hb]) (.inr ⟨hready, by simp⟩) (fun c hc hlog => ?_)]
  · simp [startRequest, setSlot, eraseHanded, State.setArr, State.setStore, halone.2.1]
  · cases hc
    obtain ⟨hlow, -⟩ := isLogBlock_iff.mp hlog
    omega

theorem drawPageSeq_below (h : s.log.nextPageSeq < 281474976710655) :
    drawPageSeq s = (s.log.nextPageSeq, s.setLog { s.log with nextPageSeq := s.log.nextPageSeq + 1 }) := by
  rw [drawPageSeq, if_pos (show s.log.nextPageSeq < sequenceMax from h)]

/-- A JOURNAL page that is handed in alone is under program with the next page sequence. -/
theorem programJournal_alone {b p : Nat} {role : JournalRole} {r : PageRecord} (hready : s.seqr.part = .ready)
    (hfree : s.arr.running = none) (halone : ArrayAlone s.arr) (hseq : s.log.nextPageSeq < 281474976710655)
    (hb : b ≤ 1) (hp : p ≤ 15) :
    programJournal b p role r s = pageHanded .journal .journal b p
      (.journal { role := role, nextNumber := s.dir.nextNumber, record := r })
      { s with jrnl := { s.jrnl with jobs := coverJobs r s.jrnl.jobs } } := by
  rw [programJournal, drawPageSeq_below hseq]
  dsimp only
  rw [arrayAsk_journal (by simp [hready]) (by simpa using hfree) (by simpa using halone) (by omega) hp
    (by simp [ownHeader, kindOfBlock, hb])]
  rfl

theorem beginCompaction_alone (hready : s.seqr.part = .ready) (hfree : s.arr.running = none)
    (halone : ArrayAlone s.arr) (hcur : s.jrnl.cur = none ∨ ∃ d, s.jrnl.cur = some d ∧ d ≤ 1) :
    beginCompaction s = compactionBegun s := by
  have htarget : compactTarget s.jrnl.cur = if s.jrnl.cur = some 0 then 1 else 0 := by
    rcases hcur with h | ⟨d, h, hd⟩
    · simp [h, compactTarget]
    · simp [h, compactTarget]
  have hle : (if s.jrnl.cur = some 0 then 1 else 0) ≤ 3 := by split <;> omega
  rw [beginCompaction, htarget]
  exact arrayAsk_journalErase (by simp [hready]) (by simpa using hfree) (by simpa using halone) hle

theorem isProfileJob_eq_false (h1 : ∀ f, j ≠ .saveProfile f) (h2 : j ≠ .clearProfile) : isProfileJob j = false := by
  cases j <;> simp_all [isProfileJob]

/-- The Journal Writer serves its head job. -/
theorem serveJobs_head (h : HeadServed s u) : serveJobs s = u := by
  obtain ⟨hready, hfree, halone, hseq, j, rest, hjobs, hsave, hclear, hcase⟩ := h
  have hserve : serveJobs s = serveJournal j s := by
    simp [serveJobs, hjobs, isProfileJob_eq_false hsave hclear]
  rw [hserve]
  rcases hcase with ⟨d, r, hcur, hd, hpage, hrecord, rfl⟩ | ⟨hcur, rfl⟩
  · have hjournal : serveJournal j s
        = programJournal d s.jrnl.nextPage .append (jobRecord s j) (s.setJrnl { s.jrnl with state := .appending }) := by
      simp [serveJournal, hcur, hpage]
    rw [hjournal, jobRecord_of hrecord, programJournal_alone (by simpa using hready) (by simpa using hfree)
      (by simpa using halone) (by simpa using hseq) hd hpage, coveredBy_eq]
    rw [← hjobs]
    rfl
  · rw [← beginCompaction_alone hready hfree halone (by grind)]
    rcases hcur with hnone | ⟨⟨d, hcur, -⟩, hfull⟩
    · simp [serveJournal, hnone]
    · simp [serveJournal, hcur, Nat.not_le.mpr hfull]

/-- A job that no waiting job covers joins the list, and an IDLE writer serves it. -/
theorem askJob_asked (h : JobAsked j s u) (hsave : ∀ f, j ≠ .saveProfile f) (hclear : j ≠ .clearProfile) :
    askJob j s = u := by
  obtain ⟨husable, hretired, hcase⟩ := h
  have hnot : ¬ (isRetiredJob j = true ∧ retiredWaits s.jrnl.jobs = true) := by
    rintro ⟨hj, hwaits⟩
    cases j with
    | retiredList k =>
      obtain ⟨x, hx, hisRetired⟩ := List.any_eq_true.mp hwaits
      cases x with
      | retiredList m => exact hretired k rfl _ hx m rfl
      | _ => simp [isRetiredJob] at hisRetired
    | _ => simp [isRetiredJob] at hj
  rw [askJob, if_neg (by simp [husable]), if_neg hnot]
  rcases hcase with ⟨hbusy, rfl⟩ | ⟨hidle, hserved⟩
  · rw [if_neg hbusy]
    rfl
  · rw [if_pos hidle]
    exact serveJobs_head hserved

/-! ### The end of posting -/

/-- The Capture Controller looks whether the KEPT snapshot is due. -/
theorem keptCheck_looked (h : KeptLooked u v) : keptCheck u = v := by
  rcases h with ⟨hnot, rfl⟩ | ⟨e, last, hopen, hclosing, hentry, hasked, hjournaled, hlast, hcommitted, hjob⟩
  · unfold keptCheck
    split
    · rfl
    · rename_i e hopen
      split
      · rfl
      · rename_i last hlast
        refine if_neg ?_
        rintro ⟨hclosing, hentry, hasked, hcommitted, hjournaled⟩
        rcases hnot e hopen hclosing hentry hasked with hnone | hbelow
        · exact hjournaled hnone
        · exact absurd (hbelow last hlast) (Nat.not_lt.mpr hcommitted)
  · have hkept : keptCheck u = askJob (.kept e.num) (u.setCtl { u.ctl with keptAsked := true }) := by
      simp [keptCheck, hopen, hlast, hclosing, hentry, hasked, hcommitted, hjournaled]
    rw [hkept]
    exact askJob_asked hjob (fun f => Job.noConfusion) Job.noConfusion

/-- Posting ends for a reason. -/
theorem endPosting_ended {why : CloseReason} (hposting : s.ctl.state = .posting) (halone : OpenAlone s.dir e)
    (h : PostingEnded why e (postingLast s e why) s v) : endPosting why s = v := by
  obtain ⟨hopen, honly⟩ := halone
  have hend : endPosting why s = keptCheck (postingClosed why e (postingLast s e why) s) := by
    rw [endPosting, if_neg (not_not_intro hposting), hopen]
    dsimp only
    rw [changeEntry_alone honly]
    by_cases hwhy : why = .stopped
    · simp [hwhy, postingClosed, State.setDir, State.setCtl]
    · simp [hwhy, postingClosed, State.setDir, State.setCtl, State.setRaised]
  rw [hend]
  exact keptCheck_looked h

/-! ### What stays through the end of posting -/

/-- Serving a job touches the Journal Writer, the page sequence, the array and its pages alone. -/
theorem HeadServed.frame (h : HeadServed s u) :
    u = { s with jrnl := u.jrnl, log := u.log, arr := u.arr, store := u.store } := by
  obtain ⟨-, -, -, -, j, rest, -, -, -, ⟨d, r, -, -, -, -, rfl⟩ | ⟨-, rfl⟩⟩ := h <;> rfl

theorem JobAsked.frame (h : JobAsked j s u) :
    u = { s with jrnl := u.jrnl, log := u.log, arr := u.arr, store := u.store } := by
  obtain ⟨-, -, ⟨-, rfl⟩ | ⟨-, hserved⟩⟩ := h
  · rfl
  · exact hserved.frame

/-- Looking whether the KEPT snapshot is due touches besides these only whether it has been asked for. -/
theorem KeptLooked.frame (h : KeptLooked u v) :
    v = { u with jrnl := v.jrnl, log := v.log, arr := v.arr, store := v.store, ctl := v.ctl } := by
  obtain ⟨-, rfl⟩ | ⟨e, last, -, -, -, -, -, -, -, hjob⟩ := h
  · rfl
  · exact congrArg (fun x : State => { x with ctl := v.ctl }) hjob.frame

theorem KeptLooked.mgmt (h : KeptLooked u v) : v.mgmt = u.mgmt := (congrArg State.mgmt h.frame :)

theorem KeptLooked.packer (h : KeptLooked u v) : v.packer = u.packer := (congrArg State.packer h.frame :)

theorem PostingEnded.mgmt {why : CloseReason} {last : Nat} (h : PostingEnded why e last s v) : v.mgmt = s.mgmt :=
  KeptLooked.mgmt (u := postingClosed why e last s) h

theorem PostingEnded.packer {why : CloseReason} {last : Nat} (h : PostingEnded why e last s v) :
    v.packer = s.packer :=
  KeptLooked.packer (u := postingClosed why e last s) h

theorem CountTaken.mgmt {first : Nat} (h : CountTaken first u v) : v.mgmt = u.mgmt := by
  obtain ⟨-, rfl⟩ | ⟨-, -, -, e, -, hended⟩ := h
  · rfl
  · exact PostingEnded.mgmt hended

/-- A state with another's Management Unit has no orderly stop under way when that has none. -/
theorem NoStop.carry {t : State} (h : NoStop s) (hm : t.mgmt = s.mgmt) : NoStop t := by
  rw [NoStop, hm]
  exact h

theorem endPosting_packer (why : CloseReason) (s : State) : (endPosting why s).packer = s.packer :=
  (Has.endPosting (q := fun p => p = s.packer) (s := s) rfl : (endPosting why s).packer = s.packer)

theorem postingLast_count (s : State) (e : Entry) : postingLast s e .count = s.ctl.postEnd := if_pos rfl

theorem postingLast_ne {why : CloseReason} (h : why ≠ .count) : postingLast s e why = lastAtEnd s e := if_neg h

/-- What the Packer's assignments tell the controller, short of the end of the sequence space. -/
theorem packed_taken {first : Nat} (h : CountTaken first u v) (hnext : u.packer.nextSeq ≠ 281474976710655) :
    packed first u = v := by
  have hfirst : (if u.ctl.state = .posting ∧ assignedBetween first u.packer.nextSeq u.ctl.postEnd = true
      then endPosting .count u else u) = v := by
    rcases h with ⟨hnot, rfl⟩ | ⟨hposting, hlow, hhigh, e, halone, hended⟩
    · refine if_neg ?_
      rintro ⟨hposting, hassigned⟩
      simp only [assignedBetween, Bool.and_eq_true, decide_eq_true_eq] at hassigned
      rcases hnot hposting with hbelow | habove <;> omega
    · rw [if_pos ⟨hposting, by simp [assignedBetween, hlow, hhigh]⟩]
      exact endPosting_ended hposting halone (by rw [postingLast_count]; exact hended)
  have hpacker : v.packer = u.packer := by
    rw [← hfirst]
    split
    · exact endPosting_packer ..
    · rfl
  rw [packed, hfirst, if_neg]
  rw [hpacker]
  exact fun hmax => hnext hmax.2

/-- Settles O28: the post time ends posting, and the holdoff timer stops. -/
theorem postTimeEndsPosting : Obligations.PostTimeEndsPosting := by
  unfold Obligations.PostTimeEndsPosting
  intro s
  have hexec : exec .postTimeExpiry s = .next (if s.ctl.postTimer = none then s
      else settle (endPosting .time (s.setCtl { s.ctl with postTimer := none }))) := rfl
  refine ⟨fun e v htimer hposting halone hstop hended hquiet => ?_, fun htimer => ?_, rfl⟩
  · have hclosed : endPosting .time (s.setCtl { s.ctl with postTimer := none }) = v := by
      refine endPosting_ended (by simpa using hposting) (by simpa using halone) ?_
      rw [postingLast_ne (by decide)]
      exact hended
    rw [hexec, if_neg htimer, hclosed, settle_quiet (hstop.carry (PostingEnded.mgmt hended)) hquiet]
  · rw [hexec, if_pos htimer]

end Sys2Proof.Machine
end

section
/-! PROOF. The classifier, the closing of the FILLING buffer, and triggers at the Capture Controller (01, 02, 05). -/

set_option Elab.async false

namespace Sys2Proof.Machine

variable {s t : State}

/-! ### Answers at the end of a happening -/

/-- The owner's answer from a state that leaves the Log Writer nothing to do ends the happening. -/
theorem settle_respond_handed {code : Byte} {r : Request} {st : Status} {result : Bytes} (h : Handed code r s)
    (hroom : ReplyRoom r s) (ha : t.portA = s.portA) (hb : t.portB = s.portB) (hm : t.mgmt = s.mgmt)
    (hquiet : LogQuiet t) : settle (respond st result t) = replied r st result t :=
  settle_respond (hm ▸ h.1) (hroom.carry ha hb hm) hquiet

/-! ### Classification (R5, R6, R11 to R13) -/

/-- Searching from an index on finds the first entry that matches. -/
theorem firstMatch_at {p : Port} {d : Delivered} {rules : List Rule} {i k : Nat} {r : Rule} (hr : rules[i]? = some r)
    (hmatch : ruleMatches r p d = true) (hfirst : ∀ j q, j < i → rules[j]? = some q → ruleMatches q p d = false) :
    firstMatch p d k rules = some (k + i, r) := by
  induction rules generalizing i k with
  | nil => simp at hr
  | cons q rest ih =>
    cases i with
    | zero =>
      obtain rfl : q = r := by simpa using hr
      simp [firstMatch, hmatch]
    | succ i =>
      have hq : ruleMatches q p d = false := hfirst 0 q (Nat.succ_pos i) rfl
      rw [firstMatch, if_neg (by simp [hq]), ih (by simpa using hr) (fun j q hj hq => hfirst (j + 1) q (by omega) hq)]
      grind

theorem firstMatch_none {p : Port} {d : Delivered} {rules : List Rule} {k : Nat}
    (h : ∀ q ∈ rules, ruleMatches q p d = false) : firstMatch p d k rules = none := by
  induction rules generalizing k with
  | nil => rfl
  | cons q rest ih =>
    rw [firstMatch, if_neg (by simp [h q (by simp)])]
    exact ih (fun x hx => h x (by simp [hx]))

theorem captureOf_eq (snap : Nat) (d : Delivered) :
    captureOf snap d = if d.outcome = .good then
        { bytes := d.bytes.take 5 ++ ((d.bytes.drop 5).take (byteAt d.bytes 4).toNat).take snap,
          truncated := decide (snap < (byteAt d.bytes 4).toNat) }
      else { bytes := d.bytes.take 205, truncated := decide (205 < d.count) } := by
  unfold captureOf
  cases d.outcome <;> rfl

theorem actionResult_eq (a : Action) (snap : Nat) (d : Delivered) :
    actionResult a snap d
      = (if a = .capture ∨ a = .trigger then some (captureOf snap d) else none,
        decide (a = .trigger ∨ a = .triggerOnly)) := by
  cases a <;> rfl

theorem handResult_eq (r : Result) (xs : List Result) :
    handResult r xs = xs ++ (if r.capture ≠ none ∨ r.mark = true then [r] else []) := by
  unfold handResult
  cases r.capture <;> cases r.mark <;> simp

theorem exec_frameReceived (p : Port) (s : State) : exec (.frameReceived p) s = execFrameReceived p s := rfl

/-- Settles O23: the first matching entry, or the default action, gives the result. -/
theorem framesAreClassifiedByTheFirstMatch : Obligations.FramesAreClassifiedByTheFirstMatch := by
  unfold Obligations.FramesAreClassifiedByTheFirstMatch
  intro p pre post d s holdest result captured taken
  have htake : takeFirst (fun x : Port × Delivered => decide (x.1 = p)) s.raised.classify
      = some ((p, d), pre ++ post) := takeFirst_oldest (by simp) holdest
  have hexec : exec (.frameReceived p) s
      = .next ((s.setCls (classify s.cls p d s.packer.timeBase).1).setRaised { s.raised with
        classify := pre ++ post, results := handResult (classify s.cls p d s.packer.timeBase).2 s.raised.results }) := by
    rw [exec_frameReceived, execFrameReceived, htake]
  refine ⟨fun i r hr hmatch hfirst => ?_, fun hnone hdflt => ?_⟩
  · have hfound : firstMatch p d 0 s.cls.rules = some (i, r) := by
      simpa using firstMatch_at (k := 0) hr hmatch hfirst
    have hclassify : classify s.cls p d s.packer.timeBase
        = ({ s.cls with rules := s.cls.rules.set i { r with hits := min counterMax (r.hits + 1) } },
          result i (if r.action = .capture ∨ r.action = .trigger then some (captured r.snap) else none)
            (decide (r.action = .trigger ∨ r.action = .triggerOnly))) := by
      simp [classify, hfound, hitRule, hr, bump_eq, actionResult_eq, captureOf_eq, origLength, result, captured,
        Config.frameKept]
    rw [hexec, hclassify, handResult_eq]
  · have hclassify : classify s.cls p d s.packer.timeBase
        = ({ s.cls with defaultHits := min counterMax (s.cls.defaultHits + 1) },
          result 255 (if s.cls.dflt = .capture then some (captured 200) else none) false) := by
      have hplain : s.cls.dflt ≠ .trigger ∧ s.cls.dflt ≠ .triggerOnly := by
        constructor <;> intro heq <;> simp [heq, defaultValid] at hdflt
      simp [classify, firstMatch_none hnone, bump_eq, actionResult_eq, captureOf_eq, origLength, result, captured,
        Config.frameKept, hplain]
    rw [hexec, hclassify, handResult_eq]

/-! ### Closing the FILLING buffer (R38 to R41) -/

theorem closeFilling_filling {p : Packer} {i : BufId} (h : bufIn p .filling = some i) :
    closeFilling p = madeFull i p := by
  simp [closeFilling, h, closeBuf, madeFull]

theorem closeFilling_none {p : Packer} (h : bufIn p .filling = none) : closeFilling p = p := by
  simp [closeFilling, h]

theorem closeFilling_noTimer {p : Packer} {i : BufId} (h : bufIn p .filling = some i) :
    closeFilling { p with flushTimer := none } = madeFull i p := by
  rw [closeFilling_filling (show bufIn { p with flushTimer := none } .filling = some i from h)]
  cases i <;> rfl

theorem exec_flush {r : Request} (h : Handed 0x20 r s) : exec .flush s
    = .next (settle (respond .ok (be6 s.packer.lastPlaced) (s.setPacker (closeFilling s.packer)))) :=
  congrArg _ (takeRequest_handed h _)

theorem exec_postingClosure (h : s.raised.closures ≠ 0) : exec .postingClosure s
    = .next (settle ((s.setRaised { s.raised with closures := s.raised.closures - 1 }).setPacker
      (closeFilling s.packer))) := by
  change Host.Outcome.next (if s.raised.closures = 0 then s else _) = _
  rw [if_neg h]

/-- Settles O26: FLUSH, the flush timer and the posting closure close the FILLING buffer. -/
theorem theFillingBufferIsClosed : Obligations.TheFillingBufferIsClosed := by
  unfold Obligations.TheFillingBufferIsClosed
  intro i s closed t
  have htimer : exec .flushTimerExpiry s = .next (if s.packer.flushTimer = none then s
      else settle (s.setPacker (closeFilling { s.packer with flushTimer := none }))) := rfl
  refine ⟨fun hfilling hstop hquiet => ⟨fun hruns => ?_, fun hasked => ?_⟩, fun hfilling hquiet r h hroom => ?_,
    fun hfilling hquiet => ⟨fun hstop hasked => ?_, fun r h hroom => ?_⟩, fun hruns => ?_, fun hasked => ?_⟩
  · rw [htimer, if_neg hruns, closeFilling_noTimer hfilling]
    exact congrArg _ (settle_quiet (hstop.carry rfl) hquiet)
  · rw [exec_postingClosure hasked, closeFilling_filling hfilling]
    exact congrArg _ (settle_quiet (hstop.carry rfl) hquiet)
  · rw [exec_flush h, closeFilling_filling hfilling]
    exact congrArg _ (settle_respond_handed h hroom rfl rfl rfl hquiet)
  · rw [exec_postingClosure hasked, closeFilling_none hfilling]
    exact congrArg _ (settle_quiet (hstop.carry rfl) hquiet)
  · rw [exec_flush h, closeFilling_none hfilling]
    exact congrArg _ (settle_respond_handed h hroom rfl rfl rfl hquiet)
  · rw [htimer, if_pos hruns]
  · exact congrArg _ (if_pos hasked)

/-! ### Triggers (R89 to R96) -/

/-- The outcomes of R89 that take no trigger. -/
theorem triggerOutcome_discarded (h : s.ctl.state = .stopped) : triggerOutcome s = .discarded := by
  simp [triggerOutcome, h]

theorem triggerOutcome_ignored (h : s.ctl.state = .posting ∨ s.ctl.state = .closing
    ∨ s.ctl.state = .running ∧ (s.ctl.holdoffTimer ≠ none ∨ s.log.active = none)) : triggerOutcome s = .ignored := by
  rcases h with h | h | ⟨h, hcase⟩
  · simp [triggerOutcome, h]
  · simp [triggerOutcome, h]
  · by_cases hholdoff : s.ctl.holdoffTimer = none
    · simp [triggerOutcome, h, hholdoff, hcase.resolve_left (not_not_intro hholdoff)]
    · simp [triggerOutcome, h, hholdoff]

theorem triggerOutcome_room (hstate : s.ctl.state = .running) (hholdoff : s.ctl.holdoffTimer = none)
    (hactive : s.log.active ≠ none) :
    triggerOutcome s = if 12 ≤ s.dir.entries.length then .refused else .taken := by
  simp [triggerOutcome, hstate, hholdoff, hactive, Config.directoryMax] <;> rfl

theorem repeat_succ_start {α : Type} (f : α → α) (k : Nat) (a : α) :
    Nat.repeat f (k + 1) a = Nat.repeat f k (f a) := by
  induction k with
  | zero => rfl
  | succ k ih => rw [Nat.repeat, ih, Nat.repeat]

/-- The search for a number passes those that an entry holds and stops at the first that none holds. -/
theorem freeNumber_at {d : Directory} {k n num : Nat} (hk : k ≤ n)
    (hheld : ∀ j, j < k → ∃ e ∈ d.entries, e.num = Nat.repeat nextNumber j num)
    (hfree : ∀ e ∈ d.entries, e.num ≠ Nat.repeat nextNumber k num) :
    freeNumber d n num = Nat.repeat nextNumber k num := by
  induction k generalizing n num with
  | zero =>
    cases n with
    | zero => rfl
    | succ n => rw [freeNumber, findEntry_none (show ∀ e ∈ d.entries, e.num ≠ num from hfree)]; rfl
  | succ k ih =>
    obtain ⟨n, rfl⟩ : ∃ m, n = m + 1 := ⟨n - 1, by omega⟩
    obtain ⟨e, he, hnum⟩ := hheld 0 (Nat.succ_pos k)
    have hsome : (findEntry d num).isSome = true := List.find?_isSome.mpr ⟨e, he, decide_eq_true hnum⟩
    rw [freeNumber, if_pos hsome, repeat_succ_start]
    refine ih (Nat.le_of_succ_le_succ hk) (fun j hj => ?_) (fun e he => ?_)
    · rw [← repeat_succ_start]
      exact hheld (j + 1) (Nat.succ_lt_succ hj)
    · rw [← repeat_succ_start]
      exact hfree e he

/-- The state with a trigger taken, short of its CAPTURING job (R91). -/
def triggered (t : Trigger) (num : Nat) (blocks : List Nat) (s : State) : State := { s with
  dir := { entries := s.dir.entries ++ [triggerEntry s t num blocks], nextNumber := nextNumber num },
  log := { blocks.foldl raiseHold s.log with capturingRec := num },
  ctl := { s.ctl with
    state := .posting, postEnd := t.seq + s.ctl.settings.postCount, keptAsked := false,
    taken := min counterMax (s.ctl.taken + 1),
    postTimer := if s.ctl.settings.postTime = 0 then none else some s.ctl.settings.postTime } }

theorem takeTrigger_eq (t : Trigger) (s : State) :
    takeTrigger t s = askJob (.capturing (triggerNumber s) (triggerBlocks s))
      (triggered t (triggerNumber s) (triggerBlocks s) s) := by
  rw [takeTrigger, bump_eq]
  rfl

/-- The CAPTURING job of a trigger waits behind those of a writer that serves another. -/
theorem askJob_capturing {num : Nat} {blocks : List Nat} (husable : s.jrnl.usable = true)
    (hbusy : s.jrnl.state ≠ .idle) : askJob (.capturing num blocks) s
      = { s with jrnl := { s.jrnl with jobs := s.jrnl.jobs ++ [.capturing num blocks] } } :=
  askJob_asked ⟨husable, fun _ => Job.noConfusion, .inl ⟨hbusy, rfl⟩⟩ (fun _ => Job.noConfusion) Job.noConfusion

theorem takeMark_discarded {t : Trigger} (h : s.ctl.state = .stopped) : takeMark t s = s := by
  simp [takeMark, triggerOutcome_discarded h]

theorem takeMark_ignored {t : Trigger} (h : s.ctl.state = .posting ∨ s.ctl.state = .closing
    ∨ s.ctl.state = .running ∧ (s.ctl.holdoffTimer ≠ none ∨ s.log.active = none)) :
    takeMark t s = s.setCtl { s.ctl with ignored := min counterMax (s.ctl.ignored + 1) } := by
  simp [takeMark, triggerOutcome_ignored h, bump_eq]

theorem takeMark_refused {t : Trigger} (hstate : s.ctl.state = .running) (hholdoff : s.ctl.holdoffTimer = none)
    (hactive : s.log.active ≠ none) (hroom : 12 ≤ s.dir.entries.length) :
    takeMark t s = raiseEvent .controller (.triggerRefused t.source t.seq s.dir.entries.length)
      (s.setCtl { s.ctl with refused := min counterMax (s.ctl.refused + 1) }) := by
  simp [takeMark, triggerOutcome_room hstate hholdoff hactive, hroom, bump_eq]

theorem takeMark_taken {t : Trigger} (hstate : s.ctl.state = .running) (hholdoff : s.ctl.holdoffTimer = none)
    (hactive : s.log.active ≠ none) (hroom : s.dir.entries.length < 12) : takeMark t s = takeTrigger t s := by
  simp [takeMark, triggerOutcome_room hstate hholdoff hactive, Nat.not_le.mpr hroom]

theorem triggerFirst_eq {a : Nat} (blocks : List Nat) (hne : blocks ≠ []) : triggerFirst s blocks
    = max s.ctl.runOrigin (((blockEntry s.log (blocks.headD a)).firstSeq).getD (oldestHeld s.packer)) := by
  cases blocks with
  | nil => exact absurd rfl hne
  | cons b rest => rfl

theorem foldl_raiseHold_nextPageSeq (blocks : List Nat) (l : LogManager) :
    (blocks.foldl raiseHold l).nextPageSeq = l.nextPageSeq := by
  induction blocks generalizing l with
  | nil => rfl
  | cons b rest ih => exact ih (raiseHold l b)

theorem exec_triggerMark {m : TriggerMark} {rest : List TriggerMark} (h : s.raised.marks = m :: rest) :
    exec .triggerMark s = .next (takeMark { source := .rule m.rule, seq := m.seq, time := m.time, lost := m.lost }
      (s.setRaised { s.raised with marks := rest })) := by
  change execTriggerMark s = _
  rw [execTriggerMark, h]

/-- Settles O25: the outcomes of R89, and the recording that a trigger creates. -/
theorem triggersHaveTheirOutcome : Obligations.TriggersHaveTheirOutcome := by
  unfold Obligations.TriggersHaveTheirOutcome
  refine ⟨fun m rest s hmarks => ?_, fun m rest a k s hmarks hstate hholdoff hactive hroom husable => ?_⟩
  · intro t
    rw [exec_triggerMark hmarks]
    exact ⟨fun hstate => congrArg _ (takeMark_discarded (s := t) hstate),
      fun hcase => congrArg _ (takeMark_ignored (s := t) hcase),
      fun hstate hholdoff hactive hroom => congrArg _ (takeMark_refused (s := t) hstate hholdoff hactive hroom)⟩
  · let t := s.setRaised { s.raised with marks := rest }
    intro after num hk hheld hfree x window blocks e taken
    have hnum : triggerNumber t = num :=
      freeNumber_at (Nat.le_succ_of_le hk) hheld hfree
    have hblocks : triggerBlocks t = blocks := by
      rw [triggerBlocks, show t.log.active = some a from hactive]
      rfl
    have hentry : triggerEntry t { source := .rule m.rule, seq := m.seq, time := m.time, lost := m.lost } num blocks = e := by
      rw [triggerEntry, triggerFirst_eq (a := a) blocks (by simp [blocks])]
      rfl
    have hexec : exec .triggerMark s = .next (askJob (.capturing num blocks) (taken s.jrnl)) := by
      have hmark := takeMark_taken (s := t) (t := { source := .rule m.rule, seq := m.seq, time := m.time, lost := m.lost })
        hstate hholdoff (by simp [t, hactive]) hroom
      rw [takeTrigger_eq, hnum, hblocks, triggered, hentry] at hmark
      rw [exec_triggerMark hmarks]
      exact congrArg _ hmark
    rw [hexec]
    refine ⟨fun hbusy => ?_, fun d hidle hjobs hcur hd hpage hready hrunning halone hseq => ?_⟩
    · rw [askJob_capturing (s := taken s.jrnl) husable hbusy]
    · have hfind : findEntry (taken s.jrnl).dir e.num = some e := by
        refine findEntry_alone (by simp [taken]) (fun y hy hnum => ?_)
        rcases List.mem_append.mp hy with hold | hnew
        · exact absurd hnum (hfree y hold)
        · simpa using hnew
      have hasked : JobAsked (.capturing num blocks) (taken s.jrnl)
          (pageHanded .journal .journal d s.jrnl.nextPage
            (.journal { role := .append, nextNumber := after num, record := snapshotRecord e .capturing blocks })
            (taken { s.jrnl with state := .appending, jobs := [.capturing num blocks] })) := by
        refine ⟨husable, fun _ => Job.noConfusion, .inr ⟨hidle, hready, hrunning, halone, ?_, .capturing num blocks, [],
          by simp [taken, hjobs], fun _ => Job.noConfusion, Job.noConfusion, .inl ⟨d, snapshotRecord e .capturing blocks,
            hcur, hd, hpage, .inr (.inr ⟨e, .capturing, blocks, hfind, rfl, .inl ⟨rfl, rfl⟩⟩), rfl⟩⟩⟩
        simpa [taken, foldl_raiseHold_nextPageSeq] using hseq
      rw [askJob_asked hasked (fun _ => Job.noConfusion) Job.noConfusion]

end Sys2Proof.Machine
end

section
/-! PROOF. The rule requests and the layout of rule entries (01, 1.6; 12, 12.6). -/

set_option Elab.async false

namespace Sys2Proof.Machine

variable {s : State} {r : Request}

/-! ### Enumerated values (12.5) -/

theorem ruleStateOf_eq (n : Nat) :
    ruleStateOf n = if n = 1 ∨ n = 2 then some (if n = 1 then .enabled else .disabled) else none := by
  match n with
  | 0 | 1 | 2 => rfl
  | _ + 3 => simp [ruleStateOf]

theorem ruleDirOf_eq (n : Nat) :
    ruleDirOf n = if n ≤ 2 then some (if n = 0 then .aToB else if n = 1 then .bToA else .either) else none := by
  match n with
  | 0 | 1 | 2 => rfl
  | _ + 3 => simp [ruleDirOf]

theorem frameKindOf_eq (n : Nat) :
    frameKindOf n = if n ≤ 2 then some (if n = 0 then .good else if n = 1 then .error else .any) else none := by
  match n with
  | 0 | 1 | 2 => rfl
  | _ + 3 => simp [frameKindOf]

theorem actionOf_eq (n : Nat) :
    actionOf n = if n ≤ 3 then some (if n = 0 then .pass else if n = 1 then .capture else if n = 2 then .trigger
      else .triggerOnly) else none := by
  match n with
  | 0 | 1 | 2 | 3 => rfl
  | _ + 4 => simp [actionOf]

theorem senseOf_eq (n : Nat) :
    senseOf n = if n ≤ 1 then some (if n = 0 then .equal else .notEqual) else none := by
  match n with
  | 0 | 1 => rfl
  | _ + 2 => simp [senseOf]

/-! ### The definition that WRITE_RULE carries (R15) -/

/-- A byte of the parameters. -/
def paramByte (ps : Bytes) (k : Nat) : Nat := (byteAt ps k).toNat

/-- The payload test at its places in the parameters, in range or not. -/
def testAt (ps : Bytes) : PayloadTest :=
  { offset := paramByte ps 13, length := paramByte ps 14, value := BitVec.ofNat 32 (fieldAt 15 4 ps),
    mask := BitVec.ofNat 32 (fieldAt 19 4 ps), sense := if paramByte ps 23 = 0 then .equal else .notEqual }

/-- A field of one byte of the parameters. -/
theorem fieldAt_paramByte (ps : Bytes) (k : Nat) : fieldAt k 1 ps = paramByte ps k := fieldAt_one k ps

theorem readTest_eq (ps : Bytes) :
    readTest ps = if paramByte ps 12 = 0 then some none
      else if paramByte ps 12 = 1 ∧ paramByte ps 23 ≤ 1 then some (some (testAt ps)) else none := by
  simp only [readTest, fieldAt_paramByte, senseOf_eq]
  by_cases hnone : paramByte ps 12 = 0
  · simp [hnone]
  · by_cases hone : paramByte ps 12 = 1
    · by_cases hsense : paramByte ps 23 ≤ 1 <;> simp [hone, hsense, testAt]
    · split
      · contradiction
      · contradiction
      · simp [hnone, hone]

/-- The entry definition at its places in the parameters, in range or not. -/
def entryAt (ps : Bytes) : Rule :=
  { state := if paramByte ps 1 = 1 then .enabled else .disabled,
    dir := if paramByte ps 2 = 0 then .aToB else if paramByte ps 2 = 1 then .bToA else .either,
    kind := if paramByte ps 3 = 0 then .good else if paramByte ps 3 = 1 then .error else .any,
    destValue := byteAt ps 4, destMask := byteAt ps 5, srcValue := byteAt ps 6, srcMask := byteAt ps 7,
    classLow := paramByte ps 8, classHigh := paramByte ps 9, lenMin := paramByte ps 10, lenMax := paramByte ps 11,
    test := if paramByte ps 12 = 0 then none else some (testAt ps),
    action := if paramByte ps 24 = 0 then .pass else if paramByte ps 24 = 1 then .capture
      else if paramByte ps 24 = 2 then .trigger else .triggerOnly,
    snap := paramByte ps 25, hits := 0 }

/-- The ranges of R15 that a payload test can miss. -/
abbrev TestFits (ps : Bytes) : Prop :=
  paramByte ps 12 = 0 ∨ (paramByte ps 12 = 1 ∧ paramByte ps 13 ≤ 239 ∧ 1 ≤ paramByte ps 14 ∧ paramByte ps 14 ≤ 4
    ∧ paramByte ps 13 + paramByte ps 14 ≤ 240 ∧ fieldAt 15 4 ps < 256 ^ paramByte ps 14
    ∧ fieldAt 19 4 ps < 256 ^ paramByte ps 14 ∧ paramByte ps 23 ≤ 1)

/-- The checks of R15 that a definition can miss. -/
abbrev EntryFits (ps : Bytes) : Prop :=
  (paramByte ps 1 = 1 ∨ paramByte ps 1 = 2) ∧ paramByte ps 2 ≤ 2 ∧ paramByte ps 3 ≤ 2
    ∧ paramByte ps 8 ≤ paramByte ps 9 ∧ paramByte ps 10 ≤ paramByte ps 11 ∧ paramByte ps 11 ≤ 240 ∧ TestFits ps
    ∧ paramByte ps 24 ≤ 3 ∧ paramByte ps 25 ≤ 200

/-- A field of four bytes fills a word of 32 bits. -/
theorem toNat_fieldAt_four (off : Nat) (ps : Bytes) : (BitVec.ofNat 32 (fieldAt off 4 ps)).toNat = fieldAt off 4 ps := by
  rw [BitVec.toNat_ofNat]
  exact Nat.mod_eq_of_lt (fieldAt_lt off 4 ps)

theorem testValid_iff (t : PayloadTest) :
    testValid t = true ↔ t.offset ≤ 239 ∧ 1 ≤ t.length ∧ t.length ≤ 4 ∧ t.offset + t.length ≤ 240
      ∧ t.value.toNat < 256 ^ t.length ∧ t.mask.toNat < 256 ^ t.length := by
  simp [testValid, and_assoc]

theorem testValid_testAt (ps : Bytes) :
    testValid (testAt ps) = true ↔ paramByte ps 13 ≤ 239 ∧ 1 ≤ paramByte ps 14 ∧ paramByte ps 14 ≤ 4
      ∧ paramByte ps 13 + paramByte ps 14 ≤ 240 ∧ fieldAt 15 4 ps < 256 ^ paramByte ps 14
      ∧ fieldAt 19 4 ps < 256 ^ paramByte ps 14 := by
  rw [testValid_iff]
  simp only [testAt, toNat_fieldAt_four]

theorem ruleValid_iff (e : Rule) :
    ruleValid e = true ↔ e.classLow ≤ e.classHigh ∧ e.classHigh ≤ 255 ∧ e.lenMin ≤ e.lenMax ∧ e.lenMax ≤ 240
      ∧ e.snap ≤ 200 ∧ ∀ t, e.test = some t → testValid t = true := by
  cases ht : e.test <;> simp [ruleValid, ht, and_assoc]

/-- WRITE_RULE carries a definition exactly when its parameters pass every check. -/
theorem readRuleEntry_eq (ps : Bytes) : readRuleEntry ps = if EntryFits ps then some (entryAt ps) else none := by
  have hhigh : paramByte ps 9 ≤ 255 := Nat.le_of_lt_succ (byteAt ps 9).isLt
  have hread : readRuleEntry ps = if (paramByte ps 1 = 1 ∨ paramByte ps 1 = 2) ∧ paramByte ps 2 ≤ 2
      ∧ paramByte ps 3 ≤ 2 ∧ (paramByte ps 12 = 0 ∨ paramByte ps 12 = 1 ∧ paramByte ps 23 ≤ 1) ∧ paramByte ps 24 ≤ 3
      ∧ ruleValid (entryAt ps) = true then some (entryAt ps) else none := by
    simp only [readRuleEntry, fieldAt_paramByte, ruleStateOf_eq, ruleDirOf_eq, frameKindOf_eq, readTest_eq,
      actionOf_eq]
    by_cases hstate : paramByte ps 1 = 1 ∨ paramByte ps 1 = 2
    case neg => simp [hstate]
    by_cases hdir : paramByte ps 2 ≤ 2
    case neg => simp [hdir, hstate]
    by_cases hkind : paramByte ps 3 ≤ 2
    case neg => simp [hkind, hstate, hdir]
    by_cases haction : paramByte ps 24 ≤ 3
    case neg => simp [haction]
    by_cases hnone : paramByte ps 12 = 0
    · simp [hstate, hdir, hkind, haction, hnone, entryAt]
    · by_cases htest : paramByte ps 12 = 1 ∧ paramByte ps 23 ≤ 1
      · simp [hstate, hdir, hkind, haction, htest, entryAt]
      · simp [hstate, hdir, hkind, hnone, htest]
  have hfits : ((paramByte ps 1 = 1 ∨ paramByte ps 1 = 2) ∧ paramByte ps 2 ≤ 2
      ∧ paramByte ps 3 ≤ 2 ∧ (paramByte ps 12 = 0 ∨ paramByte ps 12 = 1 ∧ paramByte ps 23 ≤ 1) ∧ paramByte ps 24 ≤ 3
      ∧ ruleValid (entryAt ps) = true) ↔ EntryFits ps := by
    rw [ruleValid_iff]
    by_cases hnone : paramByte ps 12 = 0
    · simp [entryAt, EntryFits, hnone, TestFits, hhigh]
      omega
    · have htest : (∀ t, (entryAt ps).test = some t → testValid t = true) ↔ testValid (testAt ps) = true := by
        simp [entryAt, hnone]
      rw [htest, testValid_testAt]
      simp [entryAt, EntryFits, hnone, TestFits, hhigh]
      omega
  rw [hread]
  simp only [hfits]

/-! ### Rule requests -/

/-- The requests of one index. -/
theorem ruleIndex_one {i : Byte} (h : r.params = [i]) : ruleIndex r.params = i.toNat := by
  rw [ruleIndex, fieldAt_one, h]
  rfl

theorem ruleAt_of {c : Classifier} {i : Nat} {e : Rule} (h : c.rules[i]? = some e) : ruleAt c i = e := by
  simp [ruleAt, List.getD_eq_getElem?_getD, h]

theorem index_lt {c : Classifier} {i : Nat} {e : Rule} (hlen : c.rules.length = 48) (h : c.rules[i]? = some e) :
    i < 48 := by
  obtain ⟨hi, -⟩ := List.getElem?_eq_some_iff.mp h
  omega

/-- A rule request that is answered from the classifier's new state. -/
theorem answer_setCls {code : Byte} {st : Status} {result : Bytes} {c : Classifier} (h : Handed code r s)
    (hroom : ReplyRoom r s) : respond st result (s.setCls c) = replied r st result (s.setCls c) :=
  respond_handed h hroom rfl rfl rfl

theorem exec_writeRule (h : Handed codeWriteRule r s) (hroom : ReplyRoom r s) : exec .writeRule s = .next
    (if EntryFits r.params ∧ paramByte r.params 0 ≤ 47 then
      replied r .ok [] (s.setCls { s.cls with rules := s.cls.rules.set (paramByte r.params 0) (entryAt r.params) })
    else replied r .badValue [] s) := by
  change Host.Outcome.next _ = _
  rw [takeRequest_handed h, readRuleEntry_eq, ruleIndex, fieldAt_paramByte]
  by_cases hfits : EntryFits r.params
  · by_cases hindex : paramByte r.params 0 ≤ 47
    · have hlt : paramByte r.params 0 < Config.ruleCount := Nat.lt_succ_of_le hindex
      simp only [if_pos hfits, if_pos hlt, if_pos (And.intro hfits hindex), answer_setCls h hroom, setRule]
    · have hge : ¬ paramByte r.params 0 < Config.ruleCount := fun hlt => hindex (Nat.le_of_lt_succ hlt)
      simp only [if_pos hfits, if_neg hge, if_neg (fun hboth : EntryFits r.params ∧ _ => hindex hboth.2),
        respond_handed h hroom rfl rfl rfl]
  · simp only [if_neg hfits, if_neg (fun hboth : EntryFits r.params ∧ _ => hfits hboth.1),
      respond_handed h hroom rfl rfl rfl]

theorem exec_readRule (h : Handed codeReadRule r s) (hroom : ReplyRoom r s) : exec .readRule s = .next
    (if paramByte r.params 0 < 48 then
      replied r .ok (ruleBytes (paramByte r.params 0) (ruleAt s.cls (paramByte r.params 0))
        ++ be 4 (ruleAt s.cls (paramByte r.params 0)).hits) s
    else replied r .badValue [] s) := by
  change Host.Outcome.next _ = _
  rw [takeRequest_handed h, ruleIndex, fieldAt_paramByte]
  by_cases hindex : paramByte r.params 0 < 48
  · rw [if_pos hindex, if_pos (show _ < Config.ruleCount from hindex)]
    exact congrArg _ (respond_handed h hroom rfl rfl rfl)
  · rw [if_neg hindex, if_neg (show ¬ _ < Config.ruleCount from hindex)]
    exact congrArg _ (respond_handed h hroom rfl rfl rfl)

/-- An entry that is moved to another State. -/
theorem moveRule_eq {code : Byte} {st : RuleState} {i : Byte} (h : Handed code r s) (hroom : ReplyRoom r s)
    (hparams : r.params = [i]) : moveRule st r s
      = if i.toNat < 48 then
          if (ruleAt s.cls i.toNat).state = .unused then replied r .notFound [] s
          else replied r .ok [] (s.setCls (setRule s.cls i.toNat { ruleAt s.cls i.toNat with state := st }))
        else replied r .badValue [] s := by
  simp only [moveRule, ruleIndex_one hparams, Config.ruleCount, answer_setCls h hroom,
    respond_handed h hroom rfl rfl rfl]

/-- One entry changed, or all of them. -/
theorem changeRules_eq {code : Byte} {f : Rule → Rule} {i : Byte} (h : Handed code r s) (hroom : ReplyRoom r s)
    (hparams : r.params = [i]) : changeRules f r s
      = if i = 255 then replied r .ok [] (s.setCls { s.cls with rules := s.cls.rules.map f })
        else if i.toNat < 48 then replied r .ok [] (s.setCls (setRule s.cls i.toNat (f (ruleAt s.cls i.toNat))))
        else replied r .badValue [] s := by
  have hall : i.toNat = 255 ↔ i = 255 := BitVec.toNat_inj (y := 255#8)
  simp only [changeRules, ruleIndex_one hparams, Config.ruleCount, answer_setCls h hroom,
    respond_handed h hroom rfl rfl rfl, hall]

theorem exec_enableRule (h : Handed 0x12 r s) : exec .enableRule s = .next (moveRule .enabled r s) :=
  congrArg _ (takeRequest_handed h _)

theorem exec_disableRule (h : Handed 0x13 r s) : exec .disableRule s = .next (moveRule .disabled r s) :=
  congrArg _ (takeRequest_handed h _)

theorem exec_clearRule (h : Handed 0x14 r s) :
    exec .clearRule s = .next (changeRules (fun _ => Rule.cleared) r s) :=
  congrArg _ (takeRequest_handed h _)

theorem exec_clearHits (h : Handed 0x15 r s) : exec .clearHits s = .next (changeRules clearHit r s) :=
  congrArg _ (takeRequest_handed h _)

/-- Settles O50: the rule requests by the checks of R15 and the index. -/
theorem rulesAreWrittenReadMovedAndCleared : Obligations.RulesAreWrittenReadMovedAndCleared := by
  unfold Obligations.RulesAreWrittenReadMovedAndCleared
  refine ⟨fun r s hroom => ?_, fun r i s hroom hparams hlen => ?_⟩
  · intro n value mask testValid valid rule
    have hvalid : valid ↔ EntryFits r.params ∧ paramByte r.params 0 ≤ 47 := by
      simp only [valid, testValid, n, value, mask, EntryFits, TestFits, paramByte]
      omega
    refine ⟨fun h hlength => ⟨fun hok => ?_, fun hbad => ?_⟩, fun h hlength hlen => ⟨fun e he => ?_, fun hbad => ?_⟩⟩
    · rw [exec_writeRule h hroom, if_pos (hvalid.mp hok)]
      rfl
    · rw [exec_writeRule h hroom, if_neg (fun hok => hbad (hvalid.mpr hok))]
    · have hat : s.cls.rules[paramByte r.params 0]? = some e := he
      rw [exec_readRule h hroom, if_pos (index_lt hlen hat), ruleAt_of hat]
      rfl
    · rw [exec_readRule h hroom, if_neg (show ¬ paramByte r.params 0 < 48 from Nat.not_lt.mpr hbad)]
  · intro put cleared bad
    have hnot (e : Rule) (he : s.cls.rules[i.toNat]? = some e) : i ≠ 255 := by
      rintro rfl
      exact absurd (index_lt hlen he) (by decide)
    refine ⟨fun e he => ⟨fun huse h => ?_, fun huse h => ?_, fun huse => ⟨fun h => ?_, fun h => ?_⟩, fun h => ?_,
      fun h => ?_⟩, fun hall => ⟨fun h => ?_, fun h => ?_⟩,
      fun hout => ⟨fun h => ?_, fun h => ?_, fun hne => ⟨fun h => ?_, fun h => ?_⟩⟩⟩
    · rw [exec_enableRule h, moveRule_eq h hroom hparams, if_pos (index_lt hlen he), ruleAt_of he, if_neg huse]
      rfl
    · rw [exec_disableRule h, moveRule_eq h hroom hparams, if_pos (index_lt hlen he), ruleAt_of he, if_neg huse]
      rfl
    · rw [exec_enableRule h, moveRule_eq h hroom hparams, if_pos (index_lt hlen he), ruleAt_of he, if_pos huse]
    · rw [exec_disableRule h, moveRule_eq h hroom hparams, if_pos (index_lt hlen he), ruleAt_of he, if_pos huse]
    · rw [exec_clearRule h, changeRules_eq h hroom hparams, if_neg (hnot e he), if_pos (index_lt hlen he)]
      rfl
    · rw [exec_clearHits h, changeRules_eq h hroom hparams, if_neg (hnot e he), if_pos (index_lt hlen he),
        ruleAt_of he]
      rfl
    · rw [exec_clearRule h, changeRules_eq h hroom hparams, if_pos hall, List.map_const', hlen]
      rfl
    · rw [exec_clearHits h, changeRules_eq h hroom hparams, if_pos hall]
      rfl
    · rw [exec_enableRule h, moveRule_eq h hroom hparams, if_neg (Nat.not_lt.mpr hout)]
    · rw [exec_disableRule h, moveRule_eq h hroom hparams, if_neg (Nat.not_lt.mpr hout)]
    · rw [exec_clearRule h, changeRules_eq h hroom hparams, if_neg hne, if_neg (Nat.not_lt.mpr hout)]
    · rw [exec_clearHits h, changeRules_eq h hroom hparams, if_neg hne, if_neg (Nat.not_lt.mpr hout)]

/-! ### The layout of an entry (12.6) -/

/-- The payload test in the parameter layout: present, offset, length, value, mask, sense. -/
def testBytes : Option PayloadTest → Bytes
  | none => b1 0 ++ b1 0 ++ b1 0 ++ be 4 0 ++ be 4 0 ++ b1 0
  | some t => b1 1 ++ b1 t.offset ++ b1 t.length ++ be 4 t.value.toNat ++ be 4 t.mask.toNat ++ b1 (senseCode t.sense)

theorem ruleBytes_eq (i : Nat) (e : Rule) : ruleBytes i e
    = [BitVec.ofNat 8 i, BitVec.ofNat 8 (ruleStateCode e.state), BitVec.ofNat 8 (ruleDirCode e.dir),
        BitVec.ofNat 8 (frameKindCode e.kind), e.destValue, e.destMask, e.srcValue, e.srcMask,
        BitVec.ofNat 8 e.classLow, BitVec.ofNat 8 e.classHigh, BitVec.ofNat 8 e.lenMin, BitVec.ofNat 8 e.lenMax]
      ++ (testBytes e.test ++ [BitVec.ofNat 8 (actionCode e.action), BitVec.ofNat 8 e.snap]) := by
  cases ht : e.test <;> simp [ruleBytes, ht, testBytes, b1, List.append_assoc]

/-- A number of four bytes is read back from them. -/
theorem beNat_be_four (x : BitVec 32) : beNat (be 4 x.toNat) = x.toNat := by
  have hlt := x.isLt
  simp [be, beNat]
  omega

/-- The bytes of the layout around the payload test are those of the entry. -/
theorem paramByte_ruleBytes (i : Nat) (e : Rule) :
    paramByte (ruleBytes i e) 0 = i % 256 ∧ paramByte (ruleBytes i e) 1 = ruleStateCode e.state
      ∧ paramByte (ruleBytes i e) 2 = ruleDirCode e.dir ∧ paramByte (ruleBytes i e) 3 = frameKindCode e.kind
      ∧ paramByte (ruleBytes i e) 8 = e.classLow % 256 ∧ paramByte (ruleBytes i e) 9 = e.classHigh % 256
      ∧ paramByte (ruleBytes i e) 10 = e.lenMin % 256 ∧ paramByte (ruleBytes i e) 11 = e.lenMax % 256
      ∧ paramByte (ruleBytes i e) 24 = actionCode e.action ∧ paramByte (ruleBytes i e) 25 = e.snap % 256 := by
  have hstate : ruleStateCode e.state % 256 = ruleStateCode e.state := by cases e.state <;> rfl
  have hdir : ruleDirCode e.dir % 256 = ruleDirCode e.dir := by cases e.dir <;> rfl
  have hkind : frameKindCode e.kind % 256 = frameKindCode e.kind := by cases e.kind <;> rfl
  have haction : actionCode e.action % 256 = actionCode e.action := by cases e.action <;> rfl
  rw [ruleBytes_eq]
  cases e.test <;> simp [paramByte, byteAt, testBytes, b1, be, hstate, hdir, hkind, haction]

theorem byteAt_ruleBytes (i : Nat) (e : Rule) :
    byteAt (ruleBytes i e) 4 = e.destValue ∧ byteAt (ruleBytes i e) 5 = e.destMask
      ∧ byteAt (ruleBytes i e) 6 = e.srcValue ∧ byteAt (ruleBytes i e) 7 = e.srcMask := by
  rw [ruleBytes_eq]
  exact ⟨rfl, rfl, rfl, rfl⟩

theorem paramByte_ruleBytes_none {i : Nat} {e : Rule} (h : e.test = none) : paramByte (ruleBytes i e) 12 = 0 := by
  rw [ruleBytes_eq, h]
  rfl

/-- The payload test in the layout is read as it was laid out. -/
theorem testAt_ruleBytes {i : Nat} {e : Rule} {t : PayloadTest} (h : e.test = some t) (hvalid : testValid t = true) :
    paramByte (ruleBytes i e) 12 = 1 ∧ paramByte (ruleBytes i e) 23 ≤ 1 ∧ testAt (ruleBytes i e) = t := by
  obtain ⟨hoffset, -, hlength, -, -, -⟩ := (testValid_iff t).mp hvalid
  have hvalue : fieldAt 15 4 (ruleBytes i e) = t.value.toNat := by
    have hslice : slice 15 4 (ruleBytes i e) = be 4 t.value.toNat := by rw [ruleBytes_eq, h]; rfl
    rw [fieldAt, hslice, beNat_be_four]
  have hmask : fieldAt 19 4 (ruleBytes i e) = t.mask.toNat := by
    have hslice : slice 19 4 (ruleBytes i e) = be 4 t.mask.toNat := by rw [ruleBytes_eq, h]; rfl
    rw [fieldAt, hslice, beNat_be_four]
  have hbytes : paramByte (ruleBytes i e) 12 = 1 ∧ paramByte (ruleBytes i e) 13 = t.offset % 256
      ∧ paramByte (ruleBytes i e) 14 = t.length % 256 ∧ paramByte (ruleBytes i e) 23 = senseCode t.sense := by
    rw [ruleBytes_eq, h]
    cases hs : t.sense <;> simp [paramByte, byteAt, testBytes, b1, be, senseCode, hs]
  obtain ⟨hpresent, hoff, hlen, hsense⟩ := hbytes
  refine ⟨hpresent, ?_, ?_⟩
  · rw [hsense]
    cases t.sense <;> decide
  · rw [testAt, hvalue, hmask, hoff, hlen, hsense, Nat.mod_eq_of_lt (by omega), Nat.mod_eq_of_lt (by omega)]
    cases t with
    | mk offset length value mask sense => cases sense <;> simp [senseCode]

/-- A definition in range, in use, is what is read from its layout. -/
theorem readRuleEntry_ruleBytes {i : Nat} {e : Rule} (hvalid : ruleValid e = true) (huse : e.state ≠ .unused) :
    readRuleEntry (ruleBytes i e) = some { e with hits := 0 } := by
  obtain ⟨hclass, hhigh, hlen, hmax, hsnap, htest⟩ := (ruleValid_iff e).mp hvalid
  obtain ⟨-, hstate, hdir, hkind, hlow8, hhigh9, hmin10, hmax11, haction, hsnap25⟩ := paramByte_ruleBytes i e
  obtain ⟨hdest, hdestMask, hsrc, hsrcMask⟩ := byteAt_ruleBytes i e
  rw [Nat.mod_eq_of_lt (by omega)] at hlow8 hhigh9 hmin10 hmax11 hsnap25
  have htestAt : (if paramByte (ruleBytes i e) 12 = 0 then none else some (testAt (ruleBytes i e))) = e.test := by
    cases ht : e.test with
    | none => rw [if_pos (paramByte_ruleBytes_none ht)]
    | some t =>
      obtain ⟨hpresent, -, hread⟩ := testAt_ruleBytes (i := i) ht (htest t ht)
      rw [hpresent, hread]
      rfl
  have hentry : entryAt (ruleBytes i e) = { e with hits := 0 } := by
    have hstateRead : (if ruleStateCode e.state = 1 then RuleState.enabled else .disabled) = e.state := by
      cases hs : e.state <;> simp_all [ruleStateCode]
    have hdirRead : (if ruleDirCode e.dir = 0 then RuleDir.aToB else if ruleDirCode e.dir = 1 then .bToA else .either)
        = e.dir := by cases e.dir <;> rfl
    have hkindRead : (if frameKindCode e.kind = 0 then FrameKind.good else if frameKindCode e.kind = 1 then .error
        else .any) = e.kind := by cases e.kind <;> rfl
    have hactionRead : (if actionCode e.action = 0 then Action.pass else if actionCode e.action = 1 then .capture
        else if actionCode e.action = 2 then .trigger else .triggerOnly) = e.action := by cases e.action <;> rfl
    simp only [entryAt, htestAt, hstate, hdir, hkind, hlow8, hhigh9, hmin10, hmax11, haction, hsnap25, hdest, hdestMask,
      hsrc, hsrcMask, hstateRead, hdirRead, hkindRead, hactionRead]
  have hfits : EntryFits (ruleBytes i e) := by
    have hstateFits : ruleStateCode e.state = 1 ∨ ruleStateCode e.state = 2 := by
      cases hs : e.state <;> simp_all [ruleStateCode]
    have hdirFits : ruleDirCode e.dir ≤ 2 := by cases e.dir <;> decide
    have hkindFits : frameKindCode e.kind ≤ 2 := by cases e.kind <;> decide
    have hactionFits : actionCode e.action ≤ 3 := by cases e.action <;> decide
    refine ⟨hstate ▸ hstateFits, hdir ▸ hdirFits, hkind ▸ hkindFits, by omega, by omega, by omega, ?_,
      haction ▸ hactionFits, by omega⟩
    cases ht : e.test with
    | none => exact .inl (paramByte_ruleBytes_none ht)
    | some t =>
      obtain ⟨hpresent, hsense, hread⟩ := testAt_ruleBytes (i := i) ht (htest t ht)
      obtain ⟨hoffset, hpositive, hlength, hend, hvalue, hmask⟩ :=
        (testValid_testAt (ruleBytes i e)).mp (hread.symm ▸ htest t ht)
      exact .inr ⟨hpresent, hoffset, hpositive, hlength, hend, hvalue, hmask, hsense⟩
  rw [readRuleEntry_eq, if_pos hfits, hentry]

/-- The layout of an entry with another State differs in the byte of the State. -/
theorem ruleBytes_setState (i : Nat) (e : Rule) (st : RuleState) :
    (ruleBytes i e).set 1 (BitVec.ofNat 8 (ruleStateCode st)) = ruleBytes i { e with state := st } := by
  rw [ruleBytes_eq, ruleBytes_eq]
  rfl

/-- Settles O60: an entry is what is read from its layout. -/
theorem ruleLayoutsRoundTrip : Obligations.RuleLayoutsRoundTrip := by
  unfold Obligations.RuleLayoutsRoundTrip
  intro i e hi hvalid
  obtain ⟨hindex, hstate, -⟩ := paramByte_ruleBytes i e
  refine ⟨?_, ?_, ?_, readRuleEntry_ruleBytes hvalid, fun hunused => ⟨?_, ?_⟩⟩
  · rw [ruleBytes_eq]
    cases e.test <;> rfl
  · rw [fieldAt_paramByte, hindex, Nat.mod_eq_of_lt (by omega)]
  · rw [fieldAt_paramByte, hstate]
    cases e.state <;> rfl
  · rw [readRuleEntry_eq, if_neg]
    rintro ⟨huse, -⟩
    rw [hstate, hunused] at huse
    exact absurd huse (by decide)
  · have hset : (ruleBytes i e).set 1 1 = ruleBytes i { e with state := .enabled } := ruleBytes_setState i e .enabled
    rw [hset, readRuleEntry_ruleBytes (e := { e with state := .enabled }) hvalid (by simp)]

end Sys2Proof.Machine
end

section
/-! PROOF. Own frames at a receiver, forced triggers, the requests that wait for a page, and the requests that report
the state (05, 06, 09, 12). -/

set_option Elab.async false

namespace Sys2Proof.Machine

variable {s t : State} {r : Request}

/-! ### Own frames (12.2) -/

theorem ownFrame_eq (own dest : Byte) (cls : Nat) (payload : Bytes) : ownFrame own dest cls payload
    = dest :: own :: BitVec.ofNat 8 cls :: 0 :: BitVec.ofNat 8 payload.length :: payload := rfl

theorem withCheck_eq (bs : Bytes) :
    withCheck bs = bs ++ [BitVec.ofNat 8 ((crc16 bs).toNat / 256), BitVec.ofNat 8 (crc16 bs).toNat] := rfl

/-- The check stands in the last two bytes, high byte first. -/
theorem byteAt_withCheck (bs : Bytes) :
    (byteAt (withCheck bs) bs.length).toNat * 256 + (byteAt (withCheck bs) (bs.length + 1)).toNat
      = (crc16 bs).toNat := by
  have hlt := (crc16 bs).isLt
  simp [withCheck_eq, byteAt]
  omega

/-- Settles O59: a receiver finds the check and the length right, and reads the fields as they were written. -/
theorem ownFramesAreReceivedGood : Obligations.OwnFramesAreReceivedGood := by
  unfold Obligations.OwnFramesAreReceivedGood
  intro own dest cls payload hcls hlen frame
  have hlength : frame.length = 7 + payload.length := by simp [frame, withCheck_eq, ownFrame_eq]; omega
  have hlenByte : (byteAt frame 4).toNat = payload.length := by
    simp [frame, withCheck_eq, ownFrame_eq, byteAt]
    omega
  refine ⟨?_, hlength, rfl, rfl, ?_, hlenByte, ?_⟩
  · have hbody : (ownFrame own dest cls payload).length = frame.length - 2 := by rw [hlength, ownFrame_eq]; simp; omega
    have hcheck := byteAt_withCheck (ownFrame own dest cls payload)
    have htake : frame.take (frame.length - 2) = ownFrame own dest cls payload := by
      rw [← hbody]
      exact List.take_left
    rw [hbody, show frame.length - 2 + 1 = frame.length - 1 by omega] at hcheck
    rw [receiveOutcome_eq, if_neg (by omega), if_neg (by omega), htake, if_neg (not_not_intro hcheck.symm),
      if_neg (by omega)]
  · have hclsByte : byteAt frame 2 = BitVec.ofNat 8 cls := rfl
    rw [hclsByte, BitVec.toNat_ofNat, Nat.mod_eq_of_lt (by omega)]
  · have hdrop : frame.drop 5 = payload ++ [BitVec.ofNat 8 ((crc16 (ownFrame own dest cls payload)).toNat / 256),
        BitVec.ofNat 8 (crc16 (ownFrame own dest cls payload)).toNat] := rfl
    rw [payloadOf, slice, hdrop, hlenByte]
    exact List.take_left

/-! ### FORCE_TRIGGER (R90) -/

theorem exec_forceTrigger (h : Handed codeForceTrigger r s) : exec .forceTrigger s = .next
    (match triggerOutcome s with
      | .taken => respond .ok (be 2 (triggerNumber s) ++ be6 s.packer.nextSeq) (takeMark (forcedTrigger s) s)
      | .ignored => respond .busy [] (takeMark (forcedTrigger s) s)
      | .refused => respond .noRoom [] (takeMark (forcedTrigger s) s)
      | .discarded => respond .busy [] (takeMark (forcedTrigger s) s)) :=
  congrArg _ (takeRequest_handed h _)

theorem be6_eq {n : Nat} (h : n ≤ 281474976710655) : be6 n = be 6 n := if_pos h

/-- Settles O54: the answer follows the outcome of the forced trigger. -/
theorem forcedTriggersAreAnswered : Obligations.ForcedTriggersAreAnswered := by
  unfold Obligations.ForcedTriggersAreAnswered
  intro r s h hroom
  refine ⟨fun hstate => ?_, fun hcase => ?_, fun hstate hholdoff hactive hfull => ?_,
    fun a hstate hholdoff hactive hfull hfree husable hbusy hseq hwindow htime => ?_⟩
  · rw [exec_forceTrigger h, triggerOutcome_discarded hstate, takeMark_discarded hstate]
    exact congrArg _ (respond_handed h hroom rfl rfl rfl)
  · rw [exec_forceTrigger h, triggerOutcome_ignored hcase, takeMark_ignored hcase]
    exact congrArg _ (respond_handed h hroom rfl rfl rfl)
  · rw [exec_forceTrigger h, triggerOutcome_room hstate hholdoff hactive, if_pos hfull,
      takeMark_refused hstate hholdoff hactive hfull]
    exact congrArg _ (respond_handed h hroom rfl rfl rfl)
  · intro first
    have hsome : s.log.active ≠ none := by simp [hactive]
    have hnum : triggerNumber s = s.dir.nextNumber := freeNumber_at (Nat.zero_le _) (by simp) hfree
    have hblocks : triggerBlocks s = [a] := by simp [triggerBlocks, windowBlocks, hwindow, hactive]
    rw [exec_forceTrigger h, triggerOutcome_room hstate hholdoff hsome, if_neg (Nat.not_le.mpr hfull),
      takeMark_taken hstate hholdoff hsome hfull, takeTrigger_eq, hnum, hblocks, be6_eq hseq,
      askJob_capturing (s := triggered _ _ _ s) husable hbusy]
    simp only [triggered, htime, if_true]
    exact congrArg _ (respond_handed h hroom rfl rfl rfl)

/-! ### Requests that wait for their page (R105, R106, R121, R123, R163) -/

/-- A request waits for a job that joins the list behind the one that the writer serves. -/
def jobWaits (r : Request) (j : Job) (s : State) : State := { s with
  mgmt := { s.mgmt with current := some { req := r, stage := .journal } },
  jrnl := { s.jrnl with jobs := s.jrnl.jobs ++ [j] } }

theorem settle_jobWaits {code : Byte} {j : Job} (h : Handed code r s) (husable : s.jrnl.usable = true)
    (hbusy : s.jrnl.state ≠ .idle) (hquiet : LogQuiet s) (hj : isRetiredJob j = false) :
    settle (askJob j (awaitStore s)) = jobWaits r j s := by
  obtain ⟨hcurrent, -, -⟩ := h
  have hawait : awaitStore s = s.setMgmt { s.mgmt with current := some { req := r, stage := .journal } } := by
    simp [awaitStore, hcurrent, setStage]
  have hask : askJob j (awaitStore s) = jobWaits r j s := by
    simp [hawait, askJob, husable, hbusy, hj, jobWaits, State.setMgmt, State.setJrnl]
  rw [hask]
  exact settle_quiet (by simp [NoStop, jobWaits]) hquiet

/-- The number that a request of two bytes names. -/
theorem recordingNumber_two {a b : Byte} (h : r.params = [a, b]) : recordingNumber r = a.toNat * 256 + b.toNat := by
  rw [recordingNumber, fieldAt_two (by simp [h]), h]
  rfl

/-- What RELEASE_RECORDING and FREEZE_RECORDING do with the entry that they name: it may refuse them, and otherwise a
job is asked. -/
def pageRequested (refusal : LogManager → Entry → Option Status) (job : Nat → Job) (r : Request) (s : State) : State :=
  match namedEntry s.dir (recordingNumber r) with
  | none => respond .notFound [] s
  | some e => match refusal s.log e with
    | some st => respond st [] s
    | none => settle (askJob (job e.num) (awaitStore s))

theorem exec_releaseRecording (h : Handed codeReleaseRecording r s) :
    exec .releaseRecording s = .next (pageRequested releaseRefusal .released r s) :=
  congrArg _ (takeRequest_handed h _)

theorem exec_freezeRecording (h : Handed codeFreezeRecording r s) :
    exec .freezeRecording s = .next (pageRequested freezeRefusal .frozen r s) :=
  congrArg _ (takeRequest_handed h _)

section PageRequested

variable {code : Byte} {refusal : LogManager → Entry → Option Status} {job : Nat → Job} {e : Entry}

theorem pageRequested_absent (h : Handed code r s) (hroom : ReplyRoom r s)
    (hnone : namedEntry s.dir (recordingNumber r) = none) :
    pageRequested refusal job r s = replied r .notFound [] s := by
  simp only [pageRequested, hnone, respond_handed h hroom rfl rfl rfl]

theorem pageRequested_refused {st : Status} (h : Handed code r s) (hroom : ReplyRoom r s)
    (hsome : namedEntry s.dir (recordingNumber r) = some e) (hrefused : refusal s.log e = some st) :
    pageRequested refusal job r s = replied r st [] s := by
  simp only [pageRequested, hsome, hrefused, respond_handed h hroom rfl rfl rfl]

theorem pageRequested_waits (h : Handed code r s) (husable : s.jrnl.usable = true) (hbusy : s.jrnl.state ≠ .idle)
    (hquiet : LogQuiet s) (hsome : namedEntry s.dir (recordingNumber r) = some e) (hnone : refusal s.log e = none)
    (hj : isRetiredJob (job e.num) = false) :
    pageRequested refusal job r s = jobWaits r (job e.num) s := by
  simp only [pageRequested, hsome, hnone, settle_jobWaits h husable hbusy hquiet hj]

end PageRequested

theorem releaseRefusal_kept {l : LogManager} {e : Entry} (h : e.state = .kept) (hsessions : e.sessions = 0) :
    releaseRefusal l e = if inFault l = true then some .storeFault else none := by simp [releaseRefusal, h, hsessions]

theorem freezeRefusal_kept {l : LogManager} {e : Entry} (h : e.state = .kept) :
    freezeRefusal l e = if inFault l = true then some .storeFault else none := by simp [freezeRefusal, h]

theorem exec_saveProfile (h : Handed codeSaveProfile r s) : exec .saveProfile s = .next
    (if s.jrnl.generation = counterMax then respond .noRoom [] s
      else settle (askJob (.saveProfile (presentProfile s)) (awaitStore s))) :=
  congrArg _ (takeRequest_handed h _)

theorem exec_clearProfile (h : Handed codeClearProfile r s) :
    exec .clearProfile s = .next (settle (askJob .clearProfile (awaitStore s))) :=
  congrArg _ (takeRequest_handed h _)

/-- Settles O56: the refusals in their order, and the job that is waited for. -/
theorem storeRequestsWaitForTheirPages : Obligations.StoreRequestsWaitForTheirPages := by
  unfold Obligations.StoreRequestsWaitForTheirPages
  intro r s husable hbusy hquiet waits
  refine ⟨fun hi lo h hparams => ?_, fun h => ⟨fun hlast hroom => ?_, fun hlast => ?_⟩, fun h => ?_⟩
  · intro c num
    have hnumber : recordingNumber r = num := recordingNumber_two hparams
    rcases h with h | h
    · have hcode : r.code = 0x36 := h.2.1
      have hc : c = .releaseRecording := if_pos hcode
      have hnot : ¬ r.code = 0x37 := by rw [hcode]; decide
      have hexec : exec c s = .next (pageRequested releaseRefusal .released r s) := by rw [hc, exec_releaseRecording h]
      rw [hexec]
      refine ⟨fun habsent hroom => ?_, fun e hne hfound => ?_⟩
      · rw [pageRequested_absent h hroom (hnumber ▸ namedEntry_none habsent)]
      have hnamed : namedEntry s.dir (recordingNumber r) = some e := hnumber ▸ namedEntry_some hne hfound
      refine ⟨fun hroom hfrozen => ?_, fun hroom hopen => ?_, fun hkept => ⟨fun hroom _ hsessions => ?_,
        fun hfree => ⟨fun hroom hfault => ?_, fun hfault => ?_⟩⟩⟩
      · rw [pageRequested_refused (st := .frozen) h hroom hnamed (by simp [releaseRefusal, hfrozen])]
      · rw [pageRequested_refused (st := .busy) h hroom hnamed
          (by rcases hopen with ho | ho <;> simp [releaseRefusal, ho])]
      · rw [pageRequested_refused (st := .inUse) h hroom hnamed (by simp [releaseRefusal, hkept, hsessions])]
      · rw [pageRequested_refused h hroom hnamed
          (by rw [releaseRefusal_kept hkept (hfree.resolve_left hnot), if_pos hfault])]
      · rw [pageRequested_waits h husable hbusy hquiet hnamed
          (by rw [releaseRefusal_kept hkept (hfree.resolve_left hnot), if_neg (by simp [hfault])]) rfl, if_pos hcode,
          num_of_findEntry hfound]
        rfl
    · have hcode : r.code = 0x37 := h.2.1
      have hnot : ¬ r.code = 0x36 := by rw [hcode]; decide
      have hc : c = .freezeRecording := if_neg hnot
      have hexec : exec c s = .next (pageRequested freezeRefusal .frozen r s) := by rw [hc, exec_freezeRecording h]
      rw [hexec]
      refine ⟨fun habsent hroom => ?_, fun e hne hfound => ?_⟩
      · rw [pageRequested_absent h hroom (hnumber ▸ namedEntry_none habsent)]
      have hnamed : namedEntry s.dir (recordingNumber r) = some e := hnumber ▸ namedEntry_some hne hfound
      refine ⟨fun hroom hfrozen => ?_, fun hroom hopen => ?_, fun hkept => ⟨fun _ hrelease => absurd hrelease hnot,
        fun _ => ⟨fun hroom hfault => ?_, fun hfault => ?_⟩⟩⟩
      · rw [pageRequested_refused (st := .frozen) h hroom hnamed (by simp [freezeRefusal, hfrozen])]
      · rw [pageRequested_refused (st := .busy) h hroom hnamed
          (by rcases hopen with ho | ho <;> simp [freezeRefusal, ho])]
      · rw [pageRequested_refused h hroom hnamed (by rw [freezeRefusal_kept hkept, if_pos hfault])]
      · rw [pageRequested_waits h husable hbusy hquiet hnamed
          (by rw [freezeRefusal_kept hkept, if_neg (by simp [hfault])]) rfl, if_neg hnot, num_of_findEntry hfound]
        rfl
  · rw [exec_saveProfile h, if_pos (show s.jrnl.generation = counterMax from hlast)]
    exact congrArg _ (respond_handed h hroom rfl rfl rfl)
  · rw [exec_saveProfile h, if_neg (show ¬ s.jrnl.generation = counterMax from hlast)]
    exact congrArg _ (settle_jobWaits h husable hbusy hquiet rfl)
  · rw [exec_clearProfile h]
    exact congrArg _ (settle_jobWaits h husable hbusy hquiet rfl)

/-! ### What READ_STATUS and the counters report (12.7, 12.8) -/

theorem exec_discover (h : Handed codeDiscover r s) (hroom : ReplyRoom r s) :
    exec .discover s = .next (replied r .ok (discoverResult s r.src) s) := by
  change Host.Outcome.next _ = _
  rw [takeRequest_handed h, respond_handed h hroom rfl rfl rfl]

theorem exec_readStatus (h : Handed codeReadStatus r s) (hroom : ReplyRoom r s) :
    exec .readStatus s = .next (replied r .ok (statusResult s) s) := by
  change Host.Outcome.next _ = _
  rw [takeRequest_handed h, respond_handed h hroom rfl rfl rfl]

theorem exec_readCounters (h : Handed codeReadCounters r s) (hroom : ReplyRoom r s) :
    exec .readCounters s = .next (replied r .ok (countersResult s) s) := by
  change Host.Outcome.next _ = _
  rw [takeRequest_handed h, respond_handed h hroom rfl rfl rfl]

/-- Clearing the counters leaves the port the room that it has, and the unit its request. -/
theorem exec_clearCounters (h : Handed codeClearCounters r s) (hroom : ReplyRoom r s) :
    exec .clearCounters s = .next (replied r .ok (countersResult s) (clearedCounters s)) := by
  change Host.Outcome.next _ = _
  obtain ⟨hup, hlocal, hqueue⟩ := hroom
  have hcurrent : (clearedCounters s).mgmt.current = some { req := r, stage := .handed } := h.1
  have hclear : ReplyRoom r (clearedCounters s) := by
    refine ⟨?_, ?_, hqueue⟩
    · cases hp : r.port <;> simpa [clearedCounters, State.port, hp] using hup
    · cases hp : r.port <;> simpa [clearedCounters, State.port, hp] using hlocal
  rw [takeRequest_handed h, respond_replied hcurrent hclear]

theorem length_be (k n : Nat) : (be k n).length = k := by
  induction k generalizing n with
  | zero => rfl
  | succ k ih => simp [be, ih]

theorem length_be6 (n : Nat) : (be6 n).length = 6 := by
  unfold be6
  split <;> exact length_be ..

/-- The four places of the Manager List. -/
theorem managers_places {ms : List Byte} (h : ms.length ≤ 4) :
    (ms ++ [0, 0, 0, 0]).take 4 = ms ++ List.replicate (4 - ms.length) 0 := by
  have hzeros : ([0, 0, 0, 0] : List Byte) = List.replicate 4 0 := rfl
  rw [List.take_append, List.take_of_length_le h, hzeros, List.take_replicate, Nat.min_eq_left (Nat.sub_le 4 _)]

/-- Settles O48: every field of the three layouts by the values of its source. -/
theorem readRequestsReportTheState : Obligations.ReadRequestsReportTheState := by
  unfold Obligations.ReadRequestsReportTheState
  intro r s hroom ports counters zero result one cause port buffer array suspended slot condition ahead capture target
    journal session head status
  have hresult : countersResult s = result := by simp [countersResult, result, List.flatMap_def]; rfl
  have hcause : cause = one (causeCode s.seqr.cause) := by simp only [cause]; cases s.seqr.cause <;> rfl
  have hpart (hlive : s.seqr.part ≠ .reset) :
      one (partCode s.seqr.part) = one (if s.seqr.part = .mounting then 1 else 2) := by
    cases hp : s.seqr.part
    · exact absurd hp hlive
    · rfl
    · rfl
  refine ⟨fun h => ?_, fun h hmanagers => ⟨?_, ?_⟩, fun h => ?_, fun h => ?_, ?_⟩
  · have hdiscover : discoverResult s r.src = [s.seqr.own, 0xD0, 0x16, 0x01, if s.seqr.part = .mounting then 1 else 2,
        cause, one s.mgmt.managers.length, if s.mgmt.managers = [] ∨ r.src ∈ s.mgmt.managers then 1 else 0] := by
      have hpartByte : one (partCode s.seqr.part) = if s.seqr.part = .mounting then 1 else 2 := by
        rw [hpart h.2.2]
        split <;> rfl
      rw [hcause, ← hpartByte]
      simp [discoverResult, b1, bBool, be, one, Config.productId, Config.revision]
    rw [exec_discover h hroom, hdiscover]
  · have hport (x : PortState) : portStatus x = port x := by simp [portStatus, port, b1, bBool, one]
    have hbuffer (x : Buffer) : one (bufCode x.state) = buffer x := by simp only [buffer]; cases x.state <;> rfl
    have harray : one (arrayCode s.arr) = array := by
      simp only [array, arrayCode]
      cases s.arr.running with
      | none => rfl
      | some x =>
        obtain ⟨who, req, count, reached⟩ := x
        cases req <;> rfl
    have hmgmt : mgmtCode s.mgmt = 1 := by simp [mgmtCode, h.1]
    have hcondition : one (conditionCode s.log.condition) = condition := by
      simp only [condition]; cases s.log.condition <;> rfl
    have hahead : be 2 (aheadBlock s.log.ahead) ++ [one (aheadCode s.log.ahead)] = ahead := by
      simp only [ahead]; cases s.log.ahead <;> rfl
    have hcapture : one (captureStateCode s.ctl.state) = capture := by simp only [capture]; cases s.ctl.state <;> rfl
    have htarget : one (targetCode s.ctl.target) = target := by
      simp only [target]
      cases s.ctl.target with
      | none => rfl
      | some x => cases x <;> rfl
    have hjournal : one (journalStateCode s.jrnl.state) = journal := by
      simp only [journal]; cases s.jrnl.state <;> rfl
    have hsession (x : Session) : sessionStatus x = session x := by
      simp only [session]
      cases hx : x.state <;> simp [sessionStatus, hx, sessStateCode, b1, be, one, List.replicate]
    have hslots : slotBits s.arr = slot s.arr.journal 1 + slot s.arr.logWriter 2 + slot s.arr.eraseAhead 4
        + slot s.arr.session1 8 + slot s.arr.session2 16 + slot s.arr.sequencer 32 := by
      have hbit (x : Option ArrayReq) (bit : Nat) : slotBit x bit = slot x bit := by
        simp only [slot]; cases x <;> rfl
      simp only [slotBits, hbit]
    have hhead : b1 s.notice.queue.length ++ be 2 (s.notice.queue.head?.elim 0 Notice.num) ++ b1 (headCode s.notice)
        ++ b1 (if s.notice.queue = [] then 0 else s.notice.attempts) = head := by
      simp only [head, headCode]
      cases s.notice.queue with
      | nil => rfl
      | cons x more => cases s.notice.head <;> simp [b1, one]
    have hholdoff : bBool s.ctl.holdoffTimer.isSome = [one (if s.ctl.holdoffTimer = none then 0 else 1)] := by
      cases s.ctl.holdoffTimer <;> rfl
    have hstatus : statusResult s = status := by
      simp only [status, ← hport, ← hbuffer, ← harray, ← hcondition, ← hahead, ← hcapture, ← htarget, ← hjournal,
        ← hsession, ← hslots, ← hhead, ← hholdoff, hcause, ← hpart h.2.2]
      have hone (n : Nat) : one n = BitVec.ofNat 8 n := rfl
      delta statusResult
      rw [hmgmt, managers_places hmanagers]
      simp only [hone, b1, beTime]
      simp only [List.append_assoc, List.cons_append, List.nil_append]
      simp only [suspended]
      cases s.arr.suspended <;> cases s.notice.settings.port <;> rfl
    rw [exec_readStatus h hroom, hstatus]
  · have hsuspended : suspended.length = 3 := by
      simp only [suspended]; cases s.arr.suspended <;> simp [length_be]
    have hahead : ahead.length = 3 := by simp only [ahead]; cases s.log.ahead <;> simp [length_be]
    have hsession (x : Session) : (session x).length = 15 := by
      simp only [session]; cases x.state <;> simp [length_be, length_be6]
    have hhead : head.length = 5 := by simp only [head]; cases s.notice.queue <;> simp [length_be]
    simp [status, hsuspended, hahead, hsession, hhead, length_be, length_be6, port]
    omega
  · rw [exec_readCounters h hroom, hresult]
  · rw [exec_clearCounters h hroom, hresult]
    rfl
  · rw [← hresult]
    simp [countersResult, counterList, portCounterList, length_be]

end Sys2Proof.Machine
end

section
/-! PROOF. What the Packer does with a record, in the terms of Safety (02, R30 to R38). -/

set_option Elab.async false

namespace Sys2Proof.Machine

variable {p q u : Packer} {i j : BufId} {r : Record}

/-! ### Records into a buffer -/

theorem putRecord_eq (i : BufId) (r : Record) (p : Packer) : putRecord i r p
    = { setBuf p { getBuf p i with recs := (getBuf p i).recs ++ [r] } i with
        recordsPacked := min counterMax (p.recordsPacked + 1), lastPlaced := r.seq,
        lossFlag := p.lossFlag && !isGap r } := by
  obtain ⟨seq, time, body⟩ := r
  cases i <;> cases body <;> simp [putRecord, setBuf, getBuf, bump_eq, isGap]

/-- Records placed one after another. -/
theorem putRecords_eq (i : BufId) (rs : List Record) (p : Packer) : putRecords i rs p
    = { setBuf p { getBuf p i with recs := (getBuf p i).recs ++ rs } i with
        recordsPacked := if rs = [] then p.recordsPacked else min counterMax (p.recordsPacked + rs.length),
        lastPlaced := (rs.getLast?).elim p.lastPlaced Record.seq,
        lossFlag := p.lossFlag && !rs.any isGap } := by
  induction rs generalizing p with
  | nil => cases i <;> simp [putRecords, setBuf, getBuf]
  | cons r rest ih =>
    have hfirst : putRecords i (r :: rest) p = putRecords i rest (putRecord i r p) := rfl
    have hpacked : (if rest = [] then min counterMax (p.recordsPacked + 1)
          else min counterMax (min counterMax (p.recordsPacked + 1) + rest.length))
        = min counterMax (p.recordsPacked + (rest.length + 1)) := by
      split
      · rename_i hrest
        simp [hrest]
      · omega
    have hlast : (rest.getLast?).elim r.seq Record.seq = ((r :: rest).getLast?).elim p.lastPlaced Record.seq := by
      cases hl : rest.getLast? with
      | none => simp [List.getLast?_eq_none_iff.mp hl]
      | some x => simp [List.getLast?_cons, hl]
    rw [hfirst, ih, putRecord_eq]
    cases i <;> simp [setBuf, getBuf, hpacked, hlast, Bool.and_assoc]

/-- Counting up to `k`, which is where a condition leaves the count already, and then `m` more. -/
theorem counted_behind {c : Prop} [Decidable c] {k m n : Nat} (hnone : c → k = n) (hm : 0 < m) :
    min counterMax ((if c then n else min counterMax k) + m) = min counterMax (k + m) := by
  split
  · rename_i hc
    simp [hnone hc]
  · omega

/-! ### Closing and opening -/

theorem closeBuf_eq (i : BufId) (p : Packer) : closeBuf i p = madeFull i p := by
  cases i <;> rfl

theorem dropTally_below (h : p.nextSeq < 281474976710655) : dropTally p = p := if_pos h

/-- An EMPTY buffer opened: the Control Slot's records and the GAP record of a lost tally stand in it. -/
theorem openBuf_eq (t : Nat) (j : BufId) (q : Packer) : openBuf t j q
    = { setBuf q { state := .filling, recs := q.slot ++ lossGap q, run := q.run } j with
        slot := [], nextSeq := q.nextSeq + (lossGap q).length,
        lastPlaced := ((q.slot ++ lossGap q).getLast?).elim q.lastPlaced Record.seq, tallyCount := 0,
        tallyFirst := if q.tallyCount = 0 then q.tallyFirst else 0,
        tallyLast := if q.tallyCount = 0 then q.tallyLast else 0,
        recordsPacked := if q.slot ++ lossGap q = [] then q.recordsPacked
          else min counterMax (q.recordsPacked + (q.slot ++ lossGap q).length),
        lossFlag := q.lossFlag && !(q.slot ++ lossGap q).any isGap,
        flushTimer := if t = 0 then none else some t } := by
  rw [openBuf, putSlot, putRecords_eq, putGap]
  by_cases htally : q.tallyCount = 0
  · cases j <;> simp [setBuf, getBuf, htally, lossGap]
  · cases j <;> simp [setBuf, getBuf, htally, lossGap, takeGap, takeSeq, putRecord_eq, dropTally, isGap, ← Nat.add_assoc] <;>
      exact counted_behind (by simp +contextual) Nat.one_pos

/-- Records that open an EMPTY buffer, whatever the next sequence behind them. -/
theorem putRecords_openBuf (t n : Nat) (j : BufId) {recs : List Record} (hne : recs ≠ []) (q : Packer) :
    putRecords j recs { openBuf t j q with nextSeq := n } = { openedWith t j recs q with nextSeq := n } := by
  obtain ⟨x, hx⟩ : ∃ x, recs.getLast? = some x := ⟨recs.getLast hne, List.getLast?_eq_some_getLast hne⟩
  rw [putRecords_eq, openBuf_eq]
  cases j <;> simp [openedWith, setBuf, getBuf, hne, hx, Bool.and_assoc, ← Nat.add_assoc] <;>
    exact counted_behind (by simp +contextual) (List.length_pos_iff.mpr hne)

/-! ### Finding room -/

theorem findRoom_filling {t size : Nat} (h : bufIn p .filling = some i) (hfit : usedBytes (getBuf p i) + size ≤ 1024) :
    findRoom t size p = (p, some i) := by
  rw [findRoom, h]
  exact if_pos hfit

theorem findRoom_open {t size : Nat} (h : NoRoomFor p size q) (hempty : bufIn q .empty = some j) :
    findRoom t size p = (openBuf t j q, some j) := by
  rcases h with ⟨hnone, rfl⟩ | ⟨i, hfilling, hfull, rfl⟩
  · simp [findRoom, hnone, hempty]
  · simp [findRoom, hfilling, Config.bufferBytes, Nat.not_le.mpr hfull, closeBuf_eq, hempty]

theorem findRoom_none {t size : Nat} (h : NoRoomFor p size q) (hempty : bufIn q .empty = none) :
    findRoom t size p = (q, none) := by
  rcases h with ⟨hnone, rfl⟩ | ⟨i, hfilling, hfull, rfl⟩
  · simp [findRoom, hnone, hempty]
  · simp [findRoom, hfilling, Config.bufferBytes, Nat.not_le.mpr hfull, closeBuf_eq, hempty]

/-- Closing the FILLING buffer leaves everything else of the Packer as it is. -/
theorem NoRoomFor.frame {size : Nat} (h : NoRoomFor p size q) :
    q = { p with sb0 := q.sb0, sb1 := q.sb1, fullOrder := q.fullOrder, flushTimer := q.flushTimer } := by
  rcases h with ⟨-, rfl⟩ | ⟨i, -, -, rfl⟩
  · rfl
  · cases i <;> rfl


/-- A Packer with the same buffers finds the same room. -/
theorem NoRoomFor.carry {size : Nat} {p' : Packer} (h : NoRoomFor p size q) (h0 : p'.sb0 = p.sb0) (h1 : p'.sb1 = p.sb1)
    (horder : p'.fullOrder = p.fullOrder) (htimer : p'.flushTimer = p.flushTimer) :
    NoRoomFor p' size
      { p' with sb0 := q.sb0, sb1 := q.sb1, fullOrder := q.fullOrder, flushTimer := q.flushTimer } := by
  have hbuf (st : BufState) : bufIn p' st = bufIn p st := by simp [bufIn, h0, h1]
  rcases h with ⟨hnone, rfl⟩ | ⟨i, hfilling, hfull, rfl⟩
  · exact .inl ⟨by rw [hbuf, hnone], by rw [← h0, ← h1, ← horder, ← htimer]⟩
  · refine .inr ⟨i, by rw [hbuf, hfilling], ?_, ?_⟩
    · cases i <;> simpa [getBuf, h0, h1] using hfull
    · cases i <;> simp [madeFull, setBuf, getBuf, h0, h1, horder]

theorem bufIn_carry {p' : Packer} (st : BufState) (h0 : p'.sb0 = p.sb0) (h1 : p'.sb1 = p.sb1) :
    bufIn p' st = bufIn p st := by simp [bufIn, h0, h1]

/-! ### Control records (R33, R36, R37) -/

/-- The tally returned to 0 by its GAP record. -/
def noTally (p : Packer) : Packer := { p with
  tallyCount := 0, tallyFirst := if p.tallyCount = 0 then p.tallyFirst else 0,
  tallyLast := if p.tallyCount = 0 then p.tallyLast else 0 }

theorem reserveGap_eq (p : Packer) :
    reserveGap p = ({ noTally p with nextSeq := p.nextSeq + (lossGap p).length }, lossGap p) := by
  by_cases h : p.tallyCount = 0
  · have hsame : ({ p with tallyCount := 0 } : Packer) = p := by rw [← h]
    simp [reserveGap, lossGap, noTally, h, hsame]
  · simp [reserveGap, lossGap, noTally, h, takeGap, takeSeq]

theorem any_isGap_lossGap (p : Packer) : (lossGap p).any isGap = !decide (p.tallyCount = 0) := by
  by_cases h : p.tallyCount = 0 <;> simp [lossGap, h, isGap]

/-- A FILLING buffer whose last record is a RUN_STOP is closed. -/
theorem closeIfEnded_stop {x : Record} (hfilling : (getBuf p i).state = .filling)
    (hlast : (getBuf p i).recs.getLast? = some x) (hstop : isRunStop x = true) : closeIfEnded i p = madeFull i p := by
  have hends : endsRun (getBuf p i) = true := by
    rw [endsRun, hlast]
    exact hstop
  rw [closeIfEnded, if_pos ⟨hends, hfilling⟩, closeBuf_eq]

/-- The RUN_STOP of the run in hand, with its sequence. -/
def stopRecord (s : State) (why : StopReason) : Record :=
  { seq := s.packer.nextSeq + (lossGap s.packer).length, time := s.packer.timeBase,
    body := .runStop s.ctl.lastRun why }

/-- The Packer that has given a RUN_STOP and the GAP record ahead of it their sequences. -/
def stopTaken (p : Packer) : Packer :=
  { noTally { p with gateOpen := false } with nextSeq := p.nextSeq + (lossGap p).length + 1 }

/-- The RUN_STOP and the GAP record ahead of it. -/
def stopRecords (s : State) (why : StopReason) : List Record := lossGap s.packer ++ [stopRecord s why]

/-- Control records go into the buffer that has been found for them, or into the Control Slot. -/
def putOrKeep (recs : List Record) : Packer × Option BufId → Packer
  | (p, some i) => closeIfEnded i (putRecords i recs p)
  | (p, none) => { p with slot := p.slot ++ recs }

theorem packRunStop_eq (t : Nat) (s : State) (why : StopReason) : packRunStop t s.ctl.lastRun why s.packer
    = putOrKeep (stopRecords s why) (findRoom t (recordsSize (stopRecords s why)) (stopTaken s.packer)) := by
  have hroom : packRunStop t s.ctl.lastRun why s.packer
      = (match (findRoom t (recordsSize (stopRecords s why)) (stopTaken s.packer)).2 with
        | some i => closeIfEnded i (putRecords i (stopRecords s why)
            (findRoom t (recordsSize (stopRecords s why)) (stopTaken s.packer)).1)
        | none => { (findRoom t (recordsSize (stopRecords s why)) (stopTaken s.packer)).1 with
            slot := (findRoom t (recordsSize (stopRecords s why)) (stopTaken s.packer)).1.slot
              ++ stopRecords s why }) := by
    rw [packRunStop, reserveGap_eq]
    rfl
  rw [hroom]
  obtain ⟨q, found⟩ := findRoom t (recordsSize (stopRecords s why)) (stopTaken s.packer)
  cases found <;> rfl

theorem getLast?_stopRecords (s : State) (why : StopReason) :
    (stopRecords s why).getLast? = some (stopRecord s why) := by
  simp [stopRecords]

theorem any_isGap_stopRecords (s : State) (why : StopReason) :
    (stopRecords s why).any isGap = !decide (s.packer.tallyCount = 0) := by
  simp [stopRecords, any_isGap_lossGap, stopRecord, isGap]

theorem stopRecords_ne (s : State) (why : StopReason) : stopRecords s why ≠ [] := by simp [stopRecords]

/-- A RUN_STOP goes into the FILLING buffer that has room, which is closed. -/
theorem packRunStop_filling {s : State} {why : StopReason} (t : Nat) (hfilling : bufIn s.packer .filling = some i)
    (hfit : usedBytes (getBuf s.packer i) + recordsSize (stopRecords s why) ≤ 1024) :
    packRunStop t s.ctl.lastRun why s.packer = madeFull i (noTally
      { setBuf s.packer { getBuf s.packer i with recs := (getBuf s.packer i).recs ++ stopRecords s why } i with
        gateOpen := false, nextSeq := s.packer.nextSeq + (lossGap s.packer).length + 1,
        lastPlaced := s.packer.nextSeq + (lossGap s.packer).length,
        recordsPacked := min counterMax (s.packer.recordsPacked + (lossGap s.packer).length + 1),
        lossFlag := s.packer.lossFlag && decide (s.packer.tallyCount = 0) }) := by
  have hroom : findRoom t (recordsSize (stopRecords s why)) (stopTaken s.packer) = (stopTaken s.packer, some i) := by
    refine findRoom_filling (by simpa [bufIn, stopTaken, noTally] using hfilling) ?_
    cases i <;> exact hfit
  have hstate := bufIn_some hfilling
  have hlength : (stopRecords s why).length = (lossGap s.packer).length + 1 := by simp [stopRecords]
  rw [packRunStop_eq, hroom, putOrKeep, closeIfEnded_stop (x := stopRecord s why)
    (by rw [putRecords_eq]; cases i <;> simpa [setBuf, getBuf, stopTaken, noTally] using hstate)
    (by rw [putRecords_eq]; cases i <;> simp [setBuf, getBuf, getLast?_stopRecords]) rfl, putRecords_eq]
  cases i <;> simp [madeFull, setBuf, getBuf, stopTaken, noTally, stopRecords_ne, hlength, any_isGap_stopRecords,
    getLast?_stopRecords, ← Nat.add_assoc] <;> exact ⟨rfl, rfl, rfl⟩

/-- The Packer that has given the sequences, with the buffers of another. -/
def stopTakenOver (p q : Packer) : Packer :=
  { stopTaken p with sb0 := q.sb0, sb1 := q.sb1, fullOrder := q.fullOrder, flushTimer := q.flushTimer }

theorem lossGap_stopTakenOver (p q : Packer) : lossGap (stopTakenOver p q) = [] := rfl

/-- What opens an EMPTY buffer behind the sequences given is what a RUN_STOP opens. -/
theorem openedWith_stopTaken {s : State} {why : StopReason} {size : Nat} (t : Nat) (h : NoRoomFor s.packer size q) :
    putRecords j (stopRecords s why) (openBuf t j (stopTakenOver s.packer q))
      = openedWith t j [stopRecord s why] { q with gateOpen := false } := by
  have hopened := putRecords_openBuf t (openBuf t j (stopTakenOver s.packer q)).nextSeq j (stopRecords_ne s why)
    (stopTakenOver s.packer q)
  have hgap : lossGap { q with gateOpen := false } = lossGap s.packer := by rw [h.frame]; rfl
  have hnext : (openBuf t j (stopTakenOver s.packer q)).nextSeq = s.packer.nextSeq + (lossGap s.packer).length + 1 := by
    rw [openBuf_eq]
    rfl
  rw [hnext] at hopened
  refine Eq.trans (Eq.trans ?_ hopened) ?_
  · rw [← hnext]
  · rw [openedWith, openedWith, hgap, lossGap_stopTakenOver, h.frame]
    cases j <;> simp [stopTakenOver, stopTaken, noTally, setBuf, stopRecords]

/-- A RUN_STOP opens an EMPTY buffer, which is closed. -/
theorem packRunStop_open {s : State} {why : StopReason} (t : Nat)
    (hroom : NoRoomFor s.packer (recordsSize (stopRecords s why)) q) (hempty : bufIn q .empty = some j) :
    packRunStop t s.ctl.lastRun why s.packer
      = madeFull j (openedWith t j [stopRecord s why] { q with gateOpen := false }) := by
  have hfound : findRoom t (recordsSize (stopRecords s why)) (stopTaken s.packer)
      = (openBuf t j (stopTakenOver s.packer q), some j) :=
    findRoom_open (hroom.carry rfl rfl rfl rfl) ((bufIn_carry _ rfl rfl).trans hempty)
  rw [packRunStop_eq, hfound, putOrKeep, openedWith_stopTaken t hroom]
  exact closeIfEnded_stop (x := stopRecord s why) (by cases j <;> rfl) (by cases j <;> simp [openedWith, getBuf, setBuf])
    rfl

/-- A RUN_STOP without room waits in the Control Slot. -/
theorem packRunStop_slot {s : State} {why : StopReason} (t : Nat)
    (hroom : NoRoomFor s.packer (recordsSize (stopRecords s why)) q) (hempty : bufIn q .empty = none) :
    packRunStop t s.ctl.lastRun why s.packer
      = { stopTakenOver s.packer q with slot := s.packer.slot ++ stopRecords s why } := by
  have hfound : findRoom t (recordsSize (stopRecords s why)) (stopTaken s.packer)
      = (stopTakenOver s.packer q, none) :=
    findRoom_none (hroom.carry rfl rfl rfl rfl) ((bufIn_carry _ rfl rfl).trans hempty)
  rw [packRunStop_eq, hfound]
  rfl

/-- A RUN_STOP taken by the Packer (R37). -/
theorem packRunStop_placed {s : State} {why : StopReason} (h : StopPlaced why s u) :
    packRunStop (flushInterval s) s.ctl.lastRun why s.packer = u := by
  obtain ⟨i, hfilling, hfit, rfl⟩ | ⟨q, hroom, -, ⟨j, hempty, rfl⟩ | ⟨hempty, rfl⟩⟩ := h
  · rw [packRunStop_filling _ hfilling hfit, stopRecords, ← List.append_assoc]
    cases i <;> rfl
  · exact packRunStop_open _ hroom hempty
  · rw [packRunStop_slot _ hroom hempty, stopRecords, ← List.append_assoc]
    rw [NoRoomFor.frame hroom]
    rfl

/-! ### Records that take the next sequence (R24, R31) -/

theorem openBuf_nextSeq (t : Nat) (j : BufId) (q : Packer) :
    (openBuf t j q).nextSeq = q.nextSeq + (lossGap q).length := by
  rw [openBuf_eq]

/-- A record that opens an EMPTY buffer and takes the next sequence. -/
theorem putRecord_openBuf (t : Nat) (j : BufId) (q : Packer) (r : Record) :
    putRecord j r { openBuf t j q with nextSeq := (openBuf t j q).nextSeq + 1 } = openedWith t j [r] q := by
  rw [openBuf_nextSeq]
  exact putRecords_openBuf t _ j (List.cons_ne_nil r []) q

/-- A record other than a GAP that goes into the FILLING buffer and takes the next sequence. -/
theorem putRecord_next (hgap : isGap r = false) (hseq : r.seq = p.nextSeq) :
    putRecord i r { p with nextSeq := p.nextSeq + 1 }
      = { setBuf p { getBuf p i with recs := (getBuf p i).recs ++ [r] } i with
        nextSeq := p.nextSeq + 1, lastPlaced := p.nextSeq,
        recordsPacked := min counterMax (p.recordsPacked + 1) } := by
  rw [putRecord_eq, hgap, hseq]
  cases i <;> simp [setBuf, getBuf]

/-- The GAP record of a Packer without room is that of the Packer before its FILLING buffer was closed. -/
theorem NoRoomFor.lossGap {size : Nat} (h : NoRoomFor p size q) : lossGap q = lossGap p := by
  rw [h.frame]
  rfl

theorem NoRoomFor.nextSeq {size : Nat} (h : NoRoomFor p size q) : q.nextSeq = p.nextSeq := by rw [h.frame]

/-! ### Captures (R30, R32) -/

section Captures

variable {t : Nat} {x : Result} {c : Captured}

/-- The FRAME record of a capture, at a sequence. -/
def captureRecord (x : Result) (c : Captured) (seq : Nat) : Record :=
  { seq := seq, time := x.time, body := frameBody x c }

theorem packCapture_filling (hseq : p.nextSeq ≤ 281474976710653) (hfilling : bufIn p .filling = some i)
    (hfit : usedBytes (getBuf p i) + 15 + c.bytes.length ≤ 1024) : packCapture t x c p
      = ({ setBuf p { getBuf p i with recs := (getBuf p i).recs ++ [captureRecord x c p.nextSeq] } i with
          nextSeq := p.nextSeq + 1, lastPlaced := p.nextSeq,
          recordsPacked := min counterMax (p.recordsPacked + 1) }, true) := by
  have hmax : p.nextSeq ≤ ordinaryMax := Nat.le_succ_of_le hseq
  rw [packCapture, if_pos hmax, findRoom_filling hfilling (by omega)]
  dsimp only
  rw [if_pos hmax, takeSeq, putRecord_next rfl rfl]
  dsimp only
  rw [dropTally_below (Nat.lt_of_le_of_lt (Nat.succ_le_succ hseq) (by decide))]
  rfl

theorem packCapture_open (hseq : p.nextSeq + (lossGap p).length ≤ 281474976710653)
    (hroom : NoRoomFor p (15 + c.bytes.length) q) (hempty : bufIn q .empty = some j) : packCapture t x c p
      = (openedWith t j [captureRecord x c (p.nextSeq + (lossGap p).length)] q, true) := by
  have hmax : p.nextSeq ≤ ordinaryMax := Nat.le_trans (Nat.le_add_right ..) (Nat.le_succ_of_le hseq)
  have hnext : (openBuf t j q).nextSeq = p.nextSeq + (lossGap p).length := by
    rw [openBuf_nextSeq, hroom.lossGap, hroom.nextSeq]
  have hnextMax : (openBuf t j q).nextSeq ≤ ordinaryMax := hnext ▸ Nat.le_succ_of_le hseq
  rw [packCapture, if_pos hmax, findRoom_open hroom hempty]
  dsimp only
  rw [if_pos hnextMax, takeSeq, putRecord_openBuf, dropTally_below]
  · rw [hnext]
    rfl
  · have hopened : (openedWith t j [{ seq := (openBuf t j q).nextSeq, time := x.time, body := frameBody x c }] q).nextSeq
        = q.nextSeq + (lossGap q).length + 1 := rfl
    rw [hopened, hroom.lossGap, hroom.nextSeq]
    exact Nat.lt_of_le_of_lt (Nat.succ_le_succ hseq) (by decide)

theorem packCapture_none (hseq : p.nextSeq ≤ 281474976710653) (hroom : NoRoomFor p (15 + c.bytes.length) q)
    (hempty : bufIn q .empty = none) : packCapture t x c p
      = ({ q with
          capturesLost := min counterMax (p.capturesLost + 1), tallyCount := min counterMax (p.tallyCount + 1),
          tallyFirst := if p.tallyCount = 0 then x.time else p.tallyFirst, tallyLast := x.time }, false) := by
  have hmax : p.nextSeq ≤ ordinaryMax := Nat.le_succ_of_le hseq
  rw [packCapture, if_pos hmax, findRoom_none hroom hempty]
  dsimp only
  rw [loseCapture, if_pos (show q.nextSeq ≤ ordinaryMax from hroom.nextSeq ▸ hmax), hroom.frame, bump_eq, bump_eq]

end Captures

/-! ### TIME_SET records (R27) -/

theorem bufIn_madeFull_empty (hfilling : bufIn p .filling = some i) :
    bufIn (madeFull i p) .empty = bufIn p .empty := by
  have hstate := bufIn_some hfilling
  cases i <;> simp_all [bufIn, madeFull, setBuf, getBuf] <;> rfl

theorem NoRoomFor.empty {size : Nat} (h : NoRoomFor p size q) : bufIn q .empty = bufIn p .empty := by
  obtain ⟨-, rfl⟩ | ⟨i, hfilling, -, rfl⟩ := h
  · rfl
  · exact bufIn_madeFull_empty hfilling

theorem lossGap_length (p : Packer) : (lossGap p).length = if p.tallyCount = 0 then 0 else 1 := by
  unfold lossGap
  split <;> rfl

theorem timeSetFits_filling (hfilling : bufIn p .filling = some i) (hfit : usedBytes (getBuf p i) + 22 ≤ 1024) :
    timeSetFits p = (decide (p.slot = []) && decide (p.nextSeq ≤ 281474976710654)) := by
  rw [timeSetFits, hfilling]
  exact congrArg _ (if_pos hfit)

theorem timeSetFits_noRoom (h : NoRoomFor p 22 q) : timeSetFits p
    = (decide (p.slot = []) && ((bufIn q .empty).isSome
      && decide (p.nextSeq + (lossGap p).length ≤ 281474976710654))) := by
  rw [timeSetFits, h.empty, lossGap_length]
  obtain ⟨hnone, -⟩ | ⟨i, hfilling, hfull, -⟩ := h
  · rw [hnone]
    rfl
  · rw [hfilling]
    exact congrArg _ (if_neg (Nat.not_le.mpr hfull))

/-- Without a sequence left no TIME_SET record fits. -/
theorem timeSetFits_last (h : 281474976710654 < p.nextSeq) : timeSetFits p = false := by
  have hmax : ¬ p.nextSeq ≤ ordinaryMax := Nat.not_le.mpr h
  have hgap (n : Nat) : ¬ p.nextSeq + n ≤ ordinaryMax := fun hle => hmax (Nat.le_trans (Nat.le_add_right ..) hle)
  unfold timeSetFits
  split
  · split
    · simp [hmax]
    · simp only [hgap, decide_false, Bool.and_false]
  · simp only [hgap, decide_false, Bool.and_false]

theorem dropTally_timeBase (p : Packer) (new : Time) :
    { dropTally p with timeBase := new } = dropTally { p with timeBase := new } := by
  unfold dropTally
  split <;> rfl

theorem packTimeSet_filling (t : Nat) (new : Time) (hfilling : bufIn p .filling = some i)
    (hfit : usedBytes (getBuf p i) + 22 ≤ 1024) : packTimeSet t new p = dropTally
      { setBuf p { getBuf p i with recs := (getBuf p i).recs
          ++ [{ seq := p.nextSeq, time := new, body := .timeSet p.timeBase new }] } i with
        timeBase := new, nextSeq := p.nextSeq + 1, lastPlaced := p.nextSeq,
        recordsPacked := min counterMax (p.recordsPacked + 1) } := by
  rw [packTimeSet, findRoom_filling hfilling hfit]
  dsimp only
  rw [takeSeq, putRecord_next rfl rfl, dropTally_timeBase]

theorem packTimeSet_open (t : Nat) (new : Time) (hroom : NoRoomFor p 22 q) (hempty : bufIn q .empty = some j) :
    packTimeSet t new p = dropTally { openedWith t j
      [{ seq := p.nextSeq + (lossGap p).length, time := new, body := .timeSet p.timeBase new }] q with
        timeBase := new } := by
  rw [packTimeSet, findRoom_open hroom hempty]
  dsimp only
  rw [takeSeq, putRecord_openBuf, dropTally_timeBase, openBuf_nextSeq, hroom.lossGap, hroom.nextSeq]

/-! ### RUN_START records (R36) -/

/-- The RUN_START of a run. -/
def startRecord (p : Packer) (run origin : Nat) : Record :=
  { seq := origin, time := p.timeBase, body := .runStart run }

/-- The Packer with the gate OPEN for a run. -/
def gateOpened (run : Nat) (p : Packer) : Packer := { p with run := run, gateOpen := true }

/-- A RUN_START goes into the buffer that has been found for it, or behind a GAP record into the Control Slot. -/
def startPut (now : Time) (run : Nat) (room : Packer × Option BufId) : Packer :=
  match room.2 with
  | some i => dropTally (putRecord i (takeSeq room.1 now (.runStart run)).2 (takeSeq room.1 now (.runStart run)).1)
  | none =>
    let g := reserveGap room.1
    let x := takeSeq g.1 now (.runStart run)
    dropTally { x.1 with slot := x.1.slot ++ g.2 ++ [x.2] }

theorem packRunStart_eq (t run : Nat) (p : Packer) :
    packRunStart t run p = startPut p.timeBase run (findRoom t 16 (gateOpened run p)) := rfl

theorem packRunStart_filling (t run : Nat) (hseq : p.nextSeq ≤ 281474976710653) (hfilling : bufIn p .filling = some i)
    (hfit : usedBytes (getBuf p i) + 16 ≤ 1024) : packRunStart t run p
      = { setBuf p { getBuf p i with recs := (getBuf p i).recs ++ [startRecord p run p.nextSeq] } i with
          run := run, gateOpen := true, nextSeq := p.nextSeq + 1, lastPlaced := p.nextSeq,
          recordsPacked := min counterMax (p.recordsPacked + 1) } := by
  have hroom : findRoom t 16 (gateOpened run p) = (gateOpened run p, some i) :=
    findRoom_filling ((bufIn_carry _ rfl rfl).trans hfilling) (by cases i <;> exact hfit)
  rw [packRunStart_eq, hroom, startPut]
  dsimp only
  rw [takeSeq, putRecord_next rfl rfl]
  rw [dropTally_below (Nat.lt_of_le_of_lt (Nat.succ_le_succ hseq) (by decide))]
  cases i <;> rfl

theorem gateOpened_over {size : Nat} (run : Nat) (h : NoRoomFor p size q) :
    NoRoomFor (gateOpened run p) size (gateOpened run q) := by
  have hcarried := NoRoomFor.carry (p' := gateOpened run p) h rfl rfl rfl rfl
  have hover : ({ gateOpened run p with sb0 := q.sb0, sb1 := q.sb1, fullOrder := q.fullOrder, flushTimer := q.flushTimer }
      : Packer) = gateOpened run q := by
    conv => rhs; rw [h.frame]
    rfl
  exact hover ▸ hcarried

theorem packRunStart_open (t run : Nat) (hseq : p.nextSeq + (lossGap p).length ≤ 281474976710653)
    (hroom : NoRoomFor p 16 q) (hempty : bufIn q .empty = some j) : packRunStart t run p
      = openedWith t j [startRecord p run (p.nextSeq + (lossGap p).length)] (gateOpened run q) := by
  have hfound : findRoom t 16 (gateOpened run p) = (openBuf t j (gateOpened run q), some j) :=
    findRoom_open (gateOpened_over run hroom) ((bufIn_carry _ rfl rfl).trans hempty)
  have hnext : (openBuf t j (gateOpened run q)).nextSeq = p.nextSeq + (lossGap p).length := by
    rw [openBuf_nextSeq, (gateOpened_over run hroom).lossGap, (gateOpened_over run hroom).nextSeq]
    rfl
  rw [packRunStart_eq, hfound, startPut]
  dsimp only
  rw [takeSeq, putRecord_openBuf, hnext, dropTally_below]
  · rfl
  · have hopened : (openedWith t j [{ seq := p.nextSeq + (lossGap p).length, time := p.timeBase, body := .runStart run }]
        (gateOpened run q)).nextSeq = (openBuf t j (gateOpened run q)).nextSeq + 1 := by
      rw [openBuf_nextSeq]
      rfl
    rw [hopened, hnext]
    exact Nat.lt_of_le_of_lt (Nat.succ_le_succ hseq) (by decide)

theorem packRunStart_slot (t run : Nat) (hseq : p.nextSeq + (lossGap p).length ≤ 281474976710653)
    (hroom : NoRoomFor p 16 q) (hempty : bufIn q .empty = none) : packRunStart t run p
      = { noTally (gateOpened run q) with
          nextSeq := p.nextSeq + (lossGap p).length + 1,
          slot := p.slot ++ lossGap p ++ [startRecord p run (p.nextSeq + (lossGap p).length)] } := by
  have hfound : findRoom t 16 (gateOpened run p) = (gateOpened run q, none) :=
    findRoom_none (gateOpened_over run hroom) ((bufIn_carry _ rfl rfl).trans hempty)
  have hgap : lossGap (gateOpened run q) = lossGap p := (gateOpened_over run hroom).lossGap
  have hslot : (gateOpened run q).slot = p.slot := by rw [hroom.frame]; rfl
  have hnext : (gateOpened run q).nextSeq = p.nextSeq := hroom.nextSeq
  rw [packRunStart_eq, hfound, startPut]
  dsimp only
  rw [reserveGap_eq, takeSeq, hgap, hnext]
  dsimp only
  rw [dropTally_below (Nat.lt_of_le_of_lt (Nat.succ_le_succ hseq) (by decide))]
  simp [noTally, hslot, startRecord]

end Sys2Proof.Machine
end

section
/-! PROOF. Results at the Packer, the time, and the runs of capture (02, 05). -/

set_option Elab.async false

namespace Sys2Proof.Machine

variable {s u v : State} {r : Request} {e : Entry}

/-! ### The Log Writer's check over the same buffers -/

theorem waitingBuffer_carry {t : State} (harr : t.arr = s.arr) (h0 : t.packer.sb0 = s.packer.sb0)
    (h1 : t.packer.sb1 = s.packer.sb1) (horder : t.packer.fullOrder = s.packer.fullOrder) :
    waitingBuffer t = waitingBuffer s := by
  rw [waitingBuffer, bufIn_carry .writing h0 h1, harr, horder]
  rfl

theorem LogQuiet.carry {t : State} (h : LogQuiet s) (hseqr : t.seqr = s.seqr) (hlog : t.log = s.log)
    (harr : t.arr = s.arr) (h0 : t.packer.sb0 = s.packer.sb0) (h1 : t.packer.sb1 = s.packer.sb1)
    (horder : t.packer.fullOrder = s.packer.fullOrder) : LogQuiet t := by
  rw [LogQuiet, hseqr, hlog, harr, waitingBuffer_carry harr h0 h1 horder]
  exact h

/-! ### What the ends of posting leave (R99) -/

/-- Looking whether the KEPT snapshot is due changes of the Capture Controller only whether it has been asked for. -/
theorem KeptLooked.ctl (h : KeptLooked u v) : v.ctl = { u.ctl with keptAsked := v.ctl.keptAsked } := by
  obtain ⟨-, rfl⟩ | ⟨e, last, -, -, -, -, -, -, -, hjob⟩ := h
  · rfl
  · have hctl : v.ctl = { u.ctl with keptAsked := true } := (congrArg State.ctl hjob.frame :)
    rw [hctl]

theorem PostingEnded.ctl {why : CloseReason} {last : Nat} (h : PostingEnded why e last s v) :
    v.ctl = { (postingClosed why e last s).ctl with keptAsked := v.ctl.keptAsked } :=
  KeptLooked.ctl (u := postingClosed why e last s) h

/-- The end of posting leaves ports, Management Unit and page numbers alone. -/
theorem PostingEnded.frame {why : CloseReason} {last : Nat} (h : PostingEnded why e last s v) :
    v = { postingClosed why e last s with
      jrnl := v.jrnl, log := v.log, arr := v.arr, store := v.store, ctl := v.ctl } :=
  KeptLooked.frame (u := postingClosed why e last s) h

theorem PostingEnded.ports {why : CloseReason} {last : Nat} (h : PostingEnded why e last s v) :
    v.portA = s.portA ∧ v.portB = s.portB :=
  ⟨(congrArg State.portA (PostingEnded.frame h) :), (congrArg State.portB (PostingEnded.frame h) :)⟩

theorem CountTaken.ports {first : Nat} (h : CountTaken first u v) : v.portA = u.portA ∧ v.portB = u.portB := by
  obtain ⟨-, rfl⟩ | ⟨-, -, -, e, -, hended⟩ := h
  · exact ⟨rfl, rfl⟩
  · exact PostingEnded.ports hended

/-! ### Stops (R87, R88) -/

theorem enterStopped_eq (s : State) : enterStopped s = captureEnded s := rfl

/-- A run that is stopped in RUNNING comes to STOPPED behind its RUN_STOP. -/
theorem stopCapture_running {why : StopReason} {p : Packer} (hstate : s.ctl.state = .running)
    (hplaced : StopPlaced why s p) : stopCapture why s = captureEnded { s with
      packer := p, ctl := { s.ctl with holdoffTimer := none, stopReason := some why } } := by
  rw [stopCapture, hstate, ← packRunStop_placed hplaced]
  rfl

/-- In POSTING the stop ends posting, and the RUN_STOP makes the closure. -/
theorem stopCapture_posting {why : StopReason} {p : Packer} (hstate : s.ctl.state = .posting)
    (halone : OpenAlone s.dir e) (hended : PostingEnded .stopped e (lastAtEnd s e) s v)
    (hplaced : StopPlaced why s p) : stopCapture why s = { v with
      packer := p, ctl := { v.ctl with stopReason := some why } } := by
  have hpacker : v.packer = s.packer := PostingEnded.packer hended
  have hctl := PostingEnded.ctl hended
  have hrun : v.ctl.lastRun = s.ctl.lastRun := by rw [hctl]; rfl
  have hflush : flushInterval v = flushInterval s := by rw [flushInterval, hctl]; rfl
  have hend : endPosting .stopped s = v :=
    endPosting_ended hstate halone (by rw [postingLast_ne (by decide)]; exact hended)
  have hstop : packRunStop (flushInterval v) v.ctl.lastRun why v.packer = p := by
    rw [hflush, hrun, hpacker, packRunStop_placed hplaced]
  rw [stopCapture, hstate]
  change offerRunStop why (endPosting .stopped s) = _
  rw [hend, offerRunStop, hstop]
  rfl

/-- In CLOSING toward RUNNING the stop turns the target to STOPPED. -/
theorem stopCapture_closing {why : StopReason} {p : Packer} (hstate : s.ctl.state = .closing)
    (htarget : s.ctl.target = some .running) (hplaced : StopPlaced why s p) : stopCapture why s = { s with
      packer := p, ctl := { s.ctl with target := some .stopped, stopReason := some why } } := by
  rw [stopCapture, hstate, ← packRunStop_placed hplaced]
  simp only [htarget]
  rfl

theorem stopCapture_stopped {why : StopReason} (hstate : s.ctl.state = .stopped) : stopCapture why s = s := by
  rw [stopCapture, hstate]

theorem stopCapture_closed {why : StopReason} (hstate : s.ctl.state = .closing)
    (htarget : s.ctl.target = some .stopped) : stopCapture why s = s := by
  rw [stopCapture, hstate]
  simp only [htarget]

/-! ### CLASSIFICATION_RESULT (R29 to R35) -/

theorem exec_classificationResult {x : Result} {rest : List Result} (h : s.raised.results = x :: rest) :
    exec .classificationResult s = .next (if discardedWhole s.packer.gateOpen x = true
      then s.setRaised { s.raised with results := rest }
      else settle (takeResult x (s.setRaised { s.raised with results := rest }))) := by
  change execClassificationResult s = _
  rw [execClassificationResult, h]

/-- The mark that a record placed gives, and the one of a result without a record. -/
theorem markOf_placed {x : Result} {p : Packer} {seq : Nat} (h : p.nextSeq = seq + 1) :
    markOf x true p = { rule := x.rule, seq := seq, time := x.time, lost := false } := by
  simp [markOf, h]

theorem markOf_unplaced {x : Result} {p : Packer} (h : p.nextSeq ≤ 281474976710653) :
    markOf x false p = { rule := x.rule, seq := p.nextSeq, time := x.time, lost := x.capture.isSome } := by
  have hmax : ¬ ordinaryMax < p.nextSeq := Nat.not_lt.mpr (Nat.le_succ_of_le h)
  simp [markOf, hmax]

theorem passMark_eq (x : Result) (placed : Bool) (s : State) : passMark x placed s
    = s.setRaised { s.raised with
      marks := s.raised.marks ++ (if x.mark = true then [markOf x placed s.packer] else []) } := by
  unfold passMark
  split <;> simp [State.setRaised]

theorem noteLoss_eq (t : Time) (s : State) : noteLoss t s
    = (s.setRaised { s.raised with events := s.raised.events
        ++ (if s.packer.lossFlag = true then [] else [(.packer, .captureLoss t s.packer.nextSeq)]) }).setPacker
      { s.packer with lossFlag := true } := by
  by_cases h : s.packer.lossFlag = true
  · have hsame : ({ s.packer with lossFlag := true } : Packer) = s.packer := by rw [← h]
    simp [noteLoss, h, hsame, State.setRaised, State.setPacker]
  · simp [noteLoss, h, raiseEvent, State.setRaised, State.setPacker]

/-- A capture that is placed: its mark goes on with its sequence, and the controller hears of the sequences taken. -/
theorem takeResult_placed {x : Result} {c : Captured} {p : Packer} {seq : Nat} (hcapture : x.capture = some c)
    (hpack : packCapture (flushInterval s) x c s.packer = (p, true)) (hseq : p.nextSeq = seq + 1) :
    takeResult x s = packed s.packer.nextSeq ((s.setRaised { s.raised with
      marks := s.raised.marks ++ (if x.mark = true then
        [{ rule := x.rule, seq := seq, time := x.time, lost := false }] else []) }).setPacker p) := by
  rw [takeResult, hcapture]
  dsimp only
  rw [hpack]
  dsimp only
  rw [if_pos rfl, passMark_eq, State.setPacker_packer, markOf_placed hseq]
  rfl

/-- A capture that is lost: it is noted, and its mark goes on as TRIGGER_LOST. -/
theorem takeResult_lost {x : Result} {c : Captured} {p : Packer} (hcapture : x.capture = some c)
    (hpack : packCapture (flushInterval s) x c s.packer = (p, false)) (hseq : p.nextSeq ≤ 281474976710653)
    (hnext : p.nextSeq = s.packer.nextSeq) :
    takeResult x s = (s.setRaised { s.raised with
        marks := s.raised.marks ++ (if x.mark = true then
          [{ rule := x.rule, seq := p.nextSeq, time := x.time, lost := true }] else []),
        events := s.raised.events
          ++ (if p.lossFlag = true then [] else [(.packer, .captureLoss x.time p.nextSeq)]) }).setPacker
      { p with lossFlag := true } := by
  have hmark := markOf_unplaced (x := x) (p := { p with lossFlag := true }) hseq
  rw [takeResult, hcapture]
  dsimp only
  rw [hpack]
  dsimp only
  rw [if_neg Bool.false_ne_true, passMark_eq, noteLoss_eq, State.setPacker_packer, State.setPacker_packer, hmark,
    hcapture]
  exact packed_taken (.inl ⟨fun _ => by
    by_cases hend : s.ctl.postEnd < s.packer.nextSeq
    · exact .inl hend
    · exact .inr (hnext ▸ Nat.le_of_not_lt hend), rfl⟩) (Nat.ne_of_lt (Nat.lt_of_le_of_lt hseq (by decide)))

/-- Settles O24: the result by the gate, and its capture by the room that the buffers have. -/
theorem resultsArePackedLostOrDiscarded : Obligations.ResultsArePackedLostOrDiscarded := by
  unfold Obligations.ResultsArePackedLostOrDiscarded
  intro x rest s hresults p raised frame
  rw [exec_classificationResult hresults]
  refine ⟨fun hdiscard => ?_, fun hgate hlive hstop hseq => ?_⟩
  · have hwhole : discardedWhole s.packer.gateOpen x = true := by
      rcases hdiscard with h | h <;> simp [discardedWhole, p, h]
    rw [if_pos hwhole]
  have htaken : discardedWhole s.packer.gateOpen x = false := by
    simpa [discardedWhole, p, hlive] using hgate
  let t := s.setRaised { s.raised with results := rest }
  rw [if_neg (by simp [htaken]), show s.setRaised { s.raised with results := rest } = t from rfl]
  refine ⟨fun hnone hquiet => ?_, fun c i hcapture hfilling hfit v hcount hquiet => ?_,
    fun c q hcapture hroom => ⟨fun j v hempty hslot hnext hcount hquiet => ?_, fun hempty hquiet => ?_⟩⟩
  · have htake : takeResult x t = s.setRaised (raised p.nextSeq false) := by
      rw [takeResult, hnone]
      dsimp only
      rw [passMark_eq, State.setRaised_packer, markOf_unplaced hseq, hnone]
      rfl
    rw [htake]
    exact congrArg _ (settle_quiet (hstop.carry rfl) hquiet)
  · have hpack := packCapture_filling (t := flushInterval s) (x := x) hseq hfilling hfit
    have hlast : p.nextSeq + 1 ≠ 281474976710655 := by omega
    have htake : takeResult x t = v := (takeResult_placed (s := t) hcapture hpack rfl).trans (packed_taken hcount hlast)
    rw [htake]
    have hmgmt : v.mgmt = s.mgmt := (CountTaken.mgmt hcount :)
    exact congrArg _ (settle_quiet (hstop.carry hmgmt) hquiet)
  · have hpack := packCapture_open (t := flushInterval s) (x := x) hnext hroom hempty
    have hafter : (openedWith (flushInterval s) j [captureRecord x c (p.nextSeq + (lossGap p).length)] q).nextSeq
        = p.nextSeq + (lossGap p).length + 1 := by
      rw [← NoRoomFor.lossGap hroom, ← NoRoomFor.nextSeq hroom]
      rfl
    have hlast : (openedWith (flushInterval s) j [captureRecord x c (p.nextSeq + (lossGap p).length)] q).nextSeq
        ≠ 281474976710655 := by omega
    have htake : takeResult x t = v :=
      (takeResult_placed (s := t) hcapture hpack hafter).trans (packed_taken hcount hlast)
    rw [htake]
    have hmgmt : v.mgmt = s.mgmt := (CountTaken.mgmt hcount :)
    exact congrArg _ (settle_quiet (hstop.carry hmgmt) hquiet)
  · have hpack := packCapture_none (t := flushInterval s) (x := x) hseq hroom hempty
    have hnext : q.nextSeq = p.nextSeq := NoRoomFor.nextSeq hroom
    have hflag : q.lossFlag = p.lossFlag := by rw [NoRoomFor.frame hroom]
    have htake := takeResult_lost (s := t) hcapture hpack (hnext ▸ hseq) hnext
    dsimp only at htake
    rw [hnext, hflag] at htake
    rw [htake]
    conv => rhs; rw [hnext]
    exact congrArg _ (settle_quiet (hstop.carry rfl) (hquiet.carry rfl rfl rfl rfl rfl rfl))

/-! ### SET_TIME (R27) -/

/-- The time that four parameter bytes carry. -/
theorem fieldAt_time {a b c d : Byte} (h : r.params = [a, b, c, d]) :
    fieldAt 0 4 r.params = ((a.toNat * 256 + b.toNat) * 256 + c.toNat) * 256 + d.toNat := by
  simp [h, fieldAt, slice, beNat]

/-- A TIME_SET record that fits is placed while the gate is OPEN. -/
theorem exec_setTime (h : Handed codeSetTime r s) : exec .setTime s = .next
    (if s.packer.gateOpen = false then
      respond .ok (beTime s.packer.timeBase) (moveTime (BitVec.ofNat 32 (fieldAt 0 4 r.params)) s)
    else if timeSetFits s.packer = true then
      settle (respond .ok (beTime s.packer.timeBase) (packed s.packer.nextSeq
        (s.setPacker (packTimeSet (flushInterval s) (BitVec.ofNat 32 (fieldAt 0 4 r.params)) s.packer))))
    else respond .busy [] s) := congrArg _ (takeRequest_handed h _)

/-- The last sequence alone is left: a run is stopped. -/
theorem packed_last {first : Nat} {p : Packer} (hstate : s.ctl.state = .running) (hfirst : first < 281474976710655)
    (hnext : s.packer.nextSeq = 281474976710655) (hplaced : StopPlaced .sequenceEnd s p) :
    packed first s = captureEnded { s with
      packer := p, ctl := { s.ctl with holdoffTimer := none, stopReason := some .sequenceEnd } } := by
  have hnot : ¬ (s.ctl.state = .posting ∧ assignedBetween first s.packer.nextSeq s.ctl.postEnd = true) := by
    simp [hstate]
  rw [packed, if_neg hnot]
  dsimp only
  rw [if_pos ⟨hfirst, hnext⟩, stopCapture_running hstate hplaced]

/-- Settles O52: the gate, the room for the record, and what its sequence ends. -/
theorem timeIsSetWithARecord : Obligations.TimeIsSetWithARecord := by
  unfold Obligations.TimeIsSetWithARecord
  intro r v1 v2 v3 v4 s h hroom hparams p new old record placed
  have hnew : BitVec.ofNat 32 (fieldAt 0 4 r.params) = new := by rw [fieldAt_time hparams]
  rw [exec_setTime h, hnew]
  refine ⟨fun hgate => ?_, fun q hgate hplaced => ?_, fun hgate hbusy => ?_⟩
  · rw [if_pos hgate]
    exact congrArg _ (respond_handed h hroom rfl rfl rfl)
  · have hopen : ¬ s.packer.gateOpen = false := by simpa [p] using hgate
    obtain ⟨hslot, hcase⟩ := hplaced
    have hpack : packTimeSet (flushInterval s) new s.packer = dropTally q := by
      obtain ⟨i, hfilling, hfit, rfl⟩ | ⟨j, m, hnoRoom, hempty, rfl⟩ := hcase
      · exact packTimeSet_filling _ _ hfilling hfit
      · exact packTimeSet_open _ _ hnoRoom hempty
    have hfits : q.nextSeq ≤ 281474976710655 → timeSetFits s.packer = true ∧ s.packer.nextSeq < 281474976710655 := by
      obtain ⟨i, hfilling, hfit, rfl⟩ | ⟨j, m, hnoRoom, hempty, rfl⟩ := hcase
      · intro hseq
        rw [timeSetFits_filling hfilling hfit]
        simpa [hslot] using ⟨Nat.le_of_succ_le_succ hseq, hseq⟩
      · intro hseq
        have hnext : m.nextSeq + (lossGap m).length + 1 ≤ 281474976710655 := hseq
        rw [NoRoomFor.lossGap hnoRoom, NoRoomFor.nextSeq hnoRoom] at hnext
        have hmax : s.packer.nextSeq + (lossGap s.packer).length ≤ 281474976710654 := Nat.le_of_succ_le_succ hnext
        rw [timeSetFits_noRoom (show NoRoomFor s.packer 22 m from hnoRoom), hempty]
        have hslot : s.packer.slot = [] := hslot
        simp only [hslot, hmax, decide_true, Option.isSome_some, Bool.and_self, true_and]
        omega
    rw [if_neg hopen, hpack]
    refine ⟨fun v hseq hcount hquiet => ?_, fun u hseq hstate => ?_⟩
    · obtain ⟨hfit, -⟩ := hfits (Nat.le_of_lt hseq)
      have hpacked : packed s.packer.nextSeq (s.setPacker q) = v := packed_taken hcount (Nat.ne_of_lt hseq)
      have hports : v.portA = s.portA ∧ v.portB = s.portB := (CountTaken.ports hcount :)
      have hmgmt : v.mgmt = s.mgmt := (CountTaken.mgmt hcount :)
      rw [if_pos hfit, dropTally_below hseq, hpacked]
      exact congrArg _ (settle_respond_handed h hroom hports.1 hports.2 hmgmt hquiet)
    · intro t hplaced hquiet
      obtain ⟨hfit, hfirst⟩ := hfits (Nat.le_of_eq hseq)
      have hdrop : dropTally q = { q with tallyCount := 0, tallyFirst := 0, tallyLast := 0 } :=
        if_neg (Nat.not_lt.mpr (Nat.le_of_eq hseq.symm))
      have hpacked := packed_last (s := t) (first := s.packer.nextSeq) hstate hfirst hseq hplaced
      rw [if_pos hfit, hdrop, hpacked]
      exact congrArg _ (settle_respond_handed h hroom rfl rfl rfl (hquiet.carry rfl rfl rfl rfl rfl rfl))
  · have hopen : ¬ s.packer.gateOpen = false := by simpa [p] using hgate
    have hfits : timeSetFits s.packer = false := by
      rcases hbusy with hslot | hlast | ⟨m, hnoRoom, hnone⟩
      · have hslot : s.packer.slot ≠ [] := hslot
        simp [timeSetFits, hslot]
      · exact timeSetFits_last hlast
      · rw [timeSetFits_noRoom (show NoRoomFor s.packer 22 m from hnoRoom)]
        rcases hnone with hnone | hlast
        · simp [hnone]
        · have hmax : ¬ s.packer.nextSeq + (lossGap s.packer).length ≤ 281474976710654 := Nat.not_le.mpr hlast
          simp only [hmax, decide_false, Bool.and_false]
    rw [if_neg hopen, if_neg (by simp [hfits])]
    exact congrArg _ (respond_handed h hroom rfl rfl rfl)

/-! ### START_CAPTURE and STOP_CAPTURE (R86, R87) -/

theorem exec_startCapture (h : Handed codeStartCapture r s) : exec .startCapture s = .next
    (match (startCapture s).2 with
      | .storeFault => respond .storeFault [] (startCapture s).1
      | .busy => respond .busy [] (startCapture s).1
      | .started run origin => settle (respond .ok (be 2 run ++ be6 origin) (startCapture s).1)) :=
  congrArg _ (takeRequest_handed h _)

theorem startCapture_busy (hfault : inFault s.log = false) (hbusy : s.ctl.state ≠ .stopped ∨ s.packer.slot ≠ []) :
    startCapture s = (s, .busy) := by
  rw [startCapture, if_neg (by simp [hfault])]
  by_cases hstate : s.ctl.state = .stopped
  · rw [if_neg (not_not_intro hstate), if_pos (by simp [acceptsRunStart, hbusy.resolve_left (not_not_intro hstate)])]
  · rw [if_pos hstate]

/-- A run that begins at the sequence of its RUN_START. -/
theorem startCapture_begun {origin : Nat} (h : RunBegun origin s v) :
    startCapture s = (v, .started (nextNumber s.ctl.lastRun) origin) ∧ origin ≤ 281474976710655 := by
  obtain ⟨hfault, hstate, hslot, hseq, hcase⟩ := h
  have hplain : s.packer.nextSeq ≤ ordinaryMax := by
    have hmax : ordinaryMax = 281474976710654 := rfl
    omega
  have haccept : acceptsRunStart s.packer = true := by simp [acceptsRunStart, hslot, hplain]
  have hbegun (q : Packer) (hpack : packRunStart (flushInterval s) (nextNumber s.ctl.lastRun) s.packer = q)
      (hnext : q.nextSeq = origin + 1) (horigin : origin ≤ 281474976710653) :
      startCapture s = ({ s with
        packer := q,
        ctl := { s.ctl with
          state := .running, lastRun := nextNumber s.ctl.lastRun, runOrigin := origin, holdoffTimer := none,
          stopReason := none } }, .started (nextNumber s.ctl.lastRun) origin) := by
    have hpacked (t : State) (hrun : t.ctl.state = .running) (ht : t.packer.nextSeq = origin + 1) :
        packed s.packer.nextSeq t = t := by
      refine packed_taken (.inl ⟨fun hposting => ?_, rfl⟩) (by omega)
      simp [hrun] at hposting
    rw [startCapture, if_neg (by simp [hfault]), if_neg (not_not_intro hstate), if_neg (by simp [haccept])]
    dsimp only
    rw [hpack, hpacked _ rfl hnext, hnext]
    rfl
  obtain ⟨i, hfilling, hfit, rfl, rfl⟩ | ⟨q, hroom, rfl, ⟨j, hempty, rfl⟩ | ⟨hempty, rfl⟩⟩ := hcase
  · have hlow : s.packer.nextSeq ≤ 281474976710653 := by omega
    exact ⟨hbegun _ (packRunStart_filling _ _ hlow hfilling hfit) rfl hlow, by omega⟩
  · have hnext : (openedWith s.ctl.settings.flush j
        [startRecord s.packer (nextNumber s.ctl.lastRun) (s.packer.nextSeq + (lossGap s.packer).length)]
        (gateOpened (nextNumber s.ctl.lastRun) q)).nextSeq = s.packer.nextSeq + (lossGap s.packer).length + 1 := by
      rw [← NoRoomFor.lossGap hroom, ← NoRoomFor.nextSeq hroom]
      rfl
    exact ⟨hbegun _ (packRunStart_open _ _ hseq hroom hempty) hnext hseq, by omega⟩
  · refine ⟨(hbegun _ (packRunStart_slot _ _ hseq hroom hempty) rfl hseq).trans ?_, by omega⟩
    rw [NoRoomFor.frame hroom, hslot]
    rfl

theorem exec_stopCapture (h : Handed codeStopCapture r s) : exec .stopCapture s = .next
    (settle (respond .ok (b1 (captureStateCode (stopCapture .request s).ctl.state)) (stopCapture .request s))) :=
  congrArg _ (takeRequest_handed h _)

/-- Settles O53: the answers of START_CAPTURE, and a stop from each state. -/
theorem captureStartsAndStops : Obligations.CaptureStartsAndStops := by
  unfold Obligations.CaptureStartsAndStops
  intro r s hroom p run
  refine ⟨fun h => ⟨fun hfault => ?_, fun hfault hbusy => ?_, fun origin v hbegun hquiet => ?_⟩,
    fun h => ⟨fun hstate hquiet => ?_, fun hstate htarget hquiet => ?_, fun u hplaced hquiet => ?_⟩⟩
  · have hstart : startCapture s = (s, .storeFault) := if_pos hfault
    rw [exec_startCapture h, hstart]
    exact congrArg _ (respond_handed h hroom rfl rfl rfl)
  · rw [exec_startCapture h, startCapture_busy hfault hbusy]
    exact congrArg _ (respond_handed h hroom rfl rfl rfl)
  · obtain ⟨hstart, horigin⟩ := startCapture_begun hbegun
    have hsame : v.portA = s.portA ∧ v.portB = s.portB ∧ v.mgmt = s.mgmt := by
      obtain ⟨-, -, -, -, ⟨i, -, -, -, rfl⟩ | ⟨q, -, -, ⟨j, -, rfl⟩ | ⟨-, rfl⟩⟩⟩ := hbegun <;> exact ⟨rfl, rfl, rfl⟩
    rw [exec_startCapture h, hstart]
    dsimp only
    rw [be6_eq horigin]
    exact congrArg _ (settle_respond_handed h hroom hsame.1 hsame.2.1 hsame.2.2 hquiet)
  · rw [exec_stopCapture h, stopCapture_stopped hstate, hstate]
    exact congrArg _ (settle_respond_handed h hroom rfl rfl rfl hquiet)
  · rw [exec_stopCapture h, stopCapture_closed hstate htarget, hstate]
    exact congrArg _ (settle_respond_handed h hroom rfl rfl rfl hquiet)
  · refine ⟨fun hstate => ?_, fun e v hstate halone hended hquietEnd => ?_, fun hstate htarget => ?_⟩
    · rw [exec_stopCapture h, stopCapture_running hstate hplaced]
      exact congrArg _ (settle_respond_handed h hroom rfl rfl rfl (hquiet.carry rfl rfl rfl rfl rfl rfl))
    · have hctl : v.ctl.state = .closing := by rw [PostingEnded.ctl hended]; rfl
      have hports : v.portA = s.portA ∧ v.portB = s.portB := PostingEnded.ports hended
      have hmgmt : v.mgmt = s.mgmt := PostingEnded.mgmt hended
      rw [exec_stopCapture h, stopCapture_posting hstate halone hended hplaced]
      dsimp only
      rw [hctl]
      exact congrArg _ (settle_respond_handed h hroom hports.1 hports.2 hmgmt
        (hquietEnd.carry rfl rfl rfl rfl rfl rfl))
    · rw [exec_stopCapture h, stopCapture_closing hstate htarget hplaced]
      dsimp only
      rw [hstate]
      exact congrArg _ (settle_respond_handed h hroom rfl rfl rfl (hquiet.carry rfl rfl rfl rfl rfl rfl))

end Sys2Proof.Machine
end

section
/-! PROOF. Notices (10), the changes of a line (8.1, 8.7) and the loss of a session's link (7.7). -/

set_option Elab.async false

namespace Sys2Proof.Machine

variable {s t u v : State} {p : Port} {who : Producer} {bytes : Bytes}

/-! ### Offers of local frames -/

theorem offerLocal_entered (h : LocalRoom p t) :
    offerLocal p who bytes t = (enqueued p who bytes t, .entered, t.serial) := by
  rw [offerLocal_room h.1 h.2]
  cases p <;> rfl

theorem offerLocal_waits (hup : (t.port p).up = true) (hfull : 4 ≤ (t.port p).localQ.length) :
    offerLocal p who bytes t = (joinedWaiting p who bytes t, .waits, t.serial) := by
  have htake : ∀ f, localTake (t.port p) f
      = ({ t.port p with waiting := (t.port p).waiting ++ [{ frame := f, withdrawn := false }] }, .waits) := by
    intro f
    simp [localTake, hup, Config.localPlaces, Nat.not_lt.mpr hfull]
  simp only [offerLocal, htake]
  cases p <;> rfl

theorem offerLocal_dropped (hdown : (t.port p).up = false) :
    offerLocal p who bytes t = (offerDropped p who t, .discarded, t.serial) := by
  have htake : ∀ f, localTake (t.port p) f = ({ t.port p with counters := { (t.port p).counters with
      localDown := min counterMax ((t.port p).counters.localDown + 1) } }, .discarded) := by
    intro f
    simp [localTake, hdown, bump_eq]
  simp only [offerLocal, htake]
  cases p <;> rfl

theorem offerLocal_offered (h : LocalOffered p who bytes t u) :
    (offerLocal p who bytes t).1 = u ∧ (offerLocal p who bytes t).2.2 = t.serial := by
  obtain ⟨hroom, rfl⟩ | ⟨hup, hfull, rfl⟩ | ⟨hdown, rfl⟩ := h
  · rw [offerLocal_entered hroom]
    exact ⟨rfl, rfl⟩
  · rw [offerLocal_waits hup hfull]
    exact ⟨rfl, rfl⟩
  · rw [offerLocal_dropped hdown]
    exact ⟨rfl, rfl⟩

/-- An offer does not look at the Notice Unit. -/
theorem LocalOffered.setNotice (h : LocalOffered p who bytes t u) (n : NoticeUnit) :
    LocalOffered p who bytes (t.setNotice n) (u.setNotice n) := by
  obtain ⟨hroom, rfl⟩ | ⟨hup, hfull, rfl⟩ | ⟨hdown, rfl⟩ := h
  · exact .inl ⟨hroom, by cases p <;> rfl⟩
  · exact .inr (.inl ⟨hup, hfull, by cases p <;> rfl⟩)
  · exact .inr (.inr ⟨hdown, by cases p <;> rfl⟩)

/-! ### The head notice -/

variable {n : NoticeUnit} {x : Notice} {rest : List Notice}

theorem offerHead_held (hqueue : n.queue ≠ []) (hwaits : isWaiting n.settings.port .notice t = true) :
    offerHead (t.setNotice n) = t.setNotice { n with head := .queued, frame := none } := by
  obtain ⟨x, rest, hqueue⟩ := List.exists_cons_of_ne_nil hqueue
  have hnotice : (t.setNotice n).notice.queue = x :: rest := hqueue
  rw [offerHead, hnotice]
  exact if_pos hwaits

theorem offerHead_placed (hqueue : n.queue = x :: rest) (hwaits : isWaiting n.settings.port .notice t = false)
    (h : LocalOffered n.settings.port .notice (noticeFrame t.seqr.own n x) t u) :
    offerHead (t.setNotice n)
      = u.setNotice { n with head := .queued, frame := some t.serial, carried := n.overflow } := by
  have hnotice : (t.setNotice n).notice.queue = x :: rest := hqueue
  obtain ⟨hstate, hserial⟩ := offerLocal_offered (h.setNotice n)
  rw [offerHead, hnotice]
  refine (if_neg (by exact ne_true_of_eq_false hwaits)).trans ?_
  dsimp only [State.setNotice_notice, State.setNotice_seqr]
  rw [hstate, hserial]
  rfl

theorem offerHead_offered (h : HeadOffered n t v) : offerHead (t.setNotice n) = v := by
  obtain ⟨hqueue, hwaits, rfl⟩ | ⟨hwaits, x, rest, u, hqueue, hoffer, rfl⟩ := h
  · exact offerHead_held hqueue hwaits
  · exact offerHead_placed hqueue hwaits hoffer

theorem HeadOffered.queue_ne (h : HeadOffered n t v) : n.queue ≠ [] := by
  obtain ⟨hqueue, -⟩ | ⟨-, x, rest, u, hqueue, -⟩ := h
  · exact hqueue
  · simp [hqueue]

theorem sendHead_none (hqueue : n.queue = []) : sendHead (t.setNotice n) = t.setNotice n := by
  have hnotice : (t.setNotice n).notice.queue = [] := hqueue
  rw [sendHead, hnotice]

theorem sendHead_down (hqueue : n.queue ≠ []) (hdown : noticeLinkUp n n.settings.port = false) :
    sendHead (t.setNotice n) = t.setNotice { n with head := .parked, frame := none } := by
  obtain ⟨x, rest, hqueue⟩ := List.exists_cons_of_ne_nil hqueue
  have hnotice : (t.setNotice n).notice.queue = x :: rest := hqueue
  rw [sendHead, hnotice]
  exact if_neg (by exact ne_true_of_eq_false hdown)

theorem sendHead_up (hup : noticeLinkUp n n.settings.port = true) (h : HeadOffered n t v) :
    sendHead (t.setNotice n) = v := by
  obtain ⟨x, rest, hqueue⟩ := List.exists_cons_of_ne_nil h.queue_ne
  have hnotice : (t.setNotice n).notice.queue = x :: rest := hqueue
  rw [sendHead, hnotice]
  exact (if_pos hup).trans (offerHead_offered h)

theorem noticeLinkUp_same {m : NoticeUnit} (ha : m.linkA = n.linkA) (hb : m.linkB = n.linkB) (q : Port) :
    noticeLinkUp m q = noticeLinkUp n q := by
  cases q
  · exact ha
  · exact hb

theorem popHead_left (hqueue : n.queue = x :: rest) (h : HeadLeft n rest t v) : popHead (t.setNotice n) = v := by
  let left : NoticeUnit := { n with
    queue := rest, head := .parked, attempts := 0, carried := 0, frame := none, retry := none }
  have hdrop : popHead (t.setNotice n) = sendHead (t.setNotice left) := by
    have htail : n.queue.drop 1 = rest := by rw [hqueue]; rfl
    rw [popHead, State.setNotice_notice, htail]
    rfl
  have hlink : noticeLinkUp left n.settings.port = noticeLinkUp n n.settings.port := noticeLinkUp_same rfl rfl _
  rw [hdrop]
  obtain ⟨hend, rfl⟩ | ⟨hup, hoffer⟩ := h
  · by_cases hlast : rest = []
    · exact sendHead_none hlast
    · exact sendHead_down hlast (hlink.trans (hend.resolve_left hlast))
  · exact sendHead_up (hlink.trans hup) hoffer

theorem dropHead_left (hqueue : n.queue = x :: rest)
    (h : HeadLeft { n with dropped := min counterMax (n.dropped + 1) } rest t v) : dropHead (t.setNotice n) = v := by
  rw [dropHead, State.setNotice_notice, bump_eq]
  exact popHead_left (t := t) (n := { n with dropped := min counterMax (n.dropped + 1) }) hqueue h

/-! ### Events (R175) -/

section Events

variable {e : Event}

theorem takeEvent_ignored (h : t.notice.settings.station = 0 ∨ t.notice.settings.enable.getLsbD (eventCode e - 1) = false) :
    takeEvent e t = t := if_pos h

theorem not_ignored (hstation : n.settings.station ≠ 0) (henabled : n.settings.enable.getLsbD (eventCode e - 1) = true) :
    ¬ (n.settings.station = 0 ∨ kindEnabled n.settings e = false) :=
  not_or.mpr ⟨hstation, ne_false_of_eq_true henabled⟩

theorem takeEvent_full (hstation : t.notice.settings.station ≠ 0)
    (henabled : t.notice.settings.enable.getLsbD (eventCode e - 1) = true) (hfull : 8 ≤ t.notice.queue.length) :
    takeEvent e t = t.setNotice { t.notice with
      discarded := min counterMax (t.notice.discarded + 1), overflow := min 65535 (t.notice.overflow + 1) } := by
  have hcount : (if t.notice.overflow < 65535 then t.notice.overflow + 1 else 65535) = min 65535 (t.notice.overflow + 1) := by
    split <;> omega
  rw [takeEvent, if_neg (not_ignored hstation henabled), if_pos (show Config.noticePlaces ≤ _ from hfull),
    bump_eq, hcount]

/-- The Notice Unit with an event numbered at the tail of its queue. -/
def noticeJoined (e : Event) (n : NoticeUnit) : NoticeUnit := { n with
  queue := n.queue ++ [{ num := n.nextNumber, event := e }],
  nextNumber := if n.nextNumber < 65535 then n.nextNumber + 1 else 1 }

theorem takeEvent_behind (hstation : t.notice.settings.station ≠ 0)
    (henabled : t.notice.settings.enable.getLsbD (eventCode e - 1) = true) (hqueue : t.notice.queue ≠ [])
    (hroom : t.notice.queue.length < 8) : takeEvent e t = t.setNotice (noticeJoined e t.notice) := by
  rw [takeEvent, if_neg (not_ignored hstation henabled)]
  exact (if_neg (Nat.not_le.mpr hroom)).trans (if_neg hqueue)

theorem takeEvent_first (hstation : t.notice.settings.station ≠ 0)
    (henabled : t.notice.settings.enable.getLsbD (eventCode e - 1) = true) (hqueue : t.notice.queue = []) :
    takeEvent e t = sendHead (t.setNotice { noticeJoined e t.notice with attempts := 0, carried := 0 }) := by
  rw [takeEvent, if_neg (not_ignored hstation henabled)]
  refine (if_neg ?_).trans (if_pos hqueue)
  rw [hqueue]
  decide

end Events

/-- Settles O45, by the cases of R175. -/
theorem eventsBecomeNumberedNotices : Obligations.EventsBecomeNumberedNotices := by
  unfold Obligations.EventsBecomeNumberedNotices
  intro src pre post e s hold n t enabled x joined
  have htake : exec (.noticeEvent src) s = .next (takeEvent e t) := by
    change execNoticeEvent src s = _
    rw [execNoticeEvent, takeFirst_oldest (kind := fun y : EventSource × Event => y.1 = src)
      (fun y => decide_eq_true_iff) hold]
  rw [htake]
  refine ⟨fun h => congrArg _ (takeEvent_ignored h), fun hstation henabled => ⟨fun hfull => ?_, fun hqueue hroom => ?_,
    fun hqueue hdown => ?_, fun hqueue hup hroom hwaits => ?_⟩⟩
  · exact congrArg _ (takeEvent_full (t := t) hstation henabled hfull)
  · exact congrArg _ (takeEvent_behind (t := t) hstation henabled hqueue hroom)
  · refine congrArg _ ((takeEvent_first (t := t) hstation henabled hqueue).trans
      (sendHead_down (t := t) (n := { noticeJoined e n with attempts := 0, carried := 0 }) ?_ ?_))
    · simp [noticeJoined]
    · exact (noticeLinkUp_same rfl rfl _).trans hdown
  · let m : NoticeUnit := { noticeJoined e n with attempts := 0, carried := 0 }
    have hhead : m.queue = [x] := by
      change n.queue ++ [x] = [x]
      rw [hqueue]
      rfl
    exact congrArg _ ((takeEvent_first (t := t) hstation henabled hqueue).trans
      (sendHead_up (t := t) (n := m) ((noticeLinkUp_same rfl rfl _).trans hup)
        (.inr ⟨hwaits, x, [], _, hhead, .inl ⟨hroom, rfl⟩, rfl⟩)))

/-! ### Requests of the Notice Unit (R174, R178) -/

section NotifyRequests

variable {r : Request}

theorem readNotify_eq {st e1 e2 r1 r2 : Byte} {q : Port} :
    readNotify [st, e1, e2, r1, r2] q
      = if st.toNat ≤ 250 ∧ e1.toNat * 256 + e2.toNat ≤ 1023 ∧ 100 ≤ r1.toNat * 256 + r2.toNat
          ∧ r1.toNat * 256 + r2.toNat ≤ 10000
        then some { station := st, port := q, enable := BitVec.ofNat 10 (e1.toNat * 256 + e2.toNat),
                    retry := r1.toNat * 256 + r2.toNat }
        else none := by
  have hkinds : fieldAt 1 2 [st, e1, e2, r1, r2] = e1.toNat * 256 + e2.toNat := by simp [fieldAt, slice, beNat]
  have hretry : fieldAt 3 2 [st, e1, e2, r1, r2] = r1.toNat * 256 + r2.toNat := by simp [fieldAt, slice, beNat]
  simp only [readNotify, hkinds, hretry, byteAt, List.getD_cons_zero, notifyValid, Bool.and_eq_true, decide_eq_true_iff]
  by_cases hrange : e1.toNat * 256 + e2.toNat ≤ 1023 <;> simp [hrange, and_assoc]

theorem exec_setNotify (h : Handed codeSetNotify r s) : exec .setNotify s = .next
    (match readNotify r.params r.port with
      | none => respond .badValue [] s
      | some x => respond .ok [] (putNotify x s)) := by
  exact congrArg _ (takeRequest_handed h _)

theorem exec_ackNotice (h : Handed codeAckNotice r s) : exec .ackNotice s = .next
    (if isHead s.notice (fieldAt 0 2 r.params) then respond .ok [] (ackHead s) else respond .notFound [] s) :=
  congrArg _ (takeRequest_handed h _)

theorem isHead_iff {num : Nat} : isHead n num = true ↔ ∃ x rest, n.queue = x :: rest ∧ x.num = num := by
  rw [isHead]
  cases hqueue : n.queue with
  | nil => simp
  | cons x rest => simp

theorem withdraw_notice : (withdraw p who s).notice = s.notice := by
  cases p <;> rfl

theorem withdraw_mgmt : (withdraw p who s).mgmt = s.mgmt := by
  cases p <;> rfl

/-- A withdrawal marks a waiting frame, and leaves room what was room. -/
theorem ReplyRoom.withdraw (h : ReplyRoom r s) : ReplyRoom r (withdraw p who s) := by
  obtain ⟨hup, hroom, hqueue⟩ := h
  have hport : ((Machine.withdraw p who s).port r.port).up = (s.port r.port).up
      ∧ ((Machine.withdraw p who s).port r.port).localQ = (s.port r.port).localQ := by
    cases p <;> cases r.port <;> exact ⟨rfl, rfl⟩
  exact ⟨hport.1.trans hup, by rw [hport.2]; exact hroom, by rw [withdraw_mgmt]; exact hqueue⟩

theorem putNotify_same {x : NotifySettings} (hstation : x.station = s.notice.settings.station)
    (hport : x.port = s.notice.settings.port) : putNotify x s = s.setNotice { s.notice with settings := x } :=
  if_pos ⟨hstation, hport⟩

theorem putNotify_other {x : NotifySettings}
    (h : x.station ≠ s.notice.settings.station ∨ x.port ≠ s.notice.settings.port) :
    putNotify x s = (withdraw s.notice.settings.port .notice s).setNotice { s.notice with
      settings := x, queue := [], overflow := 0, head := .parked, attempts := 0, carried := 0, frame := none,
      retry := none } := by
  rw [putNotify, if_neg (Classical.not_and_iff_not_or_not.mpr h), withdrawHead]
  dsimp only
  rw [withdraw_notice]

theorem LocalOffered.mgmt (h : LocalOffered p who bytes t u) : u.mgmt = t.mgmt := by
  obtain ⟨-, rfl⟩ | ⟨-, -, rfl⟩ | ⟨-, rfl⟩ := h <;> cases p <;> rfl

theorem HeadLeft.mgmt (h : HeadLeft n rest t v) : v.mgmt = t.mgmt := by
  obtain ⟨-, rfl⟩ | ⟨-, ⟨-, -, rfl⟩ | ⟨-, y, more, u, -, hoffer, rfl⟩⟩ := h
  · rfl
  · rfl
  · exact hoffer.mgmt

theorem ackHead_left (hqueue : s.notice.queue = x :: rest)
    (h : HeadLeft { s.notice with overflow := s.notice.overflow - s.notice.carried } rest
      (withdraw s.notice.settings.port .notice s) v) : ackHead s = v := by
  rw [ackHead, withdrawHead, withdraw_notice]
  exact popHead_left hqueue h

end NotifyRequests

/-- Settles O46: settings kept, replaced with the queue, or refused; the acknowledged head leaves, or is not found. -/
theorem notifySettingsAndAcknowledgements : Obligations.NotifySettingsAndAcknowledgements := by
  unfold Obligations.NotifySettingsAndAcknowledgements
  intro r s n q withdrawn
  refine ⟨fun st e1 e2 r1 r2 h hroom hparams => ?_, fun hi lo h hparams => ?_⟩
  · intro kinds retry x valid
    have hread : readNotify r.params r.port = if valid then some x else none := hparams ▸ readNotify_eq
    refine ⟨fun hrefused => ?_, fun hvalid hstation hport => ?_, fun hvalid hchanged => ?_⟩
    · rw [exec_setNotify h, hread, if_neg hrefused]
      exact congrArg _ (respond_handed h hroom rfl rfl rfl)
    · rw [exec_setNotify h, hread, if_pos hvalid]
      dsimp only
      rw [putNotify_same hstation hport]
      exact congrArg _ (respond_handed h hroom rfl rfl rfl)
    · rw [exec_setNotify h, hread, if_pos hvalid]
      dsimp only
      rw [putNotify_other hchanged]
      exact congrArg _ (respond_replied (withdraw_mgmt.symm ▸ h.1) (ReplyRoom.withdraw hroom))
  · have hnum : fieldAt 0 2 r.params = hi.toNat * 256 + lo.toNat := by
      rw [hparams]
      exact fieldAt_two (bs := [hi, lo]) (by simp)
    refine ⟨fun hother hroom => ?_, fun x rest hqueue hfound v hleft hroom => ?_⟩
    · have hnot : ¬ isHead s.notice (fieldAt 0 2 r.params) = true := by
        rw [isHead_iff]
        rintro ⟨x, rest, hqueue, hfound⟩
        exact hother x (by rw [hqueue]; rfl) (hfound.trans hnum)
      rw [exec_ackNotice h, if_neg hnot]
      exact congrArg _ (respond_handed h hroom rfl rfl rfl)
    · rw [exec_ackNotice h, if_pos (isHead_iff.mpr ⟨x, rest, hqueue, hfound.trans hnum.symm⟩),
        ackHead_left hqueue hleft]
      refine congrArg _ (respond_replied ?_ hroom)
      rw [HeadLeft.mgmt hleft]
      exact withdraw_mgmt.symm ▸ h.1

/-! ### Changes of a line (R141, R151, R153) -/

section Lines

variable {taker : LinkTaker} {up : Bool} {pre post : List (Port × Bool)}

theorem takeLink_raised {up' : Bool} (h : Oldest (fun y => y.1 = p) (linkRaised s.raised taker) pre (p, up') post) :
    takeLink taker p up s
      = if up' = up then some (s.setRaised (setLinkRaised s.raised (pre ++ post) taker)) else none := by
  rw [takeLink, takeFirst_oldest (kind := fun y : Port × Bool => y.1 = p) (fun y => decide_eq_true_iff) h]

theorem takeLink_new (hnone : ∀ y ∈ linkRaised s.raised taker, y.1 ≠ p)
    (h : FirstTakes p up (raiseLink p up s.raised taker) s t) : takeLink taker p up s = some t := by
  obtain ⟨hlive, hline, rfl⟩ := h
  rw [takeLink, takeFirst_none (fun y hy => decide_eq_false (hnone y hy))]
  exact if_pos ⟨decide_eq_true hlive, by rw [hline]; cases up <;> decide⟩

theorem takeLink_still (hnone : ∀ y ∈ linkRaised s.raised taker, y.1 ≠ p)
    (h : s.seqr.part = .reset ∨ (s.port p).line = up) : takeLink taker p up s = none := by
  rw [takeLink, takeFirst_none (fun y hy => decide_eq_false (hnone y hy))]
  refine if_neg ?_
  rintro ⟨hlive, hline⟩
  exact h.elim (by simpa [State.live] using hlive) hline

theorem takeLink_notice (h : NoticeTakes p up s t) : takeLink .notice p up s = some t := by
  obtain ⟨pre, post, hold, rfl⟩ | ⟨hnone, hfirst⟩ := h
  · exact (takeLink_raised (taker := .notice) hold).trans (if_pos rfl)
  · refine takeLink_new (taker := .notice) hnone ?_
    have hraised : raiseLink p up s.raised .notice = { s.raised with
        portLink := s.raised.portLink ++ [(p, up)],
        retDown := s.raised.retDown ++ (if up = true then [] else [p]) } := by
      cases up <;> simp [raiseLink]
    rw [hraised]
    exact hfirst

theorem NoticeTakes.notice (h : NoticeTakes p up s t) : t.notice = s.notice := by
  obtain ⟨pre, post, -, rfl⟩ | ⟨-, -, -, rfl⟩ := h
  · rfl
  · cases p <;> rfl

end Lines

/-! ### The head follows its port and its retry timer (R177, R179) -/

theorem noticeDown_other (h : t.notice.settings.port ≠ p ∨ t.notice.queue = []) :
    noticeDown p t = t.setNotice (setNoticeLink t.notice false p) := by
  refine if_neg ?_
  rintro ⟨hport, hqueue⟩
  exact h.elim (absurd (by cases p <;> exact hport)) (fun hnone => hqueue (by cases p <;> exact hnone))

theorem noticeDown_head (hport : t.notice.settings.port = p) (hqueue : t.notice.queue ≠ []) :
    noticeDown p t = t.setNotice { setNoticeLink t.notice false p with head := .parked, frame := none, retry := none } :=
  if_pos ⟨by cases p <;> exact hport, by cases p <;> exact hqueue⟩

theorem noticeUp_other (h : t.notice.settings.port ≠ p ∨ t.notice.queue = [] ∨ t.notice.head ≠ .parked) :
    noticeUp p t = t.setNotice (setNoticeLink t.notice true p) := by
  refine if_neg ?_
  rintro ⟨hport, hqueue, hhead⟩
  rcases h with h | h | h
  · exact h (by cases p <;> exact hport)
  · exact hqueue (by cases p <;> exact h)
  · exact h (by cases p <;> exact hhead)

theorem noticeUp_parked (hport : t.notice.settings.port = p) (hqueue : t.notice.queue ≠ [])
    (hhead : t.notice.head = .parked) : noticeUp p t = if t.notice.attempts < 4
      then offerHead (t.setNotice (setNoticeLink t.notice true p))
      else dropHead (t.setNotice (setNoticeLink t.notice true p)) := by
  have hsame : (setNoticeLink t.notice true p).attempts = t.notice.attempts := by cases p <;> rfl
  rw [noticeUp, hsame]
  exact if_pos ⟨by cases p <;> exact hport, by cases p <;> exact hqueue, by cases p <;> exact hhead⟩

theorem retryExpired_again (hretry : s.notice.retry ≠ none) (hqueue : s.notice.queue ≠ [])
    (hcount : s.notice.attempts < 4) : retryExpired s = offerHead (s.setNotice { s.notice with retry := none }) := by
  rw [retryExpired, if_neg (not_or.mpr ⟨hretry, hqueue⟩)]
  exact if_pos hcount

theorem retryExpired_drop (hretry : s.notice.retry ≠ none) (hqueue : s.notice.queue ≠ [])
    (hcount : 4 ≤ s.notice.attempts) : retryExpired s = dropHead s := by
  rw [retryExpired, if_neg (not_or.mpr ⟨hretry, hqueue⟩)]
  exact if_neg (Nat.not_lt.mpr hcount)

/-- Settles O44, by the change that the unit takes and the head it has. -/
theorem theHeadFollowsItsPortAndTimer : Obligations.TheHeadFollowsItsPortAndTimer := by
  unfold Obligations.TheHeadFollowsItsPortAndTimer
  intro p s n view dropping
  have hview : ∀ up, view up = setNoticeLink s.notice up p := by
    intro up
    cases p <;> rfl
  have hqueue : ∀ up, (view up).queue = s.notice.queue := by
    intro up
    cases p <;> rfl
  have hdown : ∀ t, takeLink .notice p false s = some t → exec (.noticeLinkDown p) s = .next (noticeDown p t) := by
    intro t ht
    change execNoticeLinkDown p s = _
    rw [execNoticeLinkDown, ht]
  have hup : ∀ t, takeLink .notice p true s = some t → exec (.noticeLinkUp p) s = .next (noticeUp p t) := by
    intro t ht
    change execNoticeLinkUp p s = _
    rw [execNoticeLinkUp, ht]
  have hdownNone : takeLink .notice p false s = none → exec (.noticeLinkDown p) s = .next s := by
    intro h
    change execNoticeLinkDown p s = _
    rw [execNoticeLinkDown, h]
  have hupNone : takeLink .notice p true s = none → exec (.noticeLinkUp p) s = .next s := by
    intro h
    change execNoticeLinkUp p s = _
    rw [execNoticeLinkUp, h]
  refine ⟨fun t htakes => ?_, fun t htakes => ?_, fun hnone => ⟨fun h => hdownNone (takeLink_still hnone h),
    fun h => hupNone (takeLink_still hnone h)⟩, fun hretry => congrArg _ (if_pos (.inl hretry)), fun hretry => ?_⟩
  · have hnotice : t.notice = s.notice := htakes.notice
    rw [hdown t (takeLink_notice htakes), hview]
    refine ⟨fun ⟨pre, post, hold⟩ => hupNone ((takeLink_raised (taker := .notice) hold).trans (if_neg (by decide))),
      fun h => ?_, fun hport hhead => ?_⟩
    · rw [noticeDown_other (by rw [hnotice]; exact h), hnotice]
    · rw [noticeDown_head (by rw [hnotice]; exact hport) (by rw [hnotice]; exact hhead), hnotice]
  · have hnotice : t.notice = s.notice := htakes.notice
    rw [hup t (takeLink_notice htakes)]
    refine ⟨fun ⟨pre, post, hold⟩ => hdownNone ((takeLink_raised (taker := .notice) hold).trans (if_neg (by decide))),
      fun h => ?_, fun hport hhead => ⟨fun v hcount hoffer => ?_, fun y rest v hlist hcount hleft => ?_⟩⟩
    · rw [noticeUp_other (by rw [hnotice]; exact h), hnotice, hview]
    · have hne : t.notice.queue ≠ [] := by
        rw [hnotice, ← hqueue true]
        exact hoffer.queue_ne
      rw [noticeUp_parked (by rw [hnotice]; exact hport) hne (by rw [hnotice]; exact hhead),
        if_pos (by rw [hnotice]; exact hcount), hnotice, ← hview]
      exact congrArg _ (offerHead_offered hoffer)
    · have hne : t.notice.queue ≠ [] := by
        rw [hnotice, hlist]
        exact List.cons_ne_nil _ _
      rw [noticeUp_parked (by rw [hnotice]; exact hport) hne (by rw [hnotice]; exact hhead),
        if_neg (by rw [hnotice]; exact Nat.not_lt.mpr hcount), hnotice, ← hview]
      refine congrArg _ (dropHead_left (n := view true) ((hqueue true).trans hlist) ?_)
      have hsame : (view true).dropped = s.notice.dropped := by cases p <;> rfl
      rw [hsame]
      exact hleft
  · change (∀ v, _ → _ → Host.Outcome.next (retryExpired s) = _) ∧ ∀ y rest v, _ → _ → _ →
      Host.Outcome.next (retryExpired s) = _
    refine ⟨fun v hcount hoffer => ?_, fun y rest v hlist hcount hleft => ?_⟩
    · rw [retryExpired_again hretry hoffer.queue_ne hcount]
      exact congrArg _ (offerHead_offered hoffer)
    · have hne : s.notice.queue ≠ [] := by
        rw [hlist]
        exact List.cons_ne_nil _ _
      rw [retryExpired_drop hretry hne hcount]
      exact congrArg _ (dropHead_left (t := s) (n := s.notice) hlist hleft)

/-! ### Changes of the line at the port (R151, R153) -/

theorem bumpBy_eq (k c : Nat) : bumpBy k c = min counterMax (c + k) := by
  rw [bumpBy]
  split <;> omega

/-- Settles O16, by the change of the line that the port takes. -/
theorem linkChangesAtThePort : Obligations.LinkChangesAtThePort := by
  unfold Obligations.LinkChangesAtThePort
  intro p s sending down up
  have hcut : ∀ x : PortState, sending x ++ x.localQ ++ x.waiting.map Waiter.frame = cutFrames x := by
    rintro ⟨line, rise, receiving, counters, relayQ, localQ, waiting, _ | ⟨bytes, _ | f⟩, fair⟩ <;> rfl
  have hrelayed : ∀ x : PortState, (if x.tx ≠ none ∧ sending x = [] then 1 else 0) + x.relayQ.length = cutRelayed x := by
    rintro ⟨line, rise, receiving, counters, relayQ, localQ, waiting, _ | ⟨bytes, _ | f⟩, fair⟩ <;> simp [sending, cutRelayed]
  have hdown : ∀ u, takeLink .port p false s = some u → exec (.linkDown p) s = .next (down u) := by
    intro u hu
    change execLinkDown p s = _
    rw [execLinkDown, hu]
    simp only [down, hcut, hrelayed, linkDownAt, portDown, cutEndings, bumpBy_eq]
  have hup : ∀ u, takeLink .port p true s = some u → exec (.linkUp p) s = .next (up u) := by
    intro u hu
    change execLinkUp p s = _
    rw [execLinkUp, hu]
    rfl
  have hdownNone : takeLink .port p false s = none → exec (.linkDown p) s = .next s := by
    intro h
    change execLinkDown p s = _
    rw [execLinkDown, h]
  have hupNone : takeLink .port p true s = none → exec (.linkUp p) s = .next s := by
    intro h
    change execLinkUp p s = _
    rw [execLinkUp, h]
  refine ⟨fun pre post hold => ⟨?_, ?_⟩, fun pre post hold => ⟨?_, ?_⟩, fun hnone => ⟨?_, ?_, ?_, ?_⟩⟩
  · exact hdown _ ((takeLink_raised (taker := .port) hold).trans (if_pos rfl))
  · exact hupNone ((takeLink_raised (taker := .port) hold).trans (if_neg (by decide)))
  · exact hup _ ((takeLink_raised (taker := .port) hold).trans (if_pos rfl))
  · exact hdownNone ((takeLink_raised (taker := .port) hold).trans (if_neg (by decide)))
  · exact fun u hfirst => hdown u (takeLink_new (taker := .port) hnone hfirst)
  · exact fun u hfirst => hup u (takeLink_new (taker := .port) hnone hfirst)
  · exact fun h => hdownNone (takeLink_still hnone h)
  · exact fun h => hupNone (takeLink_still hnone h)

/-! ### The loss of a session's link (R140) -/

/-- What a session slot is once its link is lost: ENDING without an end frame while a read is outstanding, else FREE. -/
def lostSlot (x : Session) : Session :=
  if x.state = .free then x
  else if x.reading = true then
    (if sessionOpen x = true then { x with
        state := .ending, buffer := [], idleTimer := false, endReason := none, offered := .none }
      else { x with endReason := none, offered := .none })
  else Session.initial

/-- The directory once a session of the source has ended: its entry has one open session less. -/
def oneSessionLess (source : Nat) (d : Directory) : Directory := { d with
  entries := d.entries.map (fun e => if source ≠ 0 ∧ e.num = source then { e with sessions := e.sessions - 1 } else e) }

theorem dropOpenCount_eq (x : Session) (s : State) : dropOpenCount x s = s.setDir (oneSessionLess x.source s.dir) := by
  by_cases hsource : x.source = 0
  · simp [dropOpenCount, oneSessionLess, hsource, State.setDir]
  · simp [dropOpenCount, oneSessionLess, hsource, changeEntry]

theorem closeSession_eq (i : SessionId) (s : State) : closeSession i s
    = (s.setDir (oneSessionLess (s.session i).source s.dir)).setSession i
        { s.session i with state := .ending, buffer := [], idleTimer := false } := by
  rw [closeSession, dropOpenCount_eq]
  cases i <;> rfl

theorem freeIfDone_reading (i : SessionId) (y : Session) (h : y.reading = true) :
    freeIfDone i (s.setSession i y) = s.setSession i y := by
  refine if_neg ?_
  rintro ⟨-, hreading, -⟩
  exact absurd (h.symm.trans (by cases i <;> exact hreading)) (by decide)

theorem freeIfDone_done (i : SessionId) (y : Session) (hstate : y.state = .ending) (hreading : y.reading = false)
    (hreason : y.endReason = none) (hoffered : y.offered ≠ .endFrame) :
    freeIfDone i (s.setSession i y) = s.setSession i Session.initial := by
  refine (if_pos ⟨by cases i <;> exact hstate, by cases i <;> exact hreading, by cases i <;> exact hreason,
    by cases i <;> exact hoffered⟩).trans ?_
  cases i <;> rfl

theorem ending_of_closed {y : Session} (hopen : ¬ sessionOpen y = true) (hfree : y.state ≠ .free) : y.state = .ending := by
  simpa [sessionOpen, hfree] using hopen

theorem setSession_session (i : SessionId) (s : State) : s.setSession i (s.session i) = s := by
  cases i <;> rfl

/-- A slot that has dropped its end frame is FREE unless a read is outstanding. -/
theorem freeIfDone_ending (i : SessionId) (y : Session) (hstate : y.state = .ending) (hreason : y.endReason = none)
    (hoffered : y.offered ≠ .endFrame) :
    freeIfDone i (s.setSession i y) = s.setSession i (if y.reading = true then y else Session.initial) := by
  by_cases hreading : y.reading = true
  · rw [if_pos hreading, freeIfDone_reading i y hreading]
  · rw [if_neg hreading]
    exact freeIfDone_done i y hstate (eq_false_of_ne_true hreading) hreason hoffered

theorem loseSession_free (i : SessionId) (h : (s.session i).state = .free) : loseSession i s = s := if_pos h

theorem loseSession_open (i : SessionId) (hopen : sessionOpen (s.session i) = true) : loseSession i s
    = (s.setDir (oneSessionLess (s.session i).source s.dir)).setSession i
        (if (s.session i).reading = true then { s.session i with
            state := .ending, buffer := [], idleTimer := false, endReason := none, offered := .none }
          else Session.initial) := by
  have hfree : (s.session i).state ≠ .free := by
    intro h
    simp [sessionOpen, h] at hopen
  unfold loseSession
  simp only [if_neg hfree, if_pos hopen, closeSession_eq]
  refine Eq.trans ?_ (freeIfDone_ending (s := s.setDir (oneSessionLess (s.session i).source s.dir)) i
    { s.session i with state := .ending, buffer := [], idleTimer := false, endReason := none, offered := .none }
    rfl rfl (by simp))
  cases i <;> rfl

theorem loseSession_ending (i : SessionId) (hstate : (s.session i).state = .ending) : loseSession i s
    = s.setSession i (if (s.session i).reading = true then { s.session i with endReason := none, offered := .none }
        else Session.initial) := by
  have hfree : (s.session i).state ≠ .free := by simp [hstate]
  have hopen : ¬ sessionOpen (s.session i) = true := by simp [sessionOpen, hstate]
  unfold loseSession
  simp only [if_neg hfree, if_neg hopen]
  exact freeIfDone_ending i { s.session i with endReason := none, offered := .none } hstate rfl (by simp)

theorem loseSession_eq (i : SessionId) (s : State) : loseSession i s
    = (if sessionOpen (s.session i) = true then s.setDir (oneSessionLess (s.session i).source s.dir) else s).setSession i
        (lostSlot (s.session i)) := by
  by_cases hopen : sessionOpen (s.session i) = true
  · have hfree : (s.session i).state ≠ .free := by
      intro h
      simp [sessionOpen, h] at hopen
    rw [loseSession_open i hopen, if_pos hopen, lostSlot, if_neg hfree, if_pos hopen]
  · rw [if_neg hopen, lostSlot]
    by_cases hfree : (s.session i).state = .free
    · rw [loseSession_free i hfree, if_pos hfree, setSession_session]
    · rw [loseSession_ending i (ending_of_closed hopen hfree), if_neg hfree, if_neg hopen]

theorem lostSlot_free {y : Session} (h : y.state = .free) : lostSlot y = y := if_pos h

theorem lostSlot_done {y : Session} (hfree : y.state ≠ .free) (hreading : y.reading = false) :
    lostSlot y = Session.initial := by
  rw [lostSlot, if_neg hfree, if_neg (ne_true_of_eq_false hreading)]

theorem lostSlot_reading {y : Session} (hfree : y.state ≠ .free) (hreading : y.reading = true) :
    (lostSlot y).state = .ending ∧ (lostSlot y).endReason = none ∧ (lostSlot y).offered = .none
      ∧ (lostSlot y).reading = true := by
  rw [lostSlot, if_neg hfree, if_pos hreading]
  split
  case isTrue => exact ⟨rfl, rfl, rfl, hreading⟩
  case isFalse hopen => exact ⟨ending_of_closed hopen hfree, rfl, rfl, hreading⟩

/-- The directory once the sessions of a port have been lost. -/
def lostDirectory (p : Port) (i : SessionId) (s : State) (d : Directory) : Directory :=
  if (s.session i).port = p ∧ sessionOpen (s.session i) = true then oneSessionLess (s.session i).source d else d

theorem loseOnPort_eq (i : SessionId) (s : State) : loseOnPort p i s
    = (s.setDir (lostDirectory p i s s.dir)).setSession i
        (if (s.session i).port = p then lostSlot (s.session i) else s.session i) := by
  by_cases hport : (s.session i).port = p
  · rw [loseOnPort, if_pos hport, if_pos hport, loseSession_eq, lostDirectory]
    by_cases hopen : sessionOpen (s.session i) = true
    · rw [if_pos hopen, if_pos ⟨hport, hopen⟩]
    · rw [if_neg hopen, if_neg (fun h => hopen h.2)]
      rfl
  · rw [loseOnPort, if_neg hport, if_neg hport, lostDirectory, if_neg (fun h => hport h.1)]
    cases i <;> rfl

/-- The session of the slot is lost with the port, and it is one of the entry of that number. -/
def lostOf (p : Port) (s : State) (num : Nat) (i : SessionId) : Bool :=
  decide ((s.session i).port = p ∧ (s.session i).state ≠ .free ∧ (s.session i).state ≠ .ending
    ∧ (s.session i).source = num ∧ num ≠ 0)

theorem lostDirectory_eq (p : Port) (i : SessionId) (s : State) (d : Directory) :
    lostDirectory p i s d = { d with entries := d.entries.map (fun e => { e with
      sessions := e.sessions - (lostOf p s e.num i).toNat }) } := by
  by_cases h : (s.session i).port = p ∧ sessionOpen (s.session i) = true
  · obtain ⟨hport, hopen⟩ := h
    have hstate : (s.session i).state ≠ .free ∧ (s.session i).state ≠ .ending := by simpa [sessionOpen] using hopen
    rw [lostDirectory, if_pos ⟨hport, hopen⟩, oneSessionLess]
    congr 1
    refine List.map_congr_left (fun e _ => ?_)
    by_cases hsource : (s.session i).source ≠ 0 ∧ e.num = (s.session i).source
    · have hlost : lostOf p s e.num i = true :=
        decide_eq_true ⟨hport, hstate.1, hstate.2, hsource.2.symm, hsource.2 ▸ hsource.1⟩
      rw [if_pos hsource, hlost]
      rfl
    · have hkept : lostOf p s e.num i = false :=
        decide_eq_false (fun ⟨_, _, _, hnum, hzero⟩ => hsource ⟨hnum ▸ hzero, hnum.symm⟩)
      rw [if_neg hsource, hkept]
      rfl
  · have hkept : ∀ num, lostOf p s num i = false := fun num =>
      decide_eq_false (fun ⟨hport, hfree, hending, _, _⟩ => h ⟨hport, by simp [sessionOpen, hfree, hending]⟩)
    rw [lostDirectory, if_neg h]
    simp only [hkept, Bool.toNat_false, Nat.sub_zero, List.map_id']

/-- An entry loses the sessions of both slots. -/
theorem lostDirectory_both (p : Port) (s : State) (d : Directory) :
    lostDirectory p .two s (lostDirectory p .one s d) = { d with entries := d.entries.map (fun e => { e with
      sessions := e.sessions - ([SessionId.one, .two].filter (lostOf p s e.num)).length }) } := by
  have hboth : ∀ num, ([SessionId.one, .two].filter (lostOf p s num)).length
      = (lostOf p s num .one).toNat + (lostOf p s num .two).toNat := by
    intro num
    cases h1 : lostOf p s num .one <;> cases h2 : lostOf p s num .two <;> simp [h1, h2]
  simp only [lostDirectory_eq, List.map_map, hboth, Function.comp_def, Nat.sub_sub]

theorem loseOnPort_session (i j : SessionId) (s : State) : (loseOnPort p i s).session j
    = if j = i ∧ (s.session i).port = p then lostSlot (s.session i) else s.session j := by
  have hslot : ∀ (t : State) (x : Session), (t.setSession i x).session j = if j = i then x else t.session j := by
    intro t x
    cases i <;> cases j <;> rfl
  rw [loseOnPort_eq, hslot]
  by_cases hsame : j = i
  · rw [if_pos hsame, hsame]
    simp only [true_and]
  · rw [if_neg hsame, if_neg (fun h => hsame h.1)]
    cases j <;> rfl

/-- Both slots after the loss of a port's sessions. -/
theorem loseBoth_eq (p : Port) (u : State) : loseOnPort p .two (loseOnPort p .one u) = { u with
    ret := (loseOnPort p .two (loseOnPort p .one u)).ret,
    dir := lostDirectory p .two u (lostDirectory p .one u u.dir) } := by
  have hsame : ∀ d, lostDirectory p .two (loseOnPort p .one u) d = lostDirectory p .two u d := by
    intro d
    have htwo : (loseOnPort p .one u).session .two = u.session .two := by
      rw [loseOnPort_session]
      exact if_neg (by simp)
    rw [lostDirectory, htwo]
    rfl
  rw [loseOnPort_eq .two, hsame, loseOnPort_eq .one]
  rfl

/-- Settles O21: each slot by its port and its read, and the directory by both. -/
theorem linkLossEndsSessionsSilently : Obligations.LinkLossEndsSessionsSilently := by
  unfold Obligations.LinkLossEndsSessionsSilently
  intro p s
  have hraised : ∀ y ∈ linkRaised s.raised .retrieval, y.1 ∈ s.raised.retDown := by
    intro y hy
    obtain ⟨q, hq, rfl⟩ := List.mem_map.mp hy
    exact hq
  refine ⟨fun hnone h => ?_, fun u htakes => ?_⟩
  · change execSessionLinkLost p s = _
    rw [execSessionLinkLost, takeLink_still (taker := .retrieval) (fun y hy => hnone y.1 (hraised y hy)) h]
  · intro lost
    have htake : takeLink .retrieval p false s = some u := by
      obtain ⟨pre, post, ⟨hlist, -, hpre⟩, rfl⟩ | ⟨hnone, hfirst⟩ := htakes
      · have hold : Oldest (fun y : Port × Bool => y.1 = p) (linkRaised s.raised .retrieval)
            (pre.map (fun q => (q, false))) (p, false) (post.map (fun q => (q, false))) :=
          ⟨by simp [linkRaised, hlist], rfl, by simpa using hpre⟩
        refine (takeLink_raised (taker := .retrieval) hold).trans ((if_pos rfl).trans ?_)
        simp [setLinkRaised, Function.comp_def]
      · exact takeLink_new (taker := .retrieval) (fun y hy => hnone y.1 (hraised y hy)) hfirst
    have hsame : u.ret = s.ret ∧ u.dir = s.dir := by
      obtain ⟨pre, post, -, rfl⟩ | ⟨-, -, -, rfl⟩ := htakes
      · exact ⟨rfl, rfl⟩
      · cases p <;> exact ⟨rfl, rfl⟩
    have hsessions : ∀ i, u.session i = s.session i := by
      intro i
      cases i
      · exact congrArg Retrieval.s1 hsame.1
      · exact congrArg Retrieval.s2 hsame.1
    have hslot : ∀ i, (loseOnPort p .two (loseOnPort p .one u)).session i
        = if (s.session i).port = p then lostSlot (s.session i) else s.session i := by
      intro i
      cases i <;> simp [loseOnPort_session, hsessions]
    refine ⟨loseOnPort p .two (loseOnPort p .one u), ?_, fun i h => ?_, fun i hport hfree hreading => ?_,
      fun i hport hfree hreading => ?_, ?_, ?_⟩
    · change execSessionLinkLost p s = _
      rw [execSessionLinkLost, htake]
    · rw [hslot]
      split
      case isTrue hport => exact lostSlot_free (h.resolve_left (fun hne => hne hport))
      case isFalse => rfl
    · rw [hslot, if_pos hport]
      exact lostSlot_done hfree hreading
    · rw [hslot, if_pos hport]
      exact lostSlot_reading hfree hreading
    · have hlost : ∀ num, lost num = ([SessionId.one, .two].filter (lostOf p u num)).length := by
        intro num
        have hsome : lostOf p u num = lostOf p s num := funext (fun i => by simp only [lostOf, hsessions])
        rw [hsome]
        rfl
      rw [loseBoth_eq, lostDirectory_both, hsame.2]
      simp only [hlost]
    · rw [loseBoth_eq]

end Sys2Proof.Machine
end

section
/-! PROOF. The Log Writer's check, retirement and the FAULT that stops capture (04, 05). -/

set_option Elab.async false

namespace Sys2Proof.Machine

variable {s u v : State} {i : BufId} {b c : Nat}

/-! ### The end of a happening -/

/-- With no orderly stop under way, what the Log Writer's check leaves ends the happening. -/
theorem settle_kick (h : logKick s = v) (hstop : NoStop v) : settle s = v := by
  rw [settle, h]
  unfold settleRestart
  unfold NoStop at hstop
  split
  · rfl
  · rename_i x hx
    rw [hx] at hstop
    split <;> first | rfl | (rename_i hstage; simp [hstage] at hstop)

/-! ### The buffer that waits (R68) -/

theorem waitingBuffer_full {more : List BufId} (hnone : bufIn s.packer .writing = none)
    (hfull : s.packer.fullOrder = i :: more) : waitingBuffer s = some i := by
  simp [waitingBuffer, hnone, hfull]

/-- The oldest FULL buffer is taken out of the order. -/
theorem takeBuf_oldest {p : Packer} {more : List BufId} (hfull : p.fullOrder = i :: more) (honce : i ∉ more) :
    takeBuf i p = { setBuf p { getBuf p i with state := .writing } i with fullOrder := more } := by
  have horder : (setBuf p { getBuf p i with state := .writing } i).fullOrder.filter (fun j => decide (j ≠ i)) = more := by
    have hsame : (setBuf p { getBuf p i with state := .writing } i).fullOrder = i :: more := by
      cases i <;> exact hfull
    rw [hsame, List.filter_cons_of_neg (by simp), List.filter_eq_self]
    exact fun j hj => decide_eq_true (fun hji => honce (hji ▸ hj))
  rw [takeBuf, horder]

/-- The program of a page of the Log Area that the Log Writer hands in alone runs. -/
theorem arrayAsk_logProgram {p : Nat} {h : PageHeader} {d : PageData} (hready : s.seqr.part = .ready)
    (hfree : s.arr.running = none) (halone : ArrayAlone s.arr) (hlow : 4 ≤ b) (hhigh : b ≤ 1023) (hp : p ≤ 15)
    (hkind : h.kind = .log) :
    (arrayAsk .logWriter (.program b p h d) s).1 = { s with arr := { s.arr with
      running := some { who := .logWriter, req := .program b p h d, count := 0, reached := 0 } } } := by
  rw [arrayAsk_runs hfree halone (by simp [mayAsk, isLogBlock_iff.mpr ⟨hlow, hhigh⟩, hp, hkind])
    (.inr ⟨by simp [hready], by simp⟩) (by simp)]
  rfl

/-- The header that the Log Writer forms. -/
def formedHeader (pageSeq capturing : Nat) (x : Buffer) : PageHeader :=
  { kind := .log, pageSeq := pageSeq, run := x.run, capturing := capturing,
    firstSeq := (x.recs.head?).elim 0 Record.seq, count := x.recs.length, used := recordsSize x.recs }

theorem logHeader_eq (s : State) (n b : Nat) (x : Buffer) :
    logHeader s n b x = formedHeader n (capturingField s b) x := by
  have hfirst : firstRecord x = (x.recs.head?).elim 0 Record.seq := by
    cases hrecs : x.recs <;> simp [firstRecord, hrecs]
  rw [logHeader, formedHeader, hfirst, usedBytes]

theorem capturingField_eq (s : State) (b : Nat) : capturingField s b
    = if b ∈ (findEntry s.dir s.log.capturingRec).elim [] Entry.blocks then s.log.capturingRec else 0 := by
  rw [capturingField]
  cases findEntry s.dir s.log.capturingRec with
  | none => rfl
  | some e =>
    simp only [List.contains_iff_mem, Option.elim_some]
    rfl

/-- The buffer that waits, WRITING. -/
def bufferTaken (i : BufId) (p : Packer) : Packer := if (getBuf p i).state = .full then takeBuf i p else p

/-- The state in which the Log Writer hands its page in. -/
def pageDrawn (i : BufId) (s : State) : State := { s with
  packer := bufferTaken i s.packer,
  log := { s.log with nextPageSeq := s.log.nextPageSeq + 1, condition := .normal } }

theorem handIn_eq (hseq : s.log.nextPageSeq < 281474976710655) (hfault : inFault s.log = false) :
    handIn i b s = (arrayAsk .logWriter (.program b s.log.nextPage
      (formedHeader s.log.nextPageSeq (capturingField s b) (getBuf s.packer i))
      (.log (getBuf s.packer i).recs)) (pageDrawn i s)).1 := by
  have hcondition : inFault { s.log with nextPageSeq := s.log.nextPageSeq + 1 } = false := hfault
  rw [handIn, drawPageSeq_below hseq, logHeader_eq]
  exact congrArg (fun x => (arrayAsk .logWriter _
    { pageDrawn i s with log := { (pageDrawn i s).log with condition := x } }).1)
    (if_neg (ne_true_of_eq_false hcondition))

/-- A waiting buffer is handed in at the next page of the active block, with the array free. -/
theorem handIn_alone (hready : s.seqr.part = .ready) (hfault : inFault s.log = false) (hfree : s.arr.running = none)
    (halone : ArrayAlone s.arr) (hlow : 4 ≤ b) (hhigh : b ≤ 1023) (hpage : s.log.nextPage ≤ 15)
    (hseq : s.log.nextPageSeq < 281474976710655) :
    handIn i b s = { pageDrawn i s with arr := { s.arr with running := some {
      who := .logWriter,
      req := .program b s.log.nextPage (formedHeader s.log.nextPageSeq (capturingField s b) (getBuf s.packer i))
        (.log (getBuf s.packer i).recs), count := 0, reached := 0 } } } := by
  rw [handIn_eq hseq hfault]
  exact arrayAsk_logProgram (s := pageDrawn i s) hready hfree halone hlow hhigh hpage rfl

theorem handWaiting_active (hactive : s.log.active = some b) (hpage : s.log.nextPage ≤ 15) (hfault : inFault s.log = false) :
    handWaiting i s = handIn i b s := by
  rw [handWaiting, hactive]
  exact if_pos ⟨hpage, hfault⟩

section Check

variable (hready : s.seqr.part = .ready) (hfault : inFault s.log = false) (hprogram : logProgramOut s.arr = false)

include hready hfault hprogram

theorem not_checked : ¬ (s.seqr.part ≠ .ready ∨ inFault s.log = true ∨ logProgramOut s.arr = true) := by
  simp [hready, hfault, hprogram]

variable (hwaits : waitingBuffer s = some i)

include hwaits

theorem logKick_page (hactive : s.log.active = some b) (hpage : s.log.nextPage ≤ 15) : logKick s = handIn i b s := by
  rw [logKick, if_neg (not_checked hready hfault hprogram), hwaits]
  refine (if_pos ⟨?_, hpage⟩).trans (handWaiting_active hactive hpage hfault)
  rw [hactive]
  exact Option.some_ne_none b

variable (hnoPage : s.log.active = none ∨ 15 < s.log.nextPage)

include hnoPage

theorem logKick_noPage : logKick s = match s.log.ahead with
    | .prepared b => handWaiting i (blockChange b s)
    | .underWay _ => noPage s
    | .none => noPage s := by
  rw [logKick, if_neg (not_checked hready hfault hprogram), hwaits]
  refine if_neg ?_
  rintro ⟨hactive, hpage⟩
  exact hnoPage.elim hactive (fun h => absurd hpage (Nat.not_le.mpr h))

end Check

theorem logProgramOut_free (hfree : s.arr.running = none) (halone : ArrayAlone s.arr) : logProgramOut s.arr = false := by
  obtain ⟨-, -, hlog, -⟩ := halone
  simp [logProgramOut, hlog, hfree]

theorem pageDrawn_full {more : List BufId} (hstate : (getBuf s.packer i).state = .full)
    (hfull : s.packer.fullOrder = i :: more) (honce : i ∉ more) : pageDrawn i s = { s with
      packer := { setBuf s.packer { getBuf s.packer i with state := .writing } i with fullOrder := more },
      log := { s.log with nextPageSeq := s.log.nextPageSeq + 1, condition := .normal } } := by
  rw [pageDrawn, bufferTaken, if_pos hstate, takeBuf_oldest hfull honce]

/-- Settles O27: the Log Writer's check with a page free. -/
theorem fullBuffersAreHandedInAtTheNextPage : Obligations.FullBuffersAreHandedInAtTheNextPage := by
  unfold Obligations.FullBuffersAreHandedInAtTheNextPage
  intro i more b s hready hfault hstop hfree halone hwriting hfull honce hstate hactive hlow hhigh hpage hseq buf header
  have hheader : formedHeader s.log.nextPageSeq (capturingField s b) (getBuf s.packer i) = header := by
    rw [capturingField_eq]
    rfl
  refine settle_kick ((logKick_page hready hfault (logProgramOut_free hfree halone) (waitingBuffer_full hwriting hfull)
    hactive hpage).trans ?_) hstop
  rw [handIn_alone hready hfault hfree halone hlow hhigh hpage hseq, pageDrawn_full hstate hfull honce, hheader]

/-! ### A FAULT at the Capture Controller (R80, R88, R101) -/

/-- The state in which a FAULT has closed the open recording without a page (R101). -/
def keptByFault (e : Entry) (s : State) : State :=
  let last := if s.ctl.state = .posting then some (lastAtEnd s e) else e.last
  let reason := if s.ctl.state = .posting then some .fault else e.reason
  { s with
    dir := { s.dir with entries := s.dir.entries.map (fun x => if x = e then { e with
      state := .kept, last := last, reason := reason } else x) },
    log := { s.log with capturingRec := 0 },
    ctl := { s.ctl with postTimer := none, keptAsked := false },
    raised := { s.raised with events := s.raised.events
      ++ [(.controller, .recordingKept e.num reason e.first (last.getD 0) e.blocks.length)] } }

theorem faultClose_eq {e : Entry} (halone : OpenAlone s.dir e) : faultClose s = captureEnded
    (if s.ctl.stopReason = none then offerRunStop .fault (keptByFault e s) else keptByFault e s) := by
  obtain ⟨hopen, honly⟩ := halone
  rw [faultClose, hopen]
  dsimp only
  rw [changeEntry_alone honly, enterStopped_eq]
  exact congrArg (fun x => captureEnded (if s.ctl.stopReason = none then offerRunStop .fault x else x))
    (show _ = keptByFault e s from rfl)

theorem offerRunStop_placed {why : StopReason} {p : Packer} (h : StopPlaced why s p) :
    offerRunStop why s = { s with packer := p, ctl := { s.ctl with stopReason := some why } } := by
  rw [offerRunStop, packRunStop_placed h]
  rfl

theorem captureFault_taken (h : FaultTaken u v) : captureFault u = v := by
  rw [captureFault]
  obtain ⟨hstopped, rfl⟩ | ⟨hrunning, p, hplaced, rfl⟩ | ⟨hstate, e, halone, hend⟩ := h
  · rw [hstopped]
  · rw [hrunning]
    exact stopCapture_running hrunning hplaced
  · have hclose : faultClose u = v := by
      rw [faultClose_eq halone]
      obtain ⟨hreason, rfl⟩ | ⟨hreason, p, hplaced, rfl⟩ := hend
      · rw [if_neg hreason]
        rfl
      · rw [if_pos hreason, offerRunStop_placed (s := keptByFault e u) hplaced]
        rfl
    obtain hposting | hclosing := hstate
    · rw [hposting]
      exact hclose
    · rw [hclosing]
      exact hclose

theorem logFault_taken {cause : FaultCause} (hfault : inFault s.log = false)
    (h : FaultTaken { s with log := { s.log with condition := .fault cause } } v) : logFault cause s
      = { v with raised := { v.raised with events := v.raised.events ++ [(.log, .storeFault cause)] } } := by
  rw [logFault, if_neg (ne_true_of_eq_false hfault)]
  exact congrArg (raiseEvent .log (.storeFault cause)) (captureFault_taken h)

/-! ### Retirement (R77) -/

/-- The state once a retired block has joined the Retired List, its journal job behind another and its notice raised. -/
def retiredListed (b : Nat) (cause : RetireCause) (s : State) : State := { s with
  log := { s.log with retired := s.log.retired ++ [b] },
  jrnl := { s.jrnl with jobs := s.jrnl.jobs ++ [.retiredList false] },
  raised := { s.raised with events := s.raised.events ++ [(.log, .blockRetired b cause (s.log.retired.length + 1))] } }

section Retirement

variable {cause : RetireCause} (husable : s.jrnl.usable = true) (hbusy : s.jrnl.state ≠ .idle)
  (hnone : ∀ j ∈ s.jrnl.jobs.drop 1, ∀ k, j ≠ .retiredList k)

include husable hbusy hnone

theorem askJob_retired : askJob (.retiredList false) s
    = { s with jrnl := { s.jrnl with jobs := s.jrnl.jobs ++ [.retiredList false] } } :=
  askJob_asked ⟨husable, fun _ _ j hj k => hnone j hj k, .inl ⟨hbusy, rfl⟩⟩ (fun _ => Job.noConfusion) Job.noConfusion

theorem addRetired_eq : addRetired b cause s = if 31 ≤ s.log.retired.length
    then logFault .retiredLimit (retiredListed b cause s) else retiredListed b cause s := by
  have hjob := askJob_retired (s := s.setLog { s.log with retired := s.log.retired ++ [b] }) husable hbusy hnone
  have hlength : (s.log.retired ++ [b]).length = s.log.retired.length + 1 := by simp
  have hlimit : Config.retiredMax ≤ s.log.retired.length + 1 ↔ 31 ≤ s.log.retired.length := by
    rw [show Config.retiredMax = 32 from rfl]
    omega
  rw [addRetired]
  dsimp only
  rw [hjob, hlength]
  simp only [hlimit]
  rfl

theorem addRetired_listed (hcount : s.log.retired.length < 31) : addRetired b cause s = retiredListed b cause s := by
  rw [addRetired_eq husable hbusy hnone, if_neg (Nat.not_le.mpr hcount)]

theorem addRetired_limit (hcount : s.log.retired.length = 31) (hfault : inFault s.log = false)
    (h : FaultTaken (let t := retiredListed b cause s
      { t with log := { t.log with condition := .fault .retiredLimit } }) v) : addRetired b cause s
      = { v with raised := { v.raised with events := v.raised.events ++ [(.log, .storeFault .retiredLimit)] } } := by
  rw [addRetired_eq husable hbusy hnone, if_pos (Nat.le_of_eq hcount.symm)]
  exact logFault_taken (s := retiredListed b cause s) hfault h

end Retirement

/-! ### The candidate search (R72, R74) -/

/-- The log once a block has been chosen for erase. -/
def chosenLog (l : LogManager) (c : Nat) : LogManager :=
  { setBlockEntry { l with history := l.history.filter (fun x => decide (x ≠ c)) } c
    { blockEntry l c with state := .erasing, firstSeq := none, firstPage := none } with ahead := .underWay c }

theorem isCandidate_of {l : LogManager} (h : candidate l = some c) : isCandidate l c = true := by
  have hfind : ∀ n b, findCandidate l n b = some c → isCandidate l c = true := by
    intro n
    induction n with
    | zero =>
      intro b hb
      simp [findCandidate] at hb
    | succ n ih =>
      intro b hb
      rw [findCandidate] at hb
      split at hb
      case isTrue hyes => exact Option.some.inj hb ▸ hyes
      case isFalse => exact ih _ hb
  exact hfind _ _ h

theorem isCandidate_iff {l : LogManager} : isCandidate l c = true
    ↔ holdOf l c = 0 ∧ ((blockEntry l c).state = .filled ∨ (blockEntry l c).state = .stale) ∧ l.active ≠ some c := by
  simp [isCandidate, and_assoc]

/-- A block chosen for erase has no hold. -/
theorem holdOf_chosenLog {l : LogManager} (h : candidate l = some c) : holdOf (chosenLog l c) c = 0 := by
  obtain ⟨hhold, -, -⟩ := isCandidate_iff.mp (isCandidate_of h)
  have hentry : blockEntry (chosenLog l c) c
      = { blockEntry l c with state := .erasing, firstSeq := none, firstPage := none } := by
    have hne : ({ blockEntry l c with state := .erasing, firstSeq := none, firstPage := none } : BlockEntry)
        ≠ BlockEntry.initial := fun heq => by
      simpa [BlockEntry.initial] using congrArg BlockEntry.state heq
    rw [blockEntry, chosenLog, setBlockEntry, if_neg hne]
    exact congrArg (fun x => Option.getD x BlockEntry.initial) (lookup_putAt_some _ _ _)
  rw [holdOf, hentry]
  exact hhold

theorem searchErase_none (hfault : inFault s.log = false) (h : candidate s.log = none) :
    searchErase s = { s with log := { s.log with ahead := .none } } := by
  rw [searchErase, if_neg (ne_true_of_eq_false hfault), h]
  rfl

/-- The erase of a block of the Log Area that is handed in alone runs. -/
theorem arrayAsk_eraseAhead (hready : s.seqr.part = .ready) (hfree : s.arr.running = none) (halone : ArrayAlone s.arr)
    (hlow : 4 ≤ c) (hhigh : c ≤ 1023) (hhold : holdOf s.log c = 0) :
    (arrayAsk .eraseAhead (.erase c) s).1 = eraseHanded .eraseAhead c s := by
  rw [arrayAsk_single (who := .eraseAhead) (req := .erase c) hfree halone (isLogBlock_iff.mpr ⟨hlow, hhigh⟩) (.inr ⟨by simp [hready], by simp⟩)
    (fun b hb _ => by cases hb; exact hhold)]
  simp [startRequest, setSlot, eraseHanded, State.setArr, State.setStore, halone.2.2.2.1]

/-- No live session is open. -/
abbrev NoLiveSession (s : State) : Prop := ∀ i, sessionOpen (s.session i) = true → (s.session i).source ≠ 0

theorem overtakeSession_not {first bound : Nat} {j : SessionId}
    (h : ¬ (sessionOpen (s.session j) = true ∧ (s.session j).source = 0 ∧ first ≤ (s.session j).nextSeq
      ∧ (s.session j).nextSeq ≤ bound)) : overtakeSession first bound j s = s := if_neg h

theorem announceChoice_noLive {l : LogManager} (h : NoLiveSession s) : announceChoice l c s = s := by
  have hnot : ∀ first bound j, overtakeSession first bound j s = s := fun first bound j =>
    overtakeSession_not (fun ⟨hopen, hlive, _⟩ => h j hopen hlive)
  rw [announceChoice, announceBlock, hnot, hnot, ite_self]

theorem searchErase_some (hready : s.seqr.part = .ready) (hfault : inFault s.log = false) (hfree : s.arr.running = none)
    (halone : ArrayAlone s.arr) (h : candidate s.log = some c) (hlow : 4 ≤ c) (hhigh : c ≤ 1023)
    (hlive : NoLiveSession s) : searchErase s = eraseHanded .eraseAhead c { s with log := chosenLog s.log c } := by
  let t : State := { s with log := chosenLog s.log c }
  rw [searchErase, if_neg (ne_true_of_eq_false hfault), h]
  exact (congrArg (fun x => (arrayAsk .eraseAhead (.erase c) x).1) (announceChoice_noLive (s := t) hlive)).trans
    (arrayAsk_eraseAhead (s := t) hready hfree halone hlow hhigh (holdOf_chosenLog h))

/-! ### The ends of erases -/

/-- The state in which an operation has ended with nothing else for the array to do. -/
def freed (store : List (Nat × Page)) (s : State) : State :=
  { s with store := store, arr := { s.arr with running := none } }

theorem arrayFree_freed {store : List (Nat × Page)} (halone : ArrayAlone s.arr) :
    arrayFree (s.setStore store) = freed store s := arrayFree_alone (s := s.setStore store) halone

theorem eraseBlock_ok (store : List (Nat × Page)) (b : Nat) (r : EraseEnd) :
    (eraseBlock store b r).2 = decide (r = .erased) := by
  cases r <;> simp [eraseBlock]

theorem exec_eraseBlockEnd {x : Running} (hrun : s.arr.running = some x) (hreq : x.req = .erase b)
    (halone : ArrayAlone s.arr) (r : EraseEnd) : exec (.eraseBlockEnd r) s = .next
      (settle (eraseDone x.who b (decide (r = .erased)) (freed (eraseBlock s.store b r).1 s))) := by
  change execEraseBlockEnd r s = _
  rw [execEraseBlockEnd, hrun]
  dsimp only
  rw [hreq]
  dsimp only
  rw [arrayFree_freed halone, eraseBlock_ok]

theorem exec_eraseBlockEnd_none (h : ∀ x, s.arr.running = some x → ∀ b, x.req ≠ .erase b) (r : EraseEnd) :
    exec (.eraseBlockEnd r) s = .next s := by
  change execEraseBlockEnd r s = _
  rw [execEraseBlockEnd]
  cases hrun : s.arr.running with
  | none => rfl
  | some x =>
    cases hreq : x.req with
    | read b p => simp only [hreq]
    | program b p h d => simp only [hreq]
    | erase b => exact absurd hreq (h x hrun b)

/-- An erased block is blank, and no other page changes. -/
theorem pageAt_erased (hstore : StoreWf s) (b : Nat) : ∀ c p, p ≤ 15 →
    pageAt (eraseBlock s.store b .erased).1 c p = if c = b then none else pageAt s.store c p := by
  intro c p hp
  by_cases hc : c = b
  · have hpage : pageAt (erasePages b 16 s.store) b p = none := pageAt_erasePages hstore (Nat.le_refl 16) (by omega)
    rw [if_pos hc, hc]
    simpa only [eraseBlock] using hpage
  · rw [if_neg hc]
    exact sameOutside_eraseBlock b .erased s.store c p hp hc

theorem pageAt_eraseBlock_other (b : Nat) (r : EraseEnd) : ∀ c p, p ≤ 15 → c ≠ b →
    pageAt (eraseBlock s.store b r).1 c p = pageAt s.store c p :=
  fun c p hp hc => sameOutside_eraseBlock b r s.store c p hp hc

/-! ### Erase-ahead (R73, R76) -/

theorem waitingBuffer_same {t : State} (hpacker : t.packer = s.packer)
    (hprogram : logProgramOut t.arr = logProgramOut s.arr) : waitingBuffer t = waitingBuffer s := by
  rw [waitingBuffer, hpacker, hprogram, waitingBuffer]

theorem logKick_quiet (h : LogQuiet s) : logKick s = s := by
  rw [logKick]
  split
  case isTrue => rfl
  case isFalse hbusy =>
    have hnone : waitingBuffer s = none := by
      rcases h with hpart | hfault | hout | hnone
      · exact absurd (.inl hpart) hbusy
      · exact absurd (.inr (.inl hfault)) hbusy
      · exact absurd (.inr (.inr hout)) hbusy
      · exact hnone
    rw [hnone]

theorem settle_logKick (h : LogQuiet s) (hstop : NoStop s) : settle (logKick s) = s := by
  rw [logKick_quiet h, settle_quiet hstop h]

theorem FaultTaken.log (h : FaultTaken u v) : v.log = { u.log with capturingRec := v.log.capturingRec } := by
  obtain ⟨-, rfl⟩ | ⟨-, p, -, rfl⟩ | ⟨-, e, -, ⟨-, rfl⟩ | ⟨-, p, -, rfl⟩⟩ := h <;> rfl

theorem FaultTaken.mgmt (h : FaultTaken u v) : v.mgmt = u.mgmt := by
  obtain ⟨-, rfl⟩ | ⟨-, p, -, rfl⟩ | ⟨-, e, -, ⟨-, rfl⟩ | ⟨-, p, -, rfl⟩⟩ := h <;> rfl

theorem FaultTaken.inFault {cause : FaultCause} (h : FaultTaken u v) (hfault : u.log.condition = .fault cause) :
    inFault v.log = true := by
  have hcondition : v.log.condition = .fault cause := by
    rw [h.log]
    exact hfault
  rw [Machine.inFault, hcondition]

theorem inFault_same {l m : LogManager} (h : m.condition = l.condition) : Machine.inFault m = Machine.inFault l := by
  rw [Machine.inFault, h, Machine.inFault]

/-- The log once erase-ahead's erase of a block has failed. -/
def eraseAheadLost (b : Nat) (l : LogManager) : LogManager :=
  { setBlockEntry l b { blockEntry l b with state := .retired } with
    ahead := .none, eraseFailures := min counterMax (l.eraseFailures + 1) }

theorem eraseDone_erased (b : Nat) (s : State) : eraseDone .eraseAhead b true s = eraseAheadErased b s := rfl

theorem eraseDone_failed (b : Nat) (s : State) : eraseDone .eraseAhead b false s = eraseAheadFailed b s := rfl

theorem eraseAheadErased_eq (b : Nat) (s : State) : eraseAheadErased b s = logKick { s with
    log := { setBlockEntry s.log b { blockEntry s.log b with state := .erased } with ahead := .prepared b } } := rfl

theorem settle_eraseAheadErased (hwaits : waitingBuffer s = none) (hstop : NoStop s) :
    settle (eraseAheadErased b s) = { s with
      log := { setBlockEntry s.log b { blockEntry s.log b with state := .erased } with ahead := .prepared b } } := by
  let t : State := { s with
    log := { setBlockEntry s.log b { blockEntry s.log b with state := .erased } with ahead := .prepared b } }
  rw [eraseAheadErased_eq]
  exact settle_logKick (s := t) (.inr (.inr (.inr ((waitingBuffer_same (t := t) rfl rfl).trans hwaits)))) hstop

theorem eraseAheadFailed_eq (b : Nat) (s : State) : eraseAheadFailed b s = if inFault s.log = true
    then { s with log := eraseAheadLost b s.log }
    else logKick (searchErase (addRetired b .erase { s with log := eraseAheadLost b s.log })) := by
  rw [eraseAheadFailed, bump_eq]
  rfl

/-- Settles O41: the block prepared, retired in FAULT, retired with another search, or retired as the 32nd. -/
theorem eraseAheadPreparesItsBlock : Obligations.EraseAheadPreparesItsBlock := by
  unfold Obligations.EraseAheadPreparesItsBlock
  intro s
  refine ⟨fun h r => exec_eraseBlockEnd_none h r, fun b x hrun hwho hreq halone hstop hstore => ?_⟩
  intro entry retired
  have hexec := exec_eraseBlockEnd hrun hreq halone
  rw [hwho] at hexec
  have hout : logProgramOut s.arr = false := by
    obtain ⟨-, -, hlog, -⟩ := halone
    simp [logProgramOut, hlog, hrun, hwho]
  have hfreedOut : logProgramOut { s.arr with running := none } = false :=
    logProgramOut_free (s := freed s.store s) rfl halone
  have hfreedWaits : ∀ store, waitingBuffer (freed store s) = waitingBuffer s := fun store =>
    waitingBuffer_same (t := freed store s) rfl (hfreedOut.trans hout.symm)
  have hfailed : ∀ r, r ≠ EraseEnd.erased → exec (.eraseBlockEnd r) s
      = .next (settle (eraseAheadFailed b (freed (eraseBlock s.store b r).1 s))) := by
    intro r hr
    rw [hexec, decide_eq_false hr, eraseDone_failed]
  refine ⟨fun hwaits => ⟨(eraseBlock s.store b .erased).1, ?_, pageAt_erased hstore b⟩,
    fun r hr hfault => ⟨(eraseBlock s.store b r).1, ?_, pageAt_eraseBlock_other b r⟩, fun r hr hfault hwaits husable hbusy hnone => ?_⟩
  · rw [hexec, decide_eq_true rfl, eraseDone_erased]
    generalize (eraseBlock s.store b .erased).1 = store
    exact congrArg _ (settle_eraseAheadErased (s := freed store s) ((hfreedWaits _).trans hwaits) hstop)
  · rw [hfailed r hr]
    generalize (eraseBlock s.store b r).1 = store
    rw [eraseAheadFailed_eq, if_pos (show inFault (freed store s).log = true from hfault)]
    exact congrArg _ (settle_quiet (s := { freed store s with log := eraseAheadLost b s.log })
      hstop (.inr (.inl ((inFault_same rfl).trans hfault))))
  · intro listed asked
    let after (store : List (Nat × Page)) : State := { freed store s with log := eraseAheadLost b s.log }
    have hnot : ∀ store, inFault (after store).log = false := fun _ => (inFault_same rfl).trans hfault
    have hlistedNot : ∀ store, inFault (retiredListed b .erase (after store)).log = false :=
      fun store => (inFault_same rfl).trans (hnot store)
    have hkick : exec (.eraseBlockEnd r) s
        = .next (settle (logKick (searchErase (addRetired b .erase (after (eraseBlock s.store b r).1))))) := by
      rw [hfailed r hr, eraseAheadFailed_eq, if_neg (by exact ne_true_of_eq_false hfault)]
      rfl
    refine ⟨fun hcount hcandidate => ⟨(eraseBlock s.store b r).1, ?_, pageAt_eraseBlock_other b r⟩,
      fun c hcount hcandidate hready hlow hhigh hlive => ⟨(eraseBlock s.store b r).1, ?_, pageAt_eraseBlock_other b r⟩,
      fun hcount => ⟨(eraseBlock s.store b r).1, fun v htaken => ?_, pageAt_eraseBlock_other b r⟩⟩
    · rw [hkick]
      generalize (eraseBlock s.store b r).1 = store
      rw [addRetired_listed (s := after store) husable hbusy hnone hcount,
        searchErase_none (hlistedNot store) hcandidate]
      refine congrArg _ (settle_logKick ?_ hstop)
      exact .inr (.inr (.inr ((hfreedWaits store).trans hwaits)))
    · rw [hkick]
      generalize (eraseBlock s.store b r).1 = store
      rw [addRetired_listed (s := after store) husable hbusy hnone hcount,
        searchErase_some (s := retiredListed b .erase (after store)) hready (hlistedNot store) rfl halone hcandidate
          hlow hhigh hlive]
      refine congrArg _ (settle_logKick ?_ hstop)
      refine .inr (.inr (.inr (Eq.trans (waitingBuffer_same (s := s) ?_ ?_) hwaits)))
      · rfl
      rw [hout]
      obtain ⟨-, -, hlog, -⟩ := halone
      simp [eraseHanded, retiredListed, after, freed, logProgramOut, hlog]
    · rw [hkick]
      revert htaken
      generalize (eraseBlock s.store b r).1 = store
      intro htaken
      have hin : inFault v.log = true := FaultTaken.inFault htaken rfl
      have hmgmt : v.mgmt = s.mgmt := (FaultTaken.mgmt htaken :)
      rw [addRetired_limit (s := after store) husable hbusy hnone hcount (hnot store) htaken, searchErase, if_pos hin]
      exact congrArg _ (settle_logKick (.inr (.inl hin)) (hstop.carry hmgmt))

/-! ### Block changes and the condition of the log (R71, R75, R78, R79) -/

/-- The log once its active block has been left after a failed program. -/
def leftFailing (a : Nat) (l : LogManager) : LogManager :=
  { setBlockEntry l a { blockEntry l a with state := .retired } with active := none, nextPage := 16, failing := false }

/-- The log once a block has become ACTIVE. -/
def begunAt (b : Nat) (l : LogManager) : LogManager :=
  { setBlockEntry l b { blockEntry l b with state := .active } with
    active := some b, nextPage := 0, failing := false, ringPos := b, ahead := .none }

theorem leaveActive_failing {a : Nat} (hactive : s.log.active = some a) (hfailing : s.log.failing = true) :
    leaveActive s = addRetired a .program { s with log := leftFailing a s.log } := by
  rw [leaveActive, hactive]
  exact if_pos hfailing

theorem makeActive_eq (b : Nat) (s : State) : makeActive b s = { s with log := begunAt b s.log } := rfl

theorem offerBlock_none (h : s.log.capturingRec = 0) : offerBlock b s = s := by
  rw [offerBlock]
  cases findEntry s.dir s.log.capturingRec with
  | none => rfl
  | some e => exact if_neg (fun hoffer => hoffer.1 h)

theorem capturingField_none (h : s.log.capturingRec = 0) : capturingField s b = 0 := by
  rw [capturingField_eq, h, ite_self]

theorem noPage_underWay (h : s.log.ahead = .underWay b) :
    noPage s = { s with log := { s.log with condition := .waiting } } := by
  rw [noPage, h]
  rfl

theorem noPage_full (h : s.log.ahead = .none) (hfull : s.log.condition = .full) : noPage s = s := by
  rw [noPage, h]
  exact if_pos hfull

theorem noPage_fills (h : s.log.ahead = .none) (hfull : s.log.condition ≠ .full) : noPage s = { s with
    log := { s.log with condition := .full, resumedPending := true },
    raised := { s.raised with events := s.raised.events ++ [(.log, .logFull
      (s.log.table.filter (fun x => decide (x.2.hold ≠ 0))).length s.log.retired.length)] } } := by
  rw [noPage, h]
  exact if_neg hfull

theorem handWaiting_none (h : s.log.active = none) : handWaiting i s = s := by
  rw [handWaiting, h]

/-- A buffer that was WRITING stays so. -/
theorem pageDrawn_writing (hstate : (getBuf s.packer i).state = .writing) : pageDrawn i s = { s with
    log := { s.log with nextPageSeq := s.log.nextPageSeq + 1, condition := .normal } } := by
  rw [pageDrawn, bufferTaken, if_neg (by simp [hstate])]

section FailingBlock

variable {a : Nat} (hready : s.seqr.part = .ready) (hfault : inFault s.log = false) (hactive : s.log.active = some a)
  (hfailing : s.log.failing = true) (husable : s.jrnl.usable = true) (hbusy : s.jrnl.state ≠ .idle)
  (hnone : ∀ j ∈ s.jrnl.jobs.drop 1, ∀ k, j ≠ .retiredList k)

include hfault hactive hfailing husable hbusy hnone

/-- The change from a failing block that is not the 32nd. -/
theorem blockChange_failing (hcount : s.log.retired.length < 31) (hcapturing : s.log.capturingRec = 0)
    (hcandidate : candidate (begunAt b { leftFailing a s.log with retired := s.log.retired ++ [a] }) = none) :
    blockChange b s = let t := retiredListed a .program { s with log := leftFailing a s.log }
      { t with log := begunAt b t.log } := by
  let left : State := { s with log := leftFailing a s.log }
  have hleave : leaveActive s = retiredListed a .program left := by
    rw [leaveActive_failing hactive hfailing]
    exact addRetired_listed (s := left) husable hbusy hnone hcount
  have hnot : inFault (retiredListed a .program left).log = false := (inFault_same rfl).trans hfault
  rw [blockChange, hleave]
  refine (if_neg (ne_true_of_eq_false hnot)).trans ?_
  rw [makeActive_eq]
  refine (congrArg searchErase (offerBlock_none ?_)).trans ((searchErase_none ?_ hcandidate).trans ?_)
  · exact hcapturing
  · exact (inFault_same rfl).trans hnot
  · rfl

/-- The change from a failing block that is the 32nd ends in FAULT. -/
theorem blockChange_limit (hcount : s.log.retired.length = 31)
    (h : FaultTaken (let t := retiredListed a .program { s with log := leftFailing a s.log }
      { t with log := { t.log with condition := .fault .retiredLimit } }) v) : blockChange b s
      = { v with raised := { v.raised with events := v.raised.events ++ [(.log, .storeFault .retiredLimit)] } } := by
  let left : State := { s with log := leftFailing a s.log }
  have hleave : leaveActive s
      = { v with raised := { v.raised with events := v.raised.events ++ [(.log, .storeFault .retiredLimit)] } } := by
    rw [leaveActive_failing hactive hfailing]
    exact addRetired_limit (s := left) husable hbusy hnone hcount ((inFault_same rfl).trans hfault) h
  rw [blockChange, hleave]
  exact if_pos (FaultTaken.inFault h rfl)

end FailingBlock

/-- Settles O43: the failing block left, the 32nd, the log WAITING, and the log FULL. -/
theorem failingBlocksAreRetiredAndTheLogFills : Obligations.FailingBlocksAreRetiredAndTheLogFills := by
  unfold Obligations.FailingBlocksAreRetiredAndTheLogFills
  intro i s hready hfault hstop hwaits hnoPage
  refine ⟨fun a b hactive hfailing hahead hne hlow hhigh hfree halone husable hbusy hnone hwriting hseq => ?_,
    fun b hahead hprogram => ?_, fun hahead hprogram => ⟨fun hfull => ?_, fun hfull => ?_⟩⟩
  · intro buf left begun header asked
    have hkick : logKick s = handWaiting i (blockChange b s) := by
      rw [logKick_noPage hready hfault (logProgramOut_free hfree halone) hwaits hnoPage, hahead]
    refine ⟨fun hcount hcapturing hcandidate => ?_, fun v hcount htaken => ?_⟩
    · let t : State := { asked with log := begun }
      have hchange : blockChange b s = t :=
        blockChange_failing hfault hactive hfailing husable hbusy hnone hcount hcapturing hcandidate
      have hnot : inFault t.log = false := (inFault_same rfl).trans hfault
      have hpage : t.log.nextPage ≤ 15 := Nat.zero_le 15
      have hhand := handIn_alone (s := t) (i := i) hready hnot hfree halone hlow hhigh hpage hseq
      rw [capturingField_none (s := t) hcapturing, pageDrawn_writing (s := t) hwriting] at hhand
      refine settle_kick (hkick.trans ?_) hstop
      rw [hchange, handWaiting_active (s := t) (b := b) rfl hpage hnot]
      exact hhand
    · have hlog := FaultTaken.log htaken
      have hmgmt : v.mgmt = s.mgmt := (FaultTaken.mgmt htaken :)
      refine settle_kick (hkick.trans ?_) (hstop.carry hmgmt)
      rw [blockChange_limit (b := b) hfault hactive hfailing husable hbusy hnone hcount htaken]
      exact handWaiting_none (congrArg LogManager.active hlog)
  · refine settle_kick ?_ hstop
    rw [logKick_noPage hready hfault hprogram hwaits hnoPage, hahead]
    exact noPage_underWay hahead
  · refine settle_kick ?_ hstop
    rw [logKick_noPage hready hfault hprogram hwaits hnoPage, hahead]
    exact noPage_full hahead hfull
  · refine settle_kick ?_ hstop
    rw [logKick_noPage hready hfault hprogram hwaits hnoPage, hahead]
    exact noPage_fills hahead hfull

end Sys2Proof.Machine
end

section
/-! PROOF. The candidate search and the block change (04), and the session that a choice overtakes (07, R138). -/

set_option Elab.async false

namespace Sys2Proof.Machine

variable {s u v : State} {i : BufId} {b c : Nat}

/-! ### The candidate search (R67, R72) -/

/-- The block `k` places behind the ring position, in ring order. -/
def blockBehind (l : LogManager) (k : Nat) : Nat := 4 + (l.ringPos - 4 + k) % 1020

theorem ringNext_blockBehind (l : LogManager) (k : Nat) : ringNext (blockBehind l k) = blockBehind l (k + 1) := by
  rw [ringNext, show Config.lastLogBlock = 1023 from rfl, show Config.firstLogBlock = 4 from rfl, blockBehind,
    blockBehind]
  by_cases hlast : 4 + (l.ringPos - 4 + k) % 1020 < 1023
  · rw [if_pos hlast]
    omega
  · rw [if_neg hlast]
    omega

theorem blockBehind_zero {l : LogManager} (hlow : 4 ≤ l.ringPos) (hhigh : l.ringPos ≤ 1023) :
    blockBehind l 0 = l.ringPos := by
  simp only [blockBehind]
  omega

/-- The search finds the first candidate of the blocks that it passes. -/
theorem findCandidate_first {l : LogManager} {n k m : Nat} (hk : k ≤ m) (hm : m < k + n)
    (hfits : isCandidate l (blockBehind l m) = true)
    (hfirst : ∀ j, k ≤ j → j < m → isCandidate l (blockBehind l j) = false) :
    findCandidate l n (blockBehind l k) = some (blockBehind l m) := by
  induction n generalizing k with
  | zero => omega
  | succ n ih =>
    rw [findCandidate]
    by_cases hhere : k = m
    · rw [hhere, if_pos hfits]
    · rw [if_neg (ne_true_of_eq_false (hfirst k (Nat.le_refl k) (by omega))), ringNext_blockBehind]
      exact ih (by omega) (by omega) (fun j hj => hfirst j (by omega))

theorem findCandidate_none {l : LogManager} {n k : Nat}
    (h : ∀ j, k ≤ j → j < k + n → isCandidate l (blockBehind l j) = false) :
    findCandidate l n (blockBehind l k) = none := by
  induction n generalizing k with
  | zero => rfl
  | succ n ih =>
    rw [findCandidate, if_neg (ne_true_of_eq_false (h k (Nat.le_refl k) (by omega))), ringNext_blockBehind]
    exact ih (fun j hj hlt => h j (by omega) (by omega))

theorem candidate_eq {l : LogManager} (hlow : 4 ≤ l.ringPos) (hhigh : l.ringPos ≤ 1023) :
    candidate l = findCandidate l 1019 (blockBehind l 1) := by
  rw [candidate, ← ringNext_blockBehind, blockBehind_zero hlow hhigh]
  rfl

theorem candidate_range {l : LogManager} (hlow : 4 ≤ l.ringPos) (hhigh : l.ringPos ≤ 1023) (h : candidate l = some c) :
    4 ≤ c ∧ c ≤ 1023 := by
  have hfind : ∀ n k, findCandidate l n (blockBehind l k) = some c → ∃ m, blockBehind l m = c := by
    intro n
    induction n with
    | zero =>
      intro k hk
      simp [findCandidate] at hk
    | succ n ih =>
      intro k hk
      rw [findCandidate] at hk
      split at hk
      case isTrue => exact ⟨k, Option.some.inj hk⟩
      case isFalse => exact ih (k + 1) (ringNext_blockBehind l k ▸ hk)
  obtain ⟨m, rfl⟩ := hfind 1019 1 (candidate_eq hlow hhigh ▸ h)
  simp only [blockBehind]
  omega

/-! ### Entries found by their number -/

theorem findEntry_map {d : Directory} {f : Entry → Entry} (hnum : ∀ e, (f e).num = e.num) (n : Nat) :
    findEntry { d with entries := d.entries.map f } n = (findEntry d n).map f := by
  simp only [findEntry, List.find?_map, Function.comp_def, hnum]

theorem openEntry_map {d : Directory} {f : Entry → Entry} (hstate : ∀ e, (f e).state = e.state) :
    openEntry { d with entries := d.entries.map f } = (openEntry d).map f := by
  simp only [openEntry, List.find?_map, Function.comp_def, hstate]

/-! ### Block changes of a healthy block (R64, R71, R97) -/

/-- The log once its active block, if there is one, has joined the History List. -/
def leftHealthy (l : LogManager) : LogManager :=
  match l.active with
  | none => l
  | some a => { setBlockEntry l a { blockEntry l a with state := .filled } with history := l.history ++ [a] }

theorem blockChange_healthy (hfault : inFault s.log = false) (hhealthy : s.log.active = none ∨ s.log.failing = false) :
    blockChange b s = searchErase (offerBlock b { s with log := begunAt b (leftHealthy s.log) }) := by
  have hleave : inFault (leaveActive s).log = false
      ∧ makeActive b (leaveActive s) = { s with log := begunAt b (leftHealthy s.log) } := by
    cases hactive : s.log.active with
    | none =>
      have hsame : leaveActive s = s := by rw [leaveActive, hactive]
      have hleft : leftHealthy s.log = s.log := by rw [leftHealthy, hactive]
      rw [hsame, hleft]
      exact ⟨hfault, rfl⟩
    | some a =>
      have hfailing : ¬ s.log.failing = true :=
        ne_true_of_eq_false (hhealthy.resolve_left (by rw [hactive]; exact Option.some_ne_none a))
      have hleft : leftHealthy s.log = { setBlockEntry s.log a { blockEntry s.log a with state := .filled } with
          history := s.log.history ++ [a] } := by rw [leftHealthy, hactive]
      rw [leaveActive, hactive, hleft]
      simp only [if_neg hfailing]
      exact ⟨(inFault_same rfl).trans hfault, rfl⟩
  rw [blockChange]
  refine (if_neg (ne_true_of_eq_false hleave.1)).trans ?_
  rw [hleave.2]

section Offered

variable {e : Entry}

theorem offerBlock_refused (hfind : findEntry s.dir s.log.capturingRec = some e) (hclosing : e.state = .closing)
    (h : s.ctl.keptAsked = true ∨ e.last.getD 0 ≤ s.log.lastCommitted ∨ 80 ≤ e.blocks.length) :
    offerBlock b s = s := by
  rw [offerBlock, hfind]
  refine if_neg (fun hoffer => ?_)
  have haccepts := hoffer.2
  simp only [acceptsBlock, hclosing, Bool.and_eq_true, Bool.or_eq_true, decide_eq_true_eq, reduceCtorEq, false_or,
    Bool.not_eq_true', show Config.listMax = 80 from rfl] at haccepts
  obtain ⟨⟨⟨⟨-, hasked⟩, hbelow⟩, hlength⟩, -⟩ := haccepts
  rcases h with h | h | h
  · exact absurd (h.symm.trans hasked) (by decide)
  · exact absurd hbelow (Nat.not_lt.mpr h)
  · exact absurd hlength (Nat.not_lt.mpr h)

/-- The state in which a block has joined the capturing recording's list and gained a hold. -/
def blockEntered (e : Entry) (b : Nat) (s : State) : State := { s with
  log := raiseHold s.log b,
  dir := { s.dir with entries := s.dir.entries.map (fun x =>
    if x.num = e.num then { x with blocks := x.blocks ++ [b] } else x) } }

theorem acceptsBlock_of (hnew : b ∉ e.blocks) (h : (e.state = .capturing ∧ e.blocks.length < 80)
    ∨ e.state = .closing ∧ s.ctl.keptAsked = false ∧ s.log.lastCommitted < e.last.getD 0 ∧ e.blocks.length < 80) :
    acceptsBlock s e b = true := by
  rcases h with ⟨hstate, hlength⟩ | ⟨hstate, hasked, hbelow, hlength⟩ <;>
    simp [acceptsBlock, show Config.listMax = 80 from rfl, *]

theorem offerBlock_entered (hrec : s.log.capturingRec ≠ 0) (hfind : findEntry s.dir s.log.capturingRec = some e)
    (haccepts : acceptsBlock s e b = true) : offerBlock b s
      = if e.state = .capturing ∧ e.blocks.length = 78 then endPosting .length (blockEntered e b s)
        else blockEntered e b s := by
  have hlimit : e.blocks.length + 1 = Config.listMax - 1 ↔ e.blocks.length = 78 := by
    rw [show Config.listMax = 80 from rfl]
    omega
  rw [offerBlock, hfind]
  refine (if_pos ⟨hrec, haccepts⟩).trans ?_
  simp only [hlimit]
  rfl

/-- The open recording stays the only one of its number with a block more. -/
theorem OpenAlone.entered (h : OpenAlone s.dir e) : OpenAlone (blockEntered e b s).dir { e with blocks := e.blocks ++ [b] } := by
  obtain ⟨hopen, honly⟩ := h
  have hlisted : ∀ x ∈ s.dir.entries, x.num = e.num → ({ x with blocks := x.blocks ++ [b] } : Entry)
      = { e with blocks := e.blocks ++ [b] } := fun x hx hnum => by rw [honly x hx hnum]
  refine ⟨?_, fun x hx hnum => ?_⟩
  · have hstate : ∀ x : Entry,
        (if x.num = e.num then ({ x with blocks := x.blocks ++ [b] } : Entry) else x).state = x.state := by
      intro x
      split <;> rfl
    refine (openEntry_map (d := s.dir) hstate).trans ?_
    rw [hopen, Option.map_some, if_pos rfl]
  · obtain ⟨y, hy, rfl⟩ := List.mem_map.mp hx
    by_cases hynum : y.num = e.num
    · rw [if_pos hynum]
      exact hlisted y hy hynum
    · rw [if_neg hynum] at hnum
      exact absurd hnum hynum

end Offered

/-- What a block change to `b` leaves as it was, and where the log then stands. -/
structure Changed (b : Nat) (s u : State) : Prop where
  seqr : u.seqr = s.seqr
  arr : u.arr = s.arr
  packer : u.packer = s.packer
  store : u.store = s.store
  ret : u.ret = s.ret
  mgmt : u.mgmt = s.mgmt
  fault : inFault u.log = inFault s.log
  active : u.log.active = some b
  page : u.log.nextPage = 0
  pageSeq : u.log.nextPageSeq = s.log.nextPageSeq
  ahead : u.log.ahead = .none
  ringPos : u.log.ringPos = b

theorem Changed.begun (b : Nat) (s : State) : Changed b s { s with log := begunAt b (leftHealthy s.log) } := by
  have hleft : (leftHealthy s.log).condition = s.log.condition
      ∧ (leftHealthy s.log).nextPageSeq = s.log.nextPageSeq := by
    rw [leftHealthy]
    cases s.log.active <;> exact ⟨rfl, rfl⟩
  exact { seqr := rfl, arr := rfl, packer := rfl, store := rfl, ret := rfl, mgmt := rfl, active := rfl, page := rfl,
          ahead := rfl, ringPos := rfl, fault := inFault_same hleft.1, pageSeq := hleft.2 }

theorem Changed.entered {e : Entry} (h : Changed b s u) : Changed b s (blockEntered e b u) where
  seqr := h.seqr
  arr := h.arr
  packer := h.packer
  store := h.store
  ret := h.ret
  mgmt := h.mgmt
  fault := (inFault_same rfl).trans h.fault
  active := h.active
  page := h.page
  pageSeq := h.pageSeq
  ahead := h.ahead
  ringPos := h.ringPos

/-- A look that hands nothing to the free array asks at most for a job behind another. -/
theorem KeptLooked.array_same (h : KeptLooked u v) (hsame : v.arr = u.arr) (hfree : u.arr.running = none) :
    v = { u with jrnl := v.jrnl, ctl := v.ctl } := by
  obtain ⟨-, rfl⟩ | ⟨e, last, -, -, -, -, -, -, -, -, -, ⟨-, rfl⟩ | ⟨-, -, -, -, -, j, rest, -, -, -, hserved⟩⟩ := h
  · rfl
  · rfl
  · have hrunning : v.arr.running = none := by rw [hsame, hfree]
    obtain ⟨d, r, -, -, -, -, rfl⟩ | ⟨-, rfl⟩ := hserved
    · exact absurd hrunning (Option.some_ne_none _)
    · exact absurd hrunning (Option.some_ne_none _)

theorem Changed.ended {e : Entry} {why : CloseReason} {last : Nat} (h : Changed b s u)
    (hended : PostingEnded why e last u v) (hsame : v.arr = s.arr) (hfree : s.arr.running = none) :
    Changed b s v ∧ v.dir = (postingClosed why e last u).dir ∧ v.log = u.log := by
  have hframe : v = { postingClosed why e last u with jrnl := v.jrnl, ctl := v.ctl } :=
    KeptLooked.array_same (u := postingClosed why e last u) hended (hsame.trans h.arr.symm) (by exact h.arr ▸ hfree)
  rw [hframe]
  exact ⟨{ h with }, rfl, rfl⟩

section Field

variable {e : Entry} (hfind : findEntry s.dir s.log.capturingRec = some e)

include hfind

theorem findEntry_entered : findEntry (blockEntered e b s).dir s.log.capturingRec
    = some { e with blocks := e.blocks ++ [b] } := by
  refine (findEntry_map (d := s.dir) (fun x => ?_) _).trans ?_
  · split <;> rfl
  · rw [hfind, Option.map_some, if_pos rfl]

theorem capturingField_entered : capturingField (blockEntered e b s) b = s.log.capturingRec := by
  rw [capturingField_eq]
  change (if b ∈ (findEntry (blockEntered e b s).dir s.log.capturingRec).elim [] Entry.blocks then _ else _) = _
  rw [findEntry_entered hfind]
  exact if_pos (List.mem_append_right _ (List.mem_singleton_self b))

theorem capturingField_closed {why : CloseReason} {last : Nat}
    (hdir : v.dir = (postingClosed why { e with blocks := e.blocks ++ [b] } last (blockEntered e b s)).dir)
    (hrec : v.log.capturingRec = s.log.capturingRec) : capturingField v b = s.log.capturingRec := by
  have hfound : findEntry v.dir s.log.capturingRec = some { e with
      blocks := e.blocks ++ [b], state := .closing, last := some last, reason := some why } := by
    rw [hdir]
    refine (findEntry_map (d := (blockEntered e b s).dir) (fun x => ?_) _).trans ?_
    · split
      case isTrue hx => rw [hx]
      case isFalse => rfl
    · rw [findEntry_entered hfind, Option.map_some, if_pos rfl]
  rw [capturingField_eq, hrec, hfound]
  exact if_pos (List.mem_append_right _ (List.mem_singleton_self b))

theorem capturingField_outside (hnew : b ∉ e.blocks) : capturingField s b = 0 := by
  rw [capturingField_eq, hfind]
  exact if_neg hnew

end Field

/-! ### The hand-in behind a block change -/

/-- The program of a buffer in page 0 of a block. -/
def firstProgram (b pageSeq capturing : Nat) (x : Buffer) : Running :=
  { who := .logWriter, req := .program b 0 (formedHeader pageSeq capturing x) (.log x.recs), count := 0, reached := 0 }

/-- A program that is handed in while another block's erase runs suspends it (R56). -/
theorem arrayAsk_suspending {p : Nat} {h : PageHeader} {d : PageData} (hready : s.seqr.part = .ready)
    (hrun : s.arr.running = some { who := .eraseAhead, req := .erase c, count := 0, reached := 1 })
    (halone : ArrayAlone s.arr) (hne : c ≠ b) (hlow : 4 ≤ b) (hhigh : b ≤ 1023) (hp : p ≤ 15) (hkind : h.kind = .log) :
    (arrayAsk .logWriter (.program b p h d) s).1 = { s with arr := { s.arr with
      suspended := some { who := .eraseAhead, block := c, count := 1, reached := 1 },
      running := some { who := .logWriter, req := .program b p h d, count := 0, reached := 0 } } } := by
  obtain ⟨hsuspended, hjournal, hlog, hahead, hone, htwo, hsequencer⟩ := halone
  let a : ArrayCtl := suspendRunning (setSlot s.arr (some (.program b p h d)) .logWriter)
    { who := .eraseAhead, req := .erase c, count := 0, reached := 1 }
  have hsuspends : suspends s.arr { who := .eraseAhead, req := .erase c, count := 0, reached := 1 } (.program b p h d) = true := by
    simp [suspends, programHeld, runningErase, suspendedErase, isEraseOf, hrun, hsuspended, hjournal, hahead, hsequencer,
      hne, hne.symm, show Config.suspendMax = 8 from rfl]
  have hmay : mayAsk .logWriter (.program b p h d) = true := by
    simp [mayAsk, isLogBlock_iff.mpr ⟨hlow, hhigh⟩, hp, hkind]
  have hchoice : nextChoice false a = .start .logWriter (.program b p h d) := by
    refine nextChoice_logWriter ?_ ?_
    · simp [a, suspendRunning, setSlot, hjournal, waitingProgram]
    · simp [a, suspendRunning, setSlot, waitingProgram, programHeld, runningErase, suspendedErase, isEraseOf, blockOf,
        hjournal, hahead, hsequencer, hne]
  have hchosen := arrayChoose_ready (s := s.setArr a) hready hchoice (fun _ hb => ArrayReq.noConfusion hb)
  have hask : (arrayAsk .logWriter (.program b p h d) s).1 = arrayChoose (s.setArr a) := by
    rw [arrayAsk, if_neg (by simp [hmay]), if_neg (by simp [readsErasing])]
    simp only [hrun]
    rw [if_pos ⟨hsuspends, hready⟩]
  rw [hask, hchosen]
  simp [a, startRequest, suspendRunning, setSlot, blockOf, State.setArr, State.setStore, hlog]

theorem handIn_free (hready : s.seqr.part = .ready) (hfree : s.arr.running = none) (halone : ArrayAlone s.arr)
    (hlow : 4 ≤ b) (hhigh : b ≤ 1023) (hseq : s.log.nextPageSeq < 281474976710655) (hfault : inFault s.log = false)
    {capturing : Nat} (hchanged : Changed b s u) (hfield : capturingField u b = capturing)
    (hcandidate : candidate u.log = none) : handWaiting i (searchErase u) = { u with
      packer := bufferTaken i s.packer,
      log := { u.log with nextPageSeq := s.log.nextPageSeq + 1, condition := .normal },
      arr := { s.arr with running := some (firstProgram b s.log.nextPageSeq capturing (getBuf s.packer i)) } } := by
  have hnot : inFault u.log = false := hchanged.fault.trans hfault
  have hsame : searchErase u = u := by
    rw [searchErase_none hnot hcandidate, ← hchanged.ahead]
  have hpage : u.log.nextPage ≤ 15 := hchanged.page ▸ Nat.zero_le 15
  rw [hsame, handWaiting_active hchanged.active hpage hnot,
    handIn_alone (hchanged.seqr ▸ hready) hnot (hchanged.arr ▸ hfree) (hchanged.arr ▸ halone) hlow hhigh hpage
      (hchanged.pageSeq ▸ hseq), pageDrawn, hchanged.page, hchanged.pageSeq, hchanged.packer, hchanged.arr, hfield]
  rfl

theorem handIn_suspending (hready : s.seqr.part = .ready) (hfree : s.arr.running = none) (halone : ArrayAlone s.arr)
    (hlow : 4 ≤ b) (hhigh : b ≤ 1023) (hseq : s.log.nextPageSeq < 281474976710655) (hfault : inFault s.log = false)
    {capturing : Nat} (hchanged : Changed b s u) (hfield : capturingField u b = capturing) (hlive : NoLiveSession s)
    (hcandidate : candidate u.log = some c) :
    handWaiting i (searchErase u) = { u with
      packer := bufferTaken i s.packer,
      store := cancelMark s.store c 0,
      log := { chosenLog u.log c with nextPageSeq := s.log.nextPageSeq + 1, condition := .normal },
      arr := { s.arr with
        suspended := some { who := .eraseAhead, block := c, count := 1, reached := 1 },
        running := some (firstProgram b s.log.nextPageSeq capturing (getBuf s.packer i)) } } := by
  have hnot : inFault u.log = false := hchanged.fault.trans hfault
  have hsession : ∀ j, u.session j = s.session j := fun j => by
    cases j
    · exact congrArg Retrieval.s1 hchanged.ret
    · exact congrArg Retrieval.s2 hchanged.ret
  have hne : c ≠ b := by
    obtain ⟨-, -, hactive⟩ := isCandidate_iff.mp (isCandidate_of hcandidate)
    exact fun hcb => hactive (hcb ▸ hchanged.active)
  obtain ⟨hclow, hchigh⟩ := candidate_range (hchanged.ringPos.symm ▸ hlow) (hchanged.ringPos.symm ▸ hhigh) hcandidate
  let t : State := eraseHanded .eraseAhead c { u with log := chosenLog u.log c }
  have hsearch : searchErase u = t := searchErase_some (hchanged.seqr ▸ hready) hnot (hchanged.arr ▸ hfree)
    (hchanged.arr ▸ halone) hcandidate hclow hchigh (fun j => by rw [hsession]; exact hlive j)
  have hnotT : inFault t.log = false := (inFault_same rfl).trans hnot
  have hpage : t.log.nextPage ≤ 15 := hchanged.page ▸ Nat.zero_le 15
  have haloneU : ArrayAlone u.arr := hchanged.arr ▸ halone
  have hseqT : t.log.nextPageSeq < 281474976710655 := hchanged.pageSeq ▸ hseq
  have hask := arrayAsk_suspending (s := pageDrawn i t) (b := b) (c := c) (p := 0)
    (h := formedHeader s.log.nextPageSeq capturing (getBuf s.packer i)) (d := .log (getBuf s.packer i).recs)
    (hchanged.seqr ▸ hready) rfl haloneU hne hlow hhigh (Nat.zero_le 15) rfl
  have hfieldT : capturingField t b = capturing := hfield
  have hpageT : t.log.nextPage = 0 := hchanged.page
  have hpageSeqT : t.log.nextPageSeq = s.log.nextPageSeq := hchanged.pageSeq
  have hpackerT : t.packer = s.packer := hchanged.packer
  rw [hsearch, handWaiting_active (s := t) hchanged.active hpage hnotT, handIn_eq hseqT hnotT, hfieldT, hpageT, hpageSeqT,
    hpackerT, hask, ← hchanged.store, ← hchanged.arr, ← hchanged.pageSeq, ← hchanged.packer]
  rfl

theorem bufferTaken_full {p : Packer} {more : List BufId} (hstate : (getBuf p i).state = .full)
    (hfull : p.fullOrder = i :: more) (honce : i ∉ more) :
    bufferTaken i p = { setBuf p { getBuf p i with state := .writing } i with fullOrder := more } := by
  rw [bufferTaken, if_pos hstate, takeBuf_oldest hfull honce]

/-! ### A session with nothing outstanding ends (R126, R133, R137) -/

section Ending

variable {j : SessionId} {why : EndReason}

theorem withdrawData_none (h : (s.session j).offered = .none) : withdrawData j s = s := by
  rw [withdrawData, h]

theorem session_setSession (j : SessionId) (s : State) (x : Session) : (s.setSession j x).session j = x := by
  cases j <;> rfl

theorem setSession_setSession (j : SessionId) (s : State) (x y : Session) :
    (s.setSession j x).setSession j y = s.setSession j y := by
  cases j <;> rfl

theorem isWaiting_setSession (p : Port) (who : Producer) (j : SessionId) (s : State) (x : Session) :
    isWaiting p who (s.setSession j x) = isWaiting p who s := by
  cases j <;> rfl

theorem enqueued_setSession (p : Port) (who : Producer) (bytes : Bytes) (j : SessionId) (s : State) (x : Session) :
    enqueued p who bytes (s.setSession j x) = (enqueued p who bytes s).setSession j x := by
  cases j <;> cases p <;> rfl

theorem sessionChange_eq (j : SessionId) (f : Session → Session) (s : State) :
    sessionChange j f s = s.setSession j (f (s.session j)) := rfl

/-- A slot, at its end as `x`, whose end frame can enter the local queue at once. -/
theorem placeEnd_entered {x : Session} (hreason : x.endReason = some why) (hstate : x.state = .ending)
    (hseen : x.replySeen = true) (hwaits : isWaiting x.port (.session j) s = false) (hroom : LocalRoom x.port s)
    (hreading : x.reading = false) (hoffered : x.offered = .none) : placeEnd j (s.setSession j x)
      = (enqueued x.port (.session j) (endFrame s.seqr.own j x why) s).setSession j Session.initial := by
  have hoffer : offerLocal x.port (.session j) (endFrame s.seqr.own j x why) (s.setSession j x)
      = ((enqueued x.port (.session j) (endFrame s.seqr.own j x why) s).setSession j x, .entered, s.serial) := by
    rw [offerLocal_entered (by cases j <;> exact hroom), enqueued_setSession]
    cases j <;> rfl
  have hown : (s.setSession j x).seqr.own = s.seqr.own := by cases j <;> rfl
  rw [placeEnd, session_setSession, hreason]
  refine (if_pos ⟨hstate, hseen, (isWaiting_setSession ..).trans hwaits⟩).trans ?_
  rw [hown, hoffer]
  dsimp only
  rw [sessionChange_eq, session_setSession, setSession_setSession]
  exact freeIfDone_done j { x with endReason := none } hstate hreading rfl (by rw [hoffered]; exact Offered.noConfusion)

theorem endSession_clear (hopen : sessionOpen (s.session j) = true) (hclear : SessionClear j s)
    (hroom : LocalRoom (s.session j).port s) : endSession j why s = sessionEnded j (s.session j) why s := by
  obtain ⟨hoffered, hreading, hseen, hwaits⟩ := hclear
  let y := s.session j
  let d := s.setDir (oneSessionLess y.source s.dir)
  have hbefore : sessionChange j (fun z => { z with endReason := some why }) (withdrawData j (closeSession j s))
      = d.setSession j { y with state := .ending, buffer := [], idleTimer := false, endReason := some why } := by
    rw [closeSession_eq, withdrawData_none (by rw [session_setSession]; exact hoffered), sessionChange_eq,
      session_setSession, setSession_setSession]
  rw [endSession, if_pos hopen, hbefore]
  refine (placeEnd_entered (s := d)
    (x := { y with state := .ending, buffer := [], idleTimer := false, endReason := some why }) rfl rfl hseen hwaits hroom hreading hoffered).trans ?_
  rw [sessionEnded]
  have hdir : (enqueued y.port (.session j) (endFrame d.seqr.own j y why) d)
      = (enqueued y.port (.session j) (endFrame s.seqr.own j y why) s).setDir (oneSessionLess y.source s.dir) := by
    cases y.port <;> rfl
  exact congrArg (fun z => z.setSession j Session.initial) hdir

end Ending

/-- The block chosen is announced to the session that reads there, which is OVERTAKEN (R138). -/
theorem announceBlock_reached {first bound : Nat} (j : SessionId)
    (hreached : sessionOpen (s.session j) = true ∧ (s.session j).source = 0 ∧ first ≤ (s.session j).nextSeq
      ∧ (s.session j).nextSeq ≤ bound)
    (hother : ¬ (sessionOpen (s.session (otherSession j)) = true ∧ (s.session (otherSession j)).source = 0
      ∧ first ≤ (s.session (otherSession j)).nextSeq ∧ (s.session (otherSession j)).nextSeq ≤ bound))
    (hclear : SessionClear j s) (hroom : LocalRoom (s.session j).port s) :
    announceBlock first bound s = sessionEnded j (s.session j) .overtaken s := by
  have hends : overtakeSession first bound j s = sessionEnded j (s.session j) .overtaken s :=
    (if_pos hreached).trans (endSession_clear hreached.1 hclear hroom)
  cases j with
  | one =>
    have hsame : (sessionEnded .one (s.session .one) .overtaken s).session .two = s.session .two := by
      rw [sessionEnded]
      cases (s.session .one).port <;> rfl
    rw [announceBlock, hends, overtakeSession, hsame]
    exact if_neg hother
  | two =>
    have hstays : overtakeSession first bound .one s = s := if_neg hother
    rw [announceBlock, hstays, hends]

/-- Settles O42: the search, the block change of a healthy block, and the choice that overtakes a session. -/
theorem blockChangesTakeThePreparedBlock : Obligations.BlockChangesTakeThePreparedBlock := by
  unfold Obligations.BlockChangesTakeThePreparedBlock
  intro chosen
  refine ⟨fun l hlow hhigh => ?_, fun i more b s hready hfault hstop hfree halone hwriting hfull honce hstate hahead hlow
    hhigh hleave hseq => ?_, fun j c s hready hfault hfree halone hcandidate hlow hhigh hfilled => ?_⟩
  · intro after fits
    have hiff : ∀ k, isCandidate l (blockBehind l k) = true ↔ fits (after k) := fun k => isCandidate_iff
    refine ⟨fun k hk hlast hfits hfirst => ?_, fun hnone => ?_⟩
    · rw [candidate_eq hlow hhigh]
      exact findCandidate_first hk (by omega) ((hiff k).mpr hfits)
        (fun j hj hlt => eq_false_of_ne_true (fun h => hfirst j hj hlt ((hiff j).mp h)))
    · rw [candidate_eq hlow hhigh]
      exact findCandidate_none
        (fun j hj hlt => eq_false_of_ne_true (fun h => hnone j hj (by omega) ((hiff j).mp h)))
  · intro buf left begun listed entered u capturing hoffered program t
    let t0 : State := { s with log := begunAt b (leftHealthy s.log) }
    have hbegun : begun = begunAt b (leftHealthy s.log) := by
      simp only [begun, left, leftHealthy]
      cases s.log.active <;> rfl
    have hrec : (begunAt b (leftHealthy s.log)).capturingRec = s.log.capturingRec := by
      simp only [leftHealthy]
      cases s.log.active <;> rfl
    have hbelow : (begunAt b (leftHealthy s.log)).lastCommitted = s.log.lastCommitted := by
      simp only [leftHealthy]
      cases s.log.active <;> rfl
    have hentered : ∀ e, entered e = blockEntered e b t0 := by
      intro e
      simp only [entered, hbegun]
      rfl
    have hplain : Changed b s t0 := Changed.begun b s
    have hfound : ∀ e, findEntry s.dir s.log.capturingRec = some e → findEntry t0.dir t0.log.capturingRec = some e := by
      intro e hfind
      rw [← hfind, ← hrec]
    have hu0 : { s with log := begun } = t0 := by rw [hbegun]
    obtain ⟨hoffer, hchanged, hfield⟩ : offerBlock b t0 = u ∧ Changed b s u ∧ capturingField u b = capturing := by
      rw [hu0] at hoffered
      obtain ⟨rfl, rfl, hzero | ⟨e, hfind, hclosing, hnew, hnot⟩⟩
        | ⟨hne, rfl, e, hfind, hnew, ⟨rfl, hcase⟩ | ⟨hstate, hlength, hposting, honly, hsame, hended⟩⟩ := hoffered
      · exact ⟨offerBlock_none (hrec.trans hzero), hplain, capturingField_none (hrec.trans hzero)⟩
      · refine ⟨offerBlock_refused (hfound e hfind) hclosing ?_, hplain, capturingField_outside (hfound e hfind) hnew⟩
        rw [← hbelow] at hnot
        exact hnot
      · have haccepts : acceptsBlock t0 e b = true := by
          refine acceptsBlock_of hnew ?_
          rw [← hbelow] at hcase
          exact hcase.imp_left (fun h => ⟨h.1, by omega⟩)
        have hshort : ¬ (e.state = .capturing ∧ e.blocks.length = 78) := by
          rintro ⟨hcapturing, hlength⟩
          rcases hcase with ⟨-, hless⟩ | ⟨hclosing, -⟩
          · omega
          · exact absurd (hcapturing.symm.trans hclosing) (by decide)
        rw [hentered, offerBlock_entered (hrec ▸ hne) (hfound e hfind) haccepts, if_neg hshort]
        exact ⟨rfl, hplain.entered, (capturingField_entered (hfound e hfind)).trans hrec⟩
      · rw [hentered] at hended
        have hended' : Changed b s u ∧ u.dir = (postingClosed .length (listed e) (lastAtEnd s e) (blockEntered e b t0)).dir
            ∧ u.log = (blockEntered e b t0).log := Changed.ended hplain.entered hended hsame hfree
        obtain ⟨hchanged, hdir, hlog⟩ := hended'
        have hkept : u.log.capturingRec = t0.log.capturingRec := (congrArg LogManager.capturingRec hlog :)
        have hlength' : e.blocks.length < 80 := by omega
        rw [offerBlock_entered (hrec ▸ hne) (hfound e hfind) (acceptsBlock_of hnew (.inl ⟨hstate, hlength'⟩)),
          if_pos ⟨hstate, hlength⟩]
        refine ⟨endPosting_ended (s := blockEntered e b t0) hposting (OpenAlone.entered (s := t0) honly) ?_, hchanged, ?_⟩
        · rw [postingLast_ne (by decide)]
          exact hended
        · exact (capturingField_closed (hfound e hfind) hdir hkept).trans hrec
    have hnoPage : s.log.active = none ∨ 15 < s.log.nextPage := hleave.imp_right (fun h => h.1)
    have hkick : logKick s = handWaiting i (searchErase u) := by
      rw [logKick_noPage hready hfault (logProgramOut_free hfree halone) (waitingBuffer_full hwriting hfull) hnoPage,
        hahead]
      dsimp only
      rw [blockChange_healthy hfault (hleave.imp_right (fun h => h.2.1)), hoffer]
    have hstopU : NoStop u := hstop.carry hchanged.mgmt
    refine ⟨fun hcandidate => settle_kick (hkick.trans ?_) hstopU, fun c hcandidate hlive =>
      settle_kick (hkick.trans ?_) hstopU⟩
    · rw [handIn_free hready hfree halone hlow hhigh hseq hfault hchanged hfield hcandidate,
        bufferTaken_full hstate hfull honce]
      rfl
    · rw [handIn_suspending hready hfree halone hlow hhigh hseq hfault hchanged hfield hlive hcandidate,
        bufferTaken_full hstate hfull honce]
      rfl
  · intro y reached hreached hother hclear hroom
    let t : State := { s with log := chosenLog s.log c }
    have hannounce : announceChoice s.log c t = sessionEnded j y .overtaken t := by
      rw [announceChoice, if_pos hfilled]
      exact announceBlock_reached (s := t) j hreached hother hclear hroom
    have hsource : y.source = 0 := hreached.2.1
    have hended : sessionEnded j y .overtaken t
        = { (enqueued y.port (.session j) (endFrame s.seqr.own j y .overtaken) s).setSession j Session.initial with
          log := chosenLog s.log c } := by
      have hdir : ∀ e : Entry, (if y.source ≠ 0 ∧ e.num = y.source then { e with sessions := e.sessions - 1 } else e) = e :=
        fun e => if_neg (fun h => h.1 hsource)
      simp only [sessionEnded, hdir, List.map_id']
      cases y.port <;> cases j <;> rfl
    have hsearch : searchErase s = (arrayAsk .eraseAhead (.erase c) (announceChoice s.log c t)).1 := by
      rw [searchErase, if_neg (ne_true_of_eq_false hfault), hcandidate]
      rfl
    let w : State := (enqueued y.port (.session j) (endFrame s.seqr.own j y .overtaken) s).setSession j Session.initial
    have hsame : w.seqr = s.seqr ∧ w.arr = s.arr := by
      cases hport : y.port <;> cases j <;> simp only [w, hport] <;> exact ⟨rfl, rfl⟩
    rw [hsearch, hannounce, hended]
    exact arrayAsk_eraseAhead (s := { w with log := chosenLog s.log c }) (hsame.1 ▸ hready) (hsame.2 ▸ hfree)
      (hsame.2 ▸ halone) hlow hhigh (holdOf_chosenLog hcandidate)

end Sys2Proof.Machine
end

section
/-! PROOF. The Retrieval Engine (07): fetch steps, data frames, and what a read or a request leaves of a session. -/

set_option Elab.async false

namespace Sys2Proof.Machine

variable {s u v : State} {i : SessionId} {x y z : Session} {b p : Nat}

/-! ### Fetch steps (R129, R130) -/

/-- What the fetch step of a session decides. -/
def fetchOf (l : LogManager) (d : Directory) (x : Session) : Fetch :=
  if x.source = 0 then liveFetch l (l.history.length + 3) x
  else match findEntry d x.source with
    | none => .finish x .endOfData
    | some e => recordingFetch l e x

/-- The session with its read handed in. -/
def fetching (y : Session) : Session := { y with state := .fetching, reading := true }

/-- What a decision of the fetch step does. -/
def takeFetch (i : SessionId) (s : State) : Fetch → State
  | .finish y why => endSession i why (s.setSession i y)
  | .follow y => s.setSession i { y with state := .following }
  | .read y b p =>
    let r := arrayAsk (.session i) (.read b p) (s.setSession i (fetching y))
    match r.2 with
    | .accepted => r.1
    | .refused => sessionChange i (fun z => { z with reading := false }) r.1
    | .erasing => endSession i .overtaken (sessionChange i (fun z => { z with reading := false }) r.1)

theorem fetchStep_eq (i : SessionId) (s : State) :
    fetchStep i s = takeFetch i s (fetchOf s.log s.dir (s.session i)) := rfl

theorem fetchStep_follow (h : fetchOf s.log s.dir (s.session i) = .follow y) :
    fetchStep i s = s.setSession i { y with state := .following } := by
  rw [fetchStep_eq, h, takeFetch]

theorem fetchStep_finish {why : EndReason} (h : fetchOf s.log s.dir (s.session i) = .finish y why) :
    fetchStep i s = endSession i why (s.setSession i y) := by
  rw [fetchStep_eq, h, takeFetch]

theorem mayAsk_session (hlow : 4 ≤ b) (hhigh : b ≤ 1023) (hp : p ≤ 15) : mayAsk (.session i) (.read b p) = true := by
  simp [mayAsk, isLogBlock_iff.mpr ⟨hlow, hhigh⟩, hp]

/-- A read that is handed in alone runs. -/
theorem fetchStep_read (h : fetchOf s.log s.dir (s.session i) = .read y b p) (hready : s.seqr.part = .ready)
    (hfree : s.arr.running = none) (halone : ArrayAlone s.arr) (hlow : 4 ≤ b) (hhigh : b ≤ 1023) (hp : p ≤ 15) :
    fetchStep i s = readOut i y b p s := by
  have hsame : (s.setSession i (fetching y)).arr = s.arr ∧ (s.setSession i (fetching y)).seqr = s.seqr := by
    cases i <;> exact ⟨rfl, rfl⟩
  rw [fetchStep_eq, h, takeFetch, arrayAsk_runs (s := s.setSession i (fetching y)) (hsame.1 ▸ hfree) (hsame.1 ▸ halone)
    (mayAsk_session hlow hhigh hp) (.inr ⟨by simp [hsame.2, hready], by simp⟩) (by simp)]
  cases i <;> rfl

/-- A read of a block whose erase runs is answered ERASING (R46). -/
theorem fetchStep_erasing (h : fetchOf s.log s.dir (s.session i) = .read y b p) (herase : runningErase s.arr b = true)
    (hlow : 4 ≤ b) (hhigh : b ≤ 1023) (hp : p ≤ 15) :
    fetchStep i s = endSession i .overtaken (s.setSession i { y with state := .fetching, reading := false }) := by
  have harr : (s.setSession i (fetching y)).arr = s.arr := by cases i <;> rfl
  have hask : arrayAsk (.session i) (.read b p) (s.setSession i (fetching y)) = (s.setSession i (fetching y), .erasing) := by
    rw [arrayAsk, if_neg (by simp [mayAsk_session hlow hhigh hp])]
    exact if_pos (by simp [readsErasing, harr, herase])
  rw [fetchStep_eq, h, takeFetch, hask]
  dsimp only
  rw [sessionChange_eq, session_setSession, setSession_setSession]
  rfl

/-! ### What the fetch step decides -/

theorem limitReached_iff : limitReached x = true ↔ x.limit ≠ 0 ∧ x.limit ≤ x.delivered := by
  simp [limitReached]

theorem not_limitReached (h : x.limit = 0 ∨ x.delivered < x.limit) : ¬ limitReached x = true := by
  rw [limitReached_iff]
  rintro ⟨hne, hle⟩
  rcases h with h | h
  · exact hne h
  · omega

theorem fetchOf_live (h : x.source = 0) (l : LogManager) (d : Directory) :
    fetchOf l d x = liveFetch l (l.history.length + 3) x := if_pos h

theorem fetchOf_recording {e : Entry} {d : Directory} (h : x.source ≠ 0) (hfind : findEntry d x.source = some e)
    (l : LogManager) : fetchOf l d x = recordingFetch l e x := by
  rw [fetchOf, if_neg h, hfind]

/-- The session with its cursor at a position of the list, in a block. -/
def cursorTo (x : Session) (pos c : Nat) : Session :=
  { x with listPos := pos, block := some c, page := if x.block = some c then x.page else 0 }

theorem moveCursor_eq (x : Session) (pos c : Nat) : moveCursor x pos c = cursorTo x pos c := by
  by_cases hsame : x.block = some c
  · rw [moveCursor, if_pos hsame, cursorTo, if_pos hsame, ← hsame]
  · rw [moveCursor, if_neg hsame, cursorTo, if_neg hsame]

theorem cursorTo_here {c : Nat} (h : x.block = some c) : cursorTo x x.listPos c = x := by
  rw [cursorTo, if_pos h, ← h]

theorem recordingFetch_cursor {l : LogManager} {e : Entry} {pos c : Nat} (hlimit : x.limit = 0 ∨ x.delivered < x.limit)
    (hend : x.nextSeq ≤ x.endPoint.getD 0) (hcursor : CursorAt l e.blocks x pos c) : recordingFetch l e x =
      if 16 ≤ (cursorTo x pos c).page then
        match nextUsable l e.blocks pos with
        | none => .finish (cursorTo x pos c) .endOfData
        | some (q, d) => .read { cursorTo x pos c with listPos := q, block := some d, page := 0 } d 0
      else .read (cursorTo x pos c) c (cursorTo x pos c).page := by
  rw [recordingFetch, if_neg (not_or.mpr ⟨Nat.not_lt.mpr hend, not_limitReached hlimit⟩)]
  rcases hcursor with hmoves | ⟨hstays, rfl, hblock, -⟩
  · rw [hmoves]
    dsimp only
    rw [moveCursor_eq]
    rfl
  · rw [hstays, cursorTo_here hblock]
    dsimp only
    rw [hblock]
    rfl

theorem liveFetch_located {l : LogManager} {n c bound : Nat} (hlimit : x.limit = 0 ∨ x.delivered < x.limit)
    (hbelow : x.nextSeq ≤ l.lastCommitted) (hlocated : locate l x.nextSeq = .block c bound) :
    liveFetch l (n + 1) x =
      let y : Session := { x with block := some c, page := if x.block = some c then x.page else 0, bound := bound }
      if 16 ≤ y.page then liveFetch l n { y with nextSeq := bound + 1 } else .read y c y.page := by
  rw [liveFetch, if_neg (not_limitReached hlimit), if_neg (Nat.not_lt.mpr hbelow), hlocated]
  dsimp only
  by_cases hsame : x.block = some c
  · rw [if_pos hsame, if_pos hsame, ← hsame]
  · rw [if_neg hsame, if_neg hsame]

theorem fetchOf_reads (h : FetchReads s x y b p) : fetchOf s.log s.dir x = .read y b p := by
  obtain ⟨hlimit, -, -, hp, ⟨hsource, hend, e, pos, hfind, hcase⟩ | ⟨hsource, hbelow, bound, hcase⟩⟩ := h
  · rw [fetchOf_recording hsource hfind]
    obtain ⟨hcursor, rfl, rfl⟩ | ⟨q, c, hcursor, hblock, hpage, hnext, rfl, rfl⟩ := hcase
    · rw [recordingFetch_cursor hlimit hend hcursor, if_neg (by simpa [cursorTo] using Nat.lt_succ_of_le hp)]
      by_cases hsame : x.block = some b
      · simp only [cursorTo, if_pos hsame]
      · simp only [cursorTo, if_neg hsame]
    · rw [recordingFetch_cursor hlimit hend hcursor, if_pos (by simpa [cursorTo, hblock] using hpage), hnext]
      rfl
  · rw [fetchOf_live hsource]
    obtain ⟨hlocated, rfl, rfl⟩ | ⟨c, k, hlocated, hblock, hpage, hmore, hnext, hne, rfl, rfl⟩ := hcase
    · rw [liveFetch_located hlimit hbelow hlocated]
      exact if_neg (by simpa using Nat.lt_succ_of_le hp)
    · rw [liveFetch_located hlimit hbelow hlocated]
      refine (if_pos (by simpa [hblock] using hpage)).trans ?_
      rw [liveFetch_located (by exact hlimit) (by exact hmore) hnext]
      have hcb : ¬ some c = some b := fun h => hne (Option.some.inj h).symm
      simp only [hblock, if_neg hcb]
      rfl

/-- Two sessions that differ in their cursor alone, as far as an end frame can tell. -/
structure SameEnd (x y : Session) : Prop where
  port : y.port = x.port
  station : y.station = x.station
  source : y.source = x.source
  point : y.point = x.point
  delivered : y.delivered = x.delivered
  state : y.state = x.state
  offered : y.offered = x.offered
  reading : y.reading = x.reading
  replySeen : y.replySeen = x.replySeen

theorem fetchOf_ends {why : EndReason} (h : FetchEnds s x why) :
    ∃ y, fetchOf s.log s.dir x = .finish y why ∧ SameEnd x y := by
  have hself : SameEnd x x := ⟨rfl, rfl, rfl, rfl, rfl, rfl, rfl, rfl, rfl⟩
  rcases h with ⟨rfl, hentry, hdone⟩ | ⟨hlimit, ⟨rfl, hsource, hfollow, hend⟩ | ⟨rfl, hsource, hlocated⟩
    | ⟨rfl, hsource, hend, hpage, e, c, hfind, hcursor, hblock, hnone⟩⟩
  · refine ⟨x, ?_, hself⟩
    by_cases hsource : x.source = 0
    · have hreached : limitReached x = true := limitReached_iff.mpr (hdone.resolve_right (fun h => h.1 hsource))
      rw [fetchOf_live hsource, liveFetch, if_pos hreached]
    · obtain ⟨e, hfind⟩ := Option.isSome_iff_exists.mp (hentry.resolve_left hsource)
      rw [fetchOf_recording hsource hfind, recordingFetch, if_pos]
      exact hdone.elim (fun h => .inr (limitReached_iff.mpr h)) (fun h => .inl h.2)
  · refine ⟨x, ?_, hself⟩
    rw [fetchOf_live hsource, liveFetch, if_neg (not_limitReached hlimit), if_pos hend, hfollow]
    rfl
  · refine ⟨x, ?_, hself⟩
    have hbelow : ¬ s.log.lastCommitted < x.nextSeq := by
      intro hbeyond
      rw [locate, if_pos hbeyond] at hlocated
      exact Located.noConfusion hlocated
    rw [fetchOf_live hsource, liveFetch, if_neg (not_limitReached hlimit), if_neg hbelow, hlocated]
  · refine ⟨cursorTo x x.listPos c, ?_, ⟨rfl, rfl, rfl, rfl, rfl, rfl, rfl, rfl, rfl⟩⟩
    rw [fetchOf_recording hsource hfind, recordingFetch_cursor hlimit hend hcursor,
      if_pos (by simpa [cursorTo, hblock] using hpage), hnone]

theorem fetchOf_follows (hsource : x.source = 0) (hlimit : x.limit = 0 ∨ x.delivered < x.limit)
    (hend : s.log.lastCommitted < x.nextSeq) (hfollow : x.follow = true) : fetchOf s.log s.dir x = .follow x := by
  rw [fetchOf_live hsource, liveFetch, if_neg (not_limitReached hlimit), if_pos hend, if_pos hfollow]

/-! ### Ends -/

theorem setSession_dir (j : SessionId) (s : State) (x : Session) (d : Directory) :
    (s.setSession j x).setDir d = (s.setDir d).setSession j x := by
  cases j <;> rfl

theorem setSession_own (j : SessionId) (s : State) (x : Session) : (s.setSession j x).seqr = s.seqr := by
  cases j <;> rfl

theorem setSession_oldDir (j : SessionId) (s : State) (x : Session) : (s.setSession j x).dir = s.dir := by
  cases j <;> rfl

/-- The end of a session does not look at what its slot held before. -/
theorem sessionEnded_setSession (why : EndReason) :
    sessionEnded i y why (s.setSession i x) = sessionEnded i y why s := by
  rw [sessionEnded, enqueued_setSession, setSession_own, setSession_oldDir, setSession_dir, setSession_setSession,
    sessionEnded]

theorem sessionEnded_same (h : SameEnd x y) (why : EndReason) : sessionEnded i y why s = sessionEnded i x why s := by
  rw [sessionEnded, sessionEnded, endFrame, endFrame, h.port, h.station, h.source, h.point, h.delivered]

theorem port_setSession (j : SessionId) (s : State) (x : Session) (q : Port) : (s.setSession j x).port q = s.port q := by
  cases j <;> cases q <;> rfl

/-- A session in a slot, with nothing outstanding, ends. -/
theorem endSession_slot {why : EndReason} (hopen : sessionOpen x = true) (hclear : SessionClear i (s.setSession i x))
    (hroom : LocalRoom x.port s) : endSession i why (s.setSession i x) = sessionEnded i x why s := by
  have hslot := session_setSession i s x
  rw [endSession_clear (by rw [hslot]; exact hopen) hclear (by rw [LocalRoom, port_setSession, hslot]; exact hroom), hslot,
    sessionEnded_setSession]

theorem SessionClear.same (h : SameEnd x y) (hclear : SessionClear i (s.setSession i x)) :
    SessionClear i (s.setSession i y) := by
  simp only [SessionClear, session_setSession, isWaiting_setSession] at hclear ⊢
  rw [h.offered, h.reading, h.replySeen, h.port]
  exact hclear

/-- A session whose fetch step ends it, with nothing outstanding. -/
theorem fetchStep_ends {why : EndReason} (h : FetchEnds s (s.session i) why) (hopen : sessionOpen (s.session i) = true)
    (hclear : SessionClear i s) (hroom : LocalRoom (s.session i).port s) :
    fetchStep i s = sessionEnded i (s.session i) why s := by
  obtain ⟨y, hfetch, hsame⟩ := fetchOf_ends h
  have hopenY : sessionOpen y = true := by
    rw [sessionOpen, hsame.state]
    exact hopen
  rw [fetchStep_finish hfetch, endSession_slot hopenY (SessionClear.same hsame (by rw [setSession_session]; exact hclear))
    (hsame.port ▸ hroom), sessionEnded_same hsame]

/-! ### Data frames (R132) -/

theorem recordsSize_cons (r : Record) (rs : List Record) : recordsSize (r :: rs) = recordSize r + recordsSize rs := by
  have hacc : ∀ (l : List Record) (n : Nat), l.foldl (fun acc r => acc + recordSize r) n
      = n + l.foldl (fun acc r => acc + recordSize r) 0 := by
    intro l
    induction l with
    | nil => simp
    | cons x xs ih =>
      intro n
      rw [List.foldl_cons, List.foldl_cons, ih, ih (0 + recordSize x)]
      omega
  rw [recordsSize, recordsSize, List.foldl_cons, hacc]
  omega

theorem fitRecords_all {recs : List Record} {room : Nat} (h : recordsSize recs ≤ room) : fitRecords room recs = recs := by
  induction recs generalizing room with
  | nil => rfl
  | cons r rest ih =>
    rw [recordsSize_cons] at h
    rw [fitRecords, if_pos (by omega), ih (by omega)]

theorem fitRecords_some {now more : List Record} {next : Record} {room : Nat} (h : recordsSize now ≤ room)
    (hover : room < recordsSize now + recordSize next) : fitRecords room (now ++ next :: more) = now := by
  induction now generalizing room with
  | nil =>
    have hsize : recordsSize ([] : List Record) = 0 := rfl
    rw [List.nil_append, fitRecords, if_neg (by omega)]
  | cons r rest ih =>
    rw [recordsSize_cons] at h hover
    rw [List.cons_append, fitRecords, if_pos (by omega), ih (by omega) (by omega)]

theorem lastSeqOf_eq {recs : List Record} {last : Record} (h : recs.getLast? = some last) : lastSeqOf recs = last.seq := by
  rw [lastSeqOf, h]
  rfl

theorem ne_nil_of_getLast? {recs : List Record} {last : Record} (h : recs.getLast? = some last) : recs ≠ [] := by
  rintro rfl
  simp at h

/-- The frame of the records that a session delivers. -/
def framePlaced (i : SessionId) (recs : List Record) (s : State) : State :=
  let x := s.session i
  enqueued x.port (.session i) (dataFrame s.seqr.own x.station i (skipFlag x recs) recs) s

theorem session_enqueued (j : SessionId) (q : Port) (who : Producer) (bytes : Bytes) (s : State) :
    (enqueued q who bytes s).session j = s.session j := by
  cases j <;> cases q <;> rfl

/-- A DELIVERING session with credit, records and room places a data frame, and goes on with what it leaves. -/
theorem deliver_frame {n : Nat} {recs : List Record} (hstate : (s.session i).state = .delivering)
    (hseen : (s.session i).replySeen = true) (hcredit : 0 < (s.session i).credit)
    (hfit : fitRecords 235 (s.session i).buffer = recs) (hne : recs ≠ [])
    (hwaits : isWaiting (s.session i).port (.session i) s = false) (hroom : LocalRoom (s.session i).port s) :
    deliver i (n + 1) s =
      let t := (framePlaced i recs s).setSession i (afterFrame (spendCredit recs.length (lastSeqOf recs) (s.session i)))
      if (t.session i).buffer = [] then fetchStep i t else deliver i n t := by
  have hfit' : fitRecords Config.dataFrameBytes (s.session i).buffer = recs := hfit
  rw [deliver, hfit']
  refine (if_pos ⟨hstate, hseen, hcredit, hne, hwaits⟩).trans ?_
  rw [offerLocal_entered hroom]
  dsimp only
  rw [sessionChange_eq, session_enqueued]
  rfl

theorem deliver_not {n : Nat} (hstate : (s.session i).state ≠ .delivering) : deliver i n s = s := by
  cases n with
  | zero => rfl
  | succ n => exact if_neg (fun h => hstate h.1)

/-- With its last credit a session delivers a frame and is STALLED behind it. -/
theorem deliverAll_stalls {now more : List Record} {next final : Record} (hstate : (s.session i).state = .delivering)
    (hseen : (s.session i).replySeen = true) (hcredit : (s.session i).credit = 1)
    (hbuffer : (s.session i).buffer = now ++ next :: more) (hlast : now.getLast? = some final)
    (hfit : recordsSize now ≤ 235) (hover : 235 < recordsSize now + recordSize next)
    (hwaits : isWaiting (s.session i).port (.session i) s = false) (hroom : LocalRoom (s.session i).port s) :
    deliverAll i s = (framePlaced i now s).setSession i { s.session i with
      state := .stalled, idleTimer := true, credit := 0,
      delivered := min counterMax ((s.session i).delivered + now.length),
      point := final.seq + 1, buffer := next :: more, offered := .none } := by
  have hrest : (now ++ next :: more).drop now.length = next :: more := List.drop_left
  have hafter : afterFrame (spendCredit now.length (lastSeqOf now) (s.session i)) = { s.session i with
      state := .stalled, idleTimer := true, credit := 0,
      delivered := min counterMax ((s.session i).delivered + now.length),
      point := final.seq + 1, buffer := next :: more, offered := .none } := by
    simp [afterFrame, spendCredit, hcredit, hbuffer, hrest, lastSeqOf_eq hlast, bumpBy_eq]
  rw [deliverAll, deliver_frame hstate hseen (by omega) (by rw [hbuffer]; exact fitRecords_some hfit hover)
    (ne_nil_of_getLast? hlast) hwaits hroom, hafter]
  dsimp only
  rw [session_setSession, if_neg (List.cons_ne_nil _ _)]
  exact deliver_not (by rw [session_setSession]; exact SessState.noConfusion)

/-- A session whose frame takes all of its records applies its fetch step behind it. -/
theorem deliverAll_empties {final : Record} (hstate : (s.session i).state = .delivering)
    (hseen : (s.session i).replySeen = true) (hcredit : 0 < (s.session i).credit)
    (hlast : (s.session i).buffer.getLast? = some final) (hfit : recordsSize (s.session i).buffer ≤ 235)
    (hwaits : isWaiting (s.session i).port (.session i) s = false) (hroom : LocalRoom (s.session i).port s) :
    deliverAll i s = fetchStep i ((framePlaced i (s.session i).buffer s).setSession i { s.session i with
      idleTimer := (s.session i).idleTimer || decide ((s.session i).credit = 1), credit := (s.session i).credit - 1,
      delivered := min counterMax ((s.session i).delivered + (s.session i).buffer.length),
      point := final.seq + 1, buffer := [], offered := .none }) := by
  have hafter : afterFrame (spendCredit (s.session i).buffer.length (lastSeqOf (s.session i).buffer) (s.session i))
      = { s.session i with
        idleTimer := (s.session i).idleTimer || decide ((s.session i).credit = 1), credit := (s.session i).credit - 1,
        delivered := min counterMax ((s.session i).delivered + (s.session i).buffer.length),
        point := final.seq + 1, buffer := [], offered := .none } := by
    by_cases hone : (s.session i).credit = 1
    · simp [afterFrame, spendCredit, hone, lastSeqOf_eq hlast, bumpBy_eq]
    · have hmore : (s.session i).credit - 1 ≠ 0 := by omega
      simp [afterFrame, spendCredit, hone, hmore, lastSeqOf_eq hlast, bumpBy_eq]
  rw [deliverAll, deliver_frame hstate hseen hcredit (fitRecords_all hfit) (ne_nil_of_getLast? hlast) hwaits hroom, hafter]
  dsimp only
  rw [session_setSession, if_pos rfl]

/-! ### Requests of a session and its idle timer (R134, R135, R139) -/

/-- The arbiter's choice touches the transmitter, the queues and the fairness count; the local queue does not grow. -/
theorem startFrame_frame (q : PortState) : (startFrame q).up = q.up ∧ (startFrame q).waiting = q.waiting
    ∧ (startFrame q).localQ.length ≤ q.localQ.length := by
  by_cases hfree : q.up = true ∧ q.tx = none
  · obtain ⟨hup, htx⟩ := hfree
    cases hrelay : q.relayQ with
    | nil =>
      cases hlocal : q.localQ with
      | nil => simp [startFrame_empty hrelay hlocal, hlocal]
      | cons f fs => simp [startFrame_local_alone hup htx hrelay hlocal]
    | cons r rs =>
      cases hlocal : q.localQ with
      | nil => simp [startFrame_relay_alone hup htx hrelay hlocal, hlocal]
      | cons f fs =>
        by_cases hfair : q.fair < 4
        · simp [startFrame_relay_turn hup htx hrelay hlocal hfair, hlocal]
        · simp [startFrame_local_turn hup htx hrelay hlocal (Nat.not_lt.mp hfair)]
  · have hunable : q.up = false ∨ q.tx ≠ none := by
      by_cases hup : q.up = true
      · exact .inr (fun htx => hfree ⟨hup, htx⟩)
      · exact .inl (eq_false_of_ne_true hup)
    rw [startFrame_unable hunable]
    exact ⟨rfl, rfl, Nat.le_refl _⟩

section AfterReply

variable {r : Request} {st : Status} {result : Bytes}

theorem session_replied (j : SessionId) : (replied r st result s).session j = s.session j := by
  cases j <;> cases hport : r.port <;> simp [replied, hport, State.session, State.setPort]

theorem replied_setSession (j : SessionId) : replied r st result (s.setSession j x) = (replied r st result s).setSession j x := by
  cases j <;> cases hport : r.port <;> simp [replied, hport, replyFrame, State.setPort, State.port, State.setSession] <;> rfl

theorem port_replied (q : Port) : (replied r st result s).port q = if q = r.port
    then startFrame { s.port r.port with localQ := (s.port r.port).localQ ++ [replyFrame r st result s] }
    else s.port q := by
  cases q <;> cases hport : r.port <;> simp [replied, hport, State.port, State.setPort]

theorem isWaiting_replied (q : Port) (who : Producer) : isWaiting q who (replied r st result s) = isWaiting q who s := by
  rw [isWaiting, port_replied]
  split
  case isTrue hq =>
    obtain ⟨-, hwaiting, -⟩ := startFrame_frame
      { s.port r.port with localQ := (s.port r.port).localQ ++ [replyFrame r st result s] }
    rw [hwaiting, hq, isWaiting]
  case isFalse => rfl

theorem localRoom_replied (hup : (s.port r.port).up = true) (hempty : (s.port r.port).localQ = []) :
    LocalRoom r.port (replied r st result s) := by
  obtain ⟨hsame, -, hlength⟩ := startFrame_frame
    { s.port r.port with localQ := (s.port r.port).localQ ++ [replyFrame r st result s] }
  rw [LocalRoom, port_replied, if_pos rfl, hsame]
  refine ⟨hup, Nat.lt_of_le_of_lt hlength ?_⟩
  rw [hempty]
  exact show 1 < 4 by decide

end AfterReply

section SessionRequests

variable {r : Request} {id n : Byte}

theorem exec_grantCredit (h : Handed codeGrantCredit r s) : exec .grantCredit s = .next
    (match slotNamed (fieldAt 0 1 r.params) with
      | none => respond .badValue [] s
      | some i =>
        if fieldAt 1 1 r.params = 0 ∨ Config.creditMax < fieldAt 1 1 r.params then respond .badValue [] s
        else if ownSession s r i then
          sessionPlace i (respond .ok (b1 (grantedCredit (s.session i) (fieldAt 1 1 r.params)))
            (sessionChange i (grantSession (fieldAt 1 1 r.params)) s))
        else respond .notFound [] s) :=
  congrArg _ (takeRequest_handed h _)

theorem exec_closeRetrieval (h : Handed codeCloseRetrieval r s) : exec .closeRetrieval s = .next
    (match slotNamed (fieldAt 0 1 r.params) with
      | none => respond .badValue [] s
      | some i =>
        if ownSession s r i then endSession i .closed (respond .ok (be 4 (s.session i).delivered) s)
        else respond .notFound [] s) :=
  congrArg _ (takeRequest_handed h _)

/-- The byte that names a slot (12.4). -/
def slotByte : SessionId → Byte
  | .one => 1
  | .two => 2

theorem slotNamed_slotByte (j : SessionId) : slotNamed (slotByte j).toNat = some j := by
  cases j <;> rfl

theorem slotNamed_none (h1 : id ≠ 1) (h2 : id ≠ 2) : slotNamed id.toNat = none := by
  have hone : id.toNat ≠ 1 := fun h => h1 (BitVec.eq_of_toNat_eq h)
  have htwo : id.toNat ≠ 2 := fun h => h2 (BitVec.eq_of_toNat_eq h)
  rw [slotNamed]
  · exact hone
  · exact htwo

theorem ownSession_iff (j : SessionId) : ownSession s r j = true
    ↔ ((s.session j).state ≠ .free ∧ (s.session j).state ≠ .ending) ∧ (s.session j).station = r.src := by
  simp [ownSession, sessionOpen]

theorem sessionOpen_iff : sessionOpen x = true ↔ x.state ≠ .free ∧ x.state ≠ .ending := by
  simp [sessionOpen]

end SessionRequests

theorem sessionPlace_open (hstate : (s.session i).state ≠ .ending) : sessionPlace i s = deliverAll i s := if_neg hstate

/-- A grant to a session that is not STALLED. -/
theorem sessionPlace_quiet (hending : (s.session i).state ≠ .ending) (hdelivering : (s.session i).state ≠ .delivering) :
    sessionPlace i s = s := by
  rw [sessionPlace_open hending, deliverAll, deliver_not hdelivering]

/-- An answer given over a changed slot. -/
theorem respond_session {code : Byte} {r : Request} {st : Status} {result : Bytes} (h : Handed code r s)
    (hroom : ReplyRoom r s) : respond st result (s.setSession i x) = (replied r st result s).setSession i x := by
  rw [respond_handed (s := s) h hroom (by cases i <;> rfl) (by cases i <;> rfl) (by cases i <;> rfl), replied_setSession]

section Grants

variable {r : Request} {n : Nat}

theorem grant_unstalled (h : Handed codeGrantCredit r s) (hroom : ReplyRoom r s)
    (hstate : (s.session i).state = .fetching ∨ (s.session i).state = .following) :
    sessionPlace i (respond .ok (b1 (grantedCredit (s.session i) n)) (sessionChange i (grantSession n) s))
      = replied r .ok [BitVec.ofNat 8 (min 64 ((s.session i).credit + n))] (s.setSession i { s.session i with
        credit := min 64 ((s.session i).credit + n), idleTimer := false }) := by
  have hgranted : grantSession n (s.session i)
      = { s.session i with credit := min 64 ((s.session i).credit + n), idleTimer := false } := by
    have hnot : (s.session i).state ≠ .stalled := by
      rcases hstate with hs | hs <;> simp [hs]
    rw [grantSession, if_neg hnot]
    rfl
  rw [sessionChange_eq, hgranted, respond_session h hroom, replied_setSession]
  refine sessionPlace_quiet ?_ ?_ <;> rw [session_setSession] <;> rcases hstate with hs | hs <;> simp [hs]

/-- A STALLED session without credit, granted one, sends one frame behind the answer. -/
theorem grant_stalled {recs more : List Record} {x last : Record} (h : Handed codeGrantCredit r s) (hroom : ReplyRoom r s)
    (hstate : (s.session i).state = .stalled) (hcredit : (s.session i).credit = 0)
    (hseen : (s.session i).replySeen = true) (hport : (s.session i).port = r.port)
    (hempty : (s.port r.port).localQ = []) (hwaiting : (s.port r.port).waiting = [])
    (hbuffer : (s.session i).buffer = recs ++ x :: more) (hlast : recs.getLast? = some last)
    (hfit : recordsSize recs ≤ 235) (hover : 235 < recordsSize recs + recordSize x) :
    sessionPlace i (respond .ok (b1 (grantedCredit (s.session i) 1)) (sessionChange i (grantSession 1) s))
      = (enqueued r.port (.session i) (dataFrame s.seqr.own (s.session i).station i (skipFlag (s.session i) recs) recs)
          (replied r .ok [1] s)).setSession i { s.session i with
        state := .stalled, idleTimer := true, credit := 0,
        delivered := min counterMax ((s.session i).delivered + recs.length),
        point := last.seq + 1, buffer := x :: more, offered := .none } := by
  let z : Session := { s.session i with credit := 1, idleTimer := false, state := .delivering }
  have hgranted : grantSession 1 (s.session i) = z := by
    rw [grantSession, if_pos hstate, grantedCredit, hcredit]
    rfl
  have hanswer : b1 (grantedCredit (s.session i) 1) = [1] := by
    rw [grantedCredit, hcredit]
    rfl
  have hslot : ((replied r .ok [1] s).setSession i z).session i = z := session_setSession ..
  rw [sessionChange_eq, hgranted, hanswer, respond_session h hroom,
    sessionPlace_open (by rw [hslot]; exact SessState.noConfusion),
    deliverAll_stalls (now := recs) (more := more) (next := x) (final := last) (by rw [hslot]) (by rw [hslot]; exact hseen)
      (by rw [hslot]) (by rw [hslot]; exact hbuffer) hlast hfit hover ?waits ?room, hslot]
  case waits =>
    have hnone : isWaiting (s.session i).port (.session i) s = false := by rw [hport, isWaiting, hwaiting]; rfl
    rw [hslot, isWaiting_setSession, isWaiting_replied]
    exact hnone
  case room =>
    rw [hslot, LocalRoom, port_setSession]
    change LocalRoom (s.session i).port (replied r .ok [1] s)
    rw [hport]
    exact localRoom_replied hroom.1 hempty
  have hown : (replied r .ok [1] s).seqr = s.seqr := by cases hq : r.port <;> simp [replied, hq, State.setPort]
  rw [framePlaced, hslot]
  dsimp only
  rw [enqueued_setSession, setSession_setSession, setSession_own, hown]
  change (enqueued (s.session i).port _ _ _).setSession i _ = _
  rw [hport]
  rfl

end Grants

/-- Settles O58: grants, closes and the idle timer, each by what the session's state allows. -/
theorem sessionsAreGrantedClosedAndTimedOut : Obligations.SessionsAreGrantedClosedAndTimedOut := by
  unfold Obligations.SessionsAreGrantedClosedAndTimedOut
  intro i s y isOpen number counted freed
  have hnumber : number = slotByte i := by cases i <;> rfl
  have hclosed : ∀ r : Request, ¬ isOpen ∨ y.station ≠ r.src → ¬ ownSession s r i = true := by
    intro r hnot hown
    obtain ⟨hopen, hstation⟩ := (ownSession_iff i).mp hown
    exact hnot.elim (fun h => h hopen) (fun h => h hstation)
  refine ⟨fun r id n h hroom hparams => ?grant, fun r id h hroom hparams => ?close, fun htimer => ?_,
    fun htimer hopen hclear hlocal => ?_⟩
  case grant =>
    have hid : fieldAt 0 1 r.params = id.toNat := by rw [hparams, fieldAt_one]; rfl
    have hn : fieldAt 1 1 r.params = n.toNat := by rw [hparams, fieldAt_one]; rfl
    rw [exec_grantCredit h, hid, hn]
    refine ⟨fun hbad => ?_, fun hslot hlow hhigh => ?_⟩
    · cases hslot : slotNamed id.toNat with
      | none => exact congrArg _ (respond_handed h hroom rfl rfl rfl)
      | some j =>
        have hrange : n.toNat = 0 ∨ Config.creditMax < n.toNat := by
          rcases hbad with ⟨h1, h2⟩ | hzero | hover
          · rw [slotNamed_none h1 h2] at hslot
            simp at hslot
          · exact .inl (by rw [hzero]; rfl)
          · exact .inr hover
        dsimp only
        rw [if_pos hrange]
        exact congrArg _ (respond_handed h hroom rfl rfl rfl)
    · have hrange : ¬ (n.toNat = 0 ∨ Config.creditMax < n.toNat) := by
        rw [show Config.creditMax = 64 from rfl]
        omega
      rw [hslot, hnumber, slotNamed_slotByte]
      dsimp only
      rw [if_neg hrange]
      refine ⟨fun hnot => ?_, fun hstate hstation => ?_,
        fun recs x more last hstate hstation hcredit hone hseen hport hempty hwaiting hbuffer hlast hfit hover => ?_⟩
      · rw [if_neg (hclosed r hnot)]
        exact congrArg _ (respond_handed h hroom rfl rfl rfl)
      · have hown : ownSession s r i = true := (ownSession_iff i).mpr
          ⟨by rcases hstate with hs | hs <;> rw [show (s.session i).state = _ from hs] <;> simp, hstation⟩
        rw [if_pos hown]
        exact congrArg _ (grant_unstalled h hroom hstate)
      · have hown : ownSession s r i = true := (ownSession_iff i).mpr
          ⟨by rw [show (s.session i).state = .stalled from hstate]; simp, hstation⟩
        rw [if_pos hown, hone]
        exact congrArg _ (grant_stalled h hroom hstate hcredit hseen hport hempty hwaiting hbuffer hlast hfit hover)
  case close =>
    have hid : fieldAt 0 1 r.params = id.toNat := by rw [hparams, fieldAt_one]; rfl
    rw [exec_closeRetrieval h, hid]
    refine ⟨fun h1 h2 => ?_, fun hslot hnot => ?_, fun hslot hopen hstation hclear hport hempty => ?_⟩
    · rw [slotNamed_none h1 h2]
      exact congrArg _ (respond_handed h hroom rfl rfl rfl)
    · rw [hslot, hnumber, slotNamed_slotByte]
      dsimp only
      rw [if_neg (hclosed r hnot)]
      exact congrArg _ (respond_handed h hroom rfl rfl rfl)
    · rw [hslot, hnumber, slotNamed_slotByte]
      dsimp only
      have hsame : (replied r .ok (be 4 y.delivered) s).seqr = s.seqr ∧ (replied r .ok (be 4 y.delivered) s).dir = s.dir := by
        cases hq : r.port <;> simp [replied, hq, State.setPort]
      have hclearReplied : SessionClear i (replied r .ok (be 4 y.delivered) s) := by
        simp only [SessionClear, session_replied, isWaiting_replied]
        exact hclear
      have hroomReplied : LocalRoom ((replied r .ok (be 4 y.delivered) s).session i).port (replied r .ok (be 4 y.delivered) s) := by
        rw [session_replied, show (s.session i).port = r.port from hport]
        exact localRoom_replied hroom.1 hempty
      rw [if_pos ((ownSession_iff i).mpr ⟨hopen, hstation⟩), respond_handed h hroom rfl rfl rfl,
        endSession_clear (by rw [session_replied]; exact sessionOpen_iff.mpr hopen) hclearReplied hroomReplied,
        session_replied, sessionEnded, hsame.1, hsame.2, show (s.session i).port = r.port from hport]
  · exact congrArg _ (if_neg (ne_true_of_eq_false htimer))
  · refine congrArg _ ((if_pos htimer).trans ?_)
    have hsame : SameEnd y { y with idleTimer := false } := ⟨rfl, rfl, rfl, rfl, rfl, rfl, rfl, rfl, rfl⟩
    rw [sessionChange_eq, endSession_slot (x := { y with idleTimer := false }) (sessionOpen_iff.mpr hopen)
      (SessionClear.same hsame (by rw [setSession_session]; exact hclear)) hlocal, sessionEnded_same hsame]
    rfl

end Sys2Proof.Machine
end

section
/-! PROOF. OPEN_RETRIEVAL (07, R127 to R130). -/

set_option Elab.async false

namespace Sys2Proof.Machine

variable {s t u v : State} {i : SessionId} {x y z : Session} {b p : Nat} {r : Request} {result : Bytes}

/-! ### The answer that opens a session (R133) -/

theorem replySeen_fetching (hstate : (s.session i).state = .fetching ∨ (s.session i).state = .following) :
    replySeen i s = s.setSession i { s.session i with replySeen := true } := by
  have hfree : (s.session i).state ≠ .free := by rcases hstate with h | h <;> simp [h]
  rw [replySeen, if_neg hfree, sessionChange_eq]
  refine sessionPlace_quiet ?_ ?_ <;> rw [session_setSession] <;> rcases hstate with h | h <;> simp [h]

/-- The unit's state once its answer has been stored, if it is to be. -/
def answerStored (r : Request) (bytes : Bytes) (store : Bool) (s : State) : State :=
  if store then s.setMgmt { s.mgmt with cache := cacheStore s.mgmt.cache (cacheEntryOf r bytes) } else s

theorem answerStored_other (bytes : Bytes) (store : Bool) : (answerStored r bytes store s).session i = s.session i
    ∧ (answerStored r bytes store s).mgmt.queue = s.mgmt.queue := by
  cases i <;> cases store <;> exact ⟨rfl, rfl⟩

theorem clearCurrent_setSession : clearCurrent (s.setSession i x) = (clearCurrent s).setSession i x := by
  cases i <;> rfl

theorem thenNext_clear (h : s.mgmt.queue = []) : thenNext (clearCurrent s, true) = clearCurrent s :=
  nextRequest_idle (s := clearCurrent s) h

/-- An answer that opens a session whose read is out, or that waits for data, lets it see that answer. -/
theorem answerWith_opened (hcurrent : t.mgmt.current = some { req := r, stage := .handed }) (hroom : ReplyRoom r t)
    (hstate : (t.session i).state = .fetching ∨ (t.session i).state = .following) :
    answerWith .ok result (some i) false t
      = (replied r .ok result t).setSession i { t.session i with replySeen := true } := by
  obtain ⟨hup, hlength, hqueue⟩ := hroom
  let bytes := responseFrame t.seqr.own r .ok result
  let entered := enqueued r.port .mgmt bytes t
  let stored := answerStored r bytes (storable r .ok) entered
  have hoffer : offerLocal r.port .mgmt bytes t = (entered, .entered, t.serial) := offerLocal_entered ⟨hup, hlength⟩
  have hqueueStored : stored.mgmt.queue = [] := by
    rw [(answerStored_other (i := i) bytes (storable r .ok)).2]
    cases hq : r.port <;> simp [entered, hq, enqueued, State.setPort, hqueue]
  have hsession : stored.session i = t.session i := by
    rw [(answerStored_other bytes (storable r .ok)).1, session_enqueued]
  have hplain : replied r .ok result t = clearCurrent stored := by
    rw [← respond_replied hcurrent ⟨hup, hlength, hqueue⟩, respond, answerWith, hcurrent]
    dsimp only
    rw [offerResponse, hoffer]
    exact thenNext_clear hqueueStored
  rw [answerWith, hcurrent]
  dsimp only
  rw [offerResponse, hoffer]
  change thenNext (clearCurrent (replySeen i stored), true) = _
  rw [replySeen_fetching (by rw [hsession]; exact hstate), hsession, hplain,
    thenNext_clear (by cases i <;> exact hqueueStored), clearCurrent_setSession]

/-! ### The session opened -/

/-- A fetch step reads alike in a state that keeps the log and the block lists. -/
theorem FetchReads.carry (h : FetchReads s x y b p) (hlog : t.log = s.log)
    (hdir : ∀ n e, findEntry s.dir n = some e → ∃ e', findEntry t.dir n = some e' ∧ e'.blocks = e.blocks)
    (state : SessState) (seen : Bool) : FetchReads t { x with state := state, replySeen := seen }
      { y with state := state, replySeen := seen } b p := by
  obtain ⟨hlimit, hlow, hhigh, hp, ⟨hsource, hend, e, pos, hfind, hcase⟩ | ⟨hsource, hbelow, bound, hcase⟩⟩ := h
  · obtain ⟨e', hfind', hblocks⟩ := hdir _ e hfind
    refine ⟨hlimit, hlow, hhigh, hp, .inl ⟨hsource, hend, e', pos, hfind', ?_⟩⟩
    rw [hlog, hblocks]
    obtain ⟨hcursor, rfl, rfl⟩ | ⟨q, c, hcursor, hblock, hpage, hnext, rfl, rfl⟩ := hcase
    · exact .inl ⟨hcursor, rfl, rfl⟩
    · exact .inr ⟨q, c, hcursor, hblock, hpage, hnext, rfl, rfl⟩
  · refine ⟨hlimit, hlow, hhigh, hp, .inr ⟨hsource, hlog ▸ hbelow, bound, ?_⟩⟩
    rw [hlog]
    obtain ⟨hlocated, rfl, rfl⟩ | ⟨c, k, hlocated, hblock, hpage, hmore, hnext, hne, rfl, rfl⟩ := hcase
    · exact .inl ⟨hlocated, rfl, rfl⟩
    · exact .inr ⟨c, k, hlocated, hblock, hpage, hmore, hnext, hne, rfl, rfl⟩

theorem FetchReads.replySeen (h : FetchReads s x y b p) : y.replySeen = x.replySeen := by
  obtain ⟨-, -, -, -, ⟨-, -, e, pos, -, ⟨-, -, rfl⟩ | ⟨q, c, -, -, -, -, -, rfl⟩⟩
    | ⟨-, -, bound, ⟨-, -, rfl⟩ | ⟨c, k, -, -, -, -, -, -, -, rfl⟩⟩⟩ := h <;> rfl

/-- The directory with one more open session of a recording. -/
def oneSessionMore (source : Nat) (d : Directory) : Directory := { d with
  entries := d.entries.map (fun x => if x.num = source then { x with sessions := x.sessions + 1 } else x) }

theorem findEntry_oneSessionMore {d : Directory} {source n : Nat} {e : Entry} (h : findEntry d n = some e) :
    ∃ e', findEntry (oneSessionMore source d) n = some e' ∧ e'.blocks = e.blocks := by
  refine ⟨_, (findEntry_map (d := d) (fun x => ?_) n).trans (by rw [h]; rfl), ?_⟩
  · split <;> rfl
  · dsimp only
    split <;> rfl

/-- The state with a session's recording counted. -/
def sessionCounted (source : Nat) (s : State) : State :=
  if source = 0 then s else s.setDir (oneSessionMore source s.dir)

theorem openSession_eq (o : OpenParams) (src : Byte) (q : Port) (e : Option Entry) (first : Nat) :
    openSession i o src q e first s
      = fetchStep i ((sessionCounted o.source s).setSession i (openedSession o src q e first)) := rfl

theorem sessionCounted_frame (source : Nat) (s : State) :
    sessionCounted source s = { s with dir := (sessionCounted source s).dir } := by
  rw [sessionCounted]
  split <;> rfl

theorem readOut_setSession : readOut i y b p (s.setSession i x) = readOut i y b p s := by
  cases i <;> rfl

/-- A session whose read is out sees the answer that opened it. -/
theorem readOut_seen (h : y.replySeen = true) :
    (readOut i { y with state := .fetching, replySeen := false } b p s).setSession i
      { y with state := .fetching, reading := true, replySeen := true } = readOut i y b p s := by
  rw [readOut, readOut, setSession_setSession, h]

theorem setSession_log (j : SessionId) (s : State) (x : Session) : (s.setSession j x).log = s.log
    ∧ (s.setSession j x).arr = s.arr ∧ (s.setSession j x).mgmt = s.mgmt := by
  cases j <;> exact ⟨rfl, rfl, rfl⟩

/-- The session opened hands in its first read. -/
theorem openSession_reads {o : OpenParams} {src : Byte} {q : Port} {e : Option Entry} {first : Nat}
    (h : FetchReads s { openedSession o src q e first with state := .free, replySeen := true } y b p)
    (hfree : s.arr.running = none) (halone : ArrayAlone s.arr) (hready : s.seqr.part = .ready) :
    openSession i o src q e first s
      = readOut i { y with state := .fetching, replySeen := false } b p (sessionCounted o.source s) := by
  have hframe := sessionCounted_frame o.source s
  let w := (sessionCounted o.source s).setSession i (openedSession o src q e first)
  have hlog : w.log = s.log := (setSession_log ..).1.trans (congrArg State.log hframe :)
  have harr : w.arr = s.arr := (setSession_log ..).2.1.trans (congrArg State.arr hframe :)
  have hseqr : w.seqr = s.seqr := (setSession_own ..).trans (congrArg State.seqr hframe :)
  have hdir : ∀ n e, findEntry s.dir n = some e → ∃ e', findEntry w.dir n = some e' ∧ e'.blocks = e.blocks := by
    intro n e hfind
    rw [show w.dir = (sessionCounted o.source s).dir from setSession_oldDir .., sessionCounted]
    split
    case isTrue => exact ⟨e, hfind, rfl⟩
    case isFalse => exact findEntry_oneSessionMore hfind
  have hcarried : FetchReads w (w.session i) { y with state := .fetching, replySeen := false } b p := by
    rw [show w.session i = openedSession o src q e first from session_setSession ..]
    exact FetchReads.carry h hlog hdir .fetching false
  obtain ⟨-, hlow, hhigh, hp, -⟩ := h
  rw [openSession_eq, fetchStep_read (s := w) (fetchOf_reads hcarried) (hseqr ▸ hready) (harr ▸ hfree) (harr ▸ halone)
    hlow hhigh hp, readOut_setSession]

/-- The session opened behind the newest sequence waits in FOLLOWING. -/
theorem openSession_follows {o : OpenParams} {src : Byte} {q : Port} {first : Nat} (hsource : o.source = 0)
    (hfollow : o.follow = 1) (hend : s.log.lastCommitted < first) : openSession i o src q none first s
      = s.setSession i { openedSession o src q none first with state := .following } := by
  let x := openedSession o src q none first
  have hcounted : sessionCounted o.source s = s := if_pos hsource
  have hfetch : fetchOf (s.setSession i x).log (s.setSession i x).dir x = .follow x :=
    fetchOf_follows (s := s.setSession i x) hsource (Nat.eq_zero_or_pos _) ((setSession_log i s x).1 ▸ hend) (decide_eq_true hfollow)
  rw [openSession_eq, hcounted, fetchStep_follow (y := x) (by rw [session_setSession]; exact hfetch), setSession_setSession]

/-! ### The request -/

theorem exec_openRetrieval (h : Handed codeOpenRetrieval r s) : exec .openRetrieval s = .next
    (if openValid (readOpen r.params) = false then respond .badValue [] s
    else match freeSlot s with
      | none => respond .noRoom [] s
      | some i => match openFirst s (readOpen r.params) with
        | .error st => respond st [] s
        | .ok (e, f) => answerWith .ok (b1 (sessionNumber i) ++ be6 f) (some i) false
            (openSession i (readOpen r.params) r.src r.port e f s)) :=
  congrArg _ (takeRequest_handed h _)

section Valid

variable {o : OpenParams} (h : Handed codeOpenRetrieval r s) (hroom : ReplyRoom r s) (ho : readOpen r.params = o)
  (hvalid : openValid o = true) (hslot : freeSlot s = some i)

include h hroom ho hvalid hslot

theorem open_refused {st : Status} (hfirst : openFirst s o = .error st) :
    exec .openRetrieval s = .next (replied r st [] s) := by
  rw [exec_openRetrieval h, ho, if_neg (by simp [hvalid]), hslot, hfirst]
  exact congrArg _ (respond_handed h hroom rfl rfl rfl)

theorem open_reads {e : Option Entry} {first : Nat} (hfirst : openFirst s o = .ok (e, first))
    (hreads : FetchReads s { openedSession o r.src r.port e first with state := .free, replySeen := true } y b p)
    (hfree : s.arr.running = none) (halone : ArrayAlone s.arr) (hready : s.seqr.part = .ready) :
    exec .openRetrieval s = .next (replied r .ok (b1 (sessionNumber i) ++ be6 first)
      (readOut i y b p (sessionCounted o.source s))) := by
  let w := sessionCounted o.source s
  have hframe := sessionCounted_frame o.source s
  let t := readOut i { y with state := .fetching, replySeen := false } b p w
  have hmgmt : t.mgmt = s.mgmt := (setSession_log ..).2.2.trans (congrArg State.mgmt hframe :)
  have hportA : t.portA = s.portA := by
    refine Eq.trans ?_ (congrArg State.portA hframe :)
    cases i <;> rfl
  have hportB : t.portB = s.portB := by
    refine Eq.trans ?_ (congrArg State.portB hframe :)
    cases i <;> rfl
  have hsession : t.session i = { y with state := .fetching, replySeen := false, reading := true } := session_setSession ..
  have hseen : t.setSession i { t.session i with replySeen := true } = readOut i y b p w := by
    have hyes : y.replySeen = true := FetchReads.replySeen hreads
    rw [hsession]
    exact readOut_seen hyes
  rw [exec_openRetrieval h, ho, if_neg (by simp [hvalid]), hslot, hfirst]
  dsimp only
  rw [openSession_reads hreads hfree halone hready, answerWith_opened (t := t) (hmgmt.symm ▸ h.1)
    (hroom.carry hportA hportB hmgmt) (.inl (by rw [hsession])), ← replied_setSession, hseen]

theorem open_follows {first : Nat} (hfirst : openFirst s o = .ok (none, first)) (hsource : o.source = 0)
    (hfollow : o.follow = 1) (hend : s.log.lastCommitted < first) :
    exec .openRetrieval s = .next (replied r .ok (b1 (sessionNumber i) ++ be6 first)
      (s.setSession i { openedSession o r.src r.port none first with state := .following, replySeen := true })) := by
  let t := s.setSession i { openedSession o r.src r.port none first with state := .following }
  have hsession : t.session i = { openedSession o r.src r.port none first with state := .following } := session_setSession ..
  have hmgmt : t.mgmt = s.mgmt := (setSession_log ..).2.2
  rw [exec_openRetrieval h, ho, if_neg (by simp [hvalid]), hslot, hfirst]
  dsimp only
  rw [openSession_follows hsource hfollow hend, answerWith_opened (t := t) (hmgmt.symm ▸ h.1)
    (hroom.carry (by cases i <;> rfl) (by cases i <;> rfl) hmgmt) (.inr (by rw [hsession])), ← replied_setSession, hsession,
    setSession_setSession]

end Valid

theorem openFirst_absent {o : OpenParams} (hsource : o.source ≠ 0) (h : findEntry s.dir o.source = none) :
    openFirst s o = .error .notFound := by
  rw [openFirst, if_neg hsource, h]

theorem openFirst_entry {o : OpenParams} {e : Entry} (hsource : o.source ≠ 0) (h : findEntry s.dir o.source = some e) :
    openFirst s o = if e.state = .capturing ∨ e.state = .closing then .error .busy
      else match recordingFirst e o.start with
        | none => .error .notFound
        | some f => .ok (some e, f) := by
  rw [openFirst, if_neg hsource, h] <;> rfl

theorem openFirst_live {o : OpenParams} (hsource : o.source = 0) :
    openFirst s o = match liveFirst s.log o.start (decide (o.follow = 1)) with
      | none => .error .notFound
      | some f => .ok (none, f) := by
  rw [openFirst, if_pos hsource] <;> rfl

/-- Settles O57: the refusals of R127 in order, and the openings on a recording and on the live ring. -/
theorem sessionsAreOpenedOrRefused : Obligations.SessionsAreOpenedOrRefused := by
  unfold Obligations.SessionsAreOpenedOrRefused
  intro r s1 s2 a1 a2 a3 a4 a5 a6 l1 l2 l3 l4 f k s h hroom hparams source start limit valid slot counted refused
  let o : OpenParams := { source := source, start := start, limit := limit, follow := f.toNat, credit := k.toNat }
  have ho : readOpen r.params = o := by
    rw [hparams]
    simp only [readOpen, fieldAt_one, o, source]
    rw [fieldAt_two (by simp)]
    rfl
  have hfollow : ∀ n : Byte, (n.toNat = 1 ↔ n = 1) ∧ (n.toNat = 0 ↔ n = 0) := by
    intro n
    exact ⟨⟨fun hn => BitVec.eq_of_toNat_eq hn, fun hn => by rw [hn]; rfl⟩,
      ⟨fun hn => BitVec.eq_of_toNat_eq hn, fun hn => by rw [hn]; rfl⟩⟩
  have hvalid : openValid o = true ↔ valid := by
    simp only [openValid, Bool.and_eq_true, Bool.or_eq_true, decide_eq_true_eq, o, (hfollow f).2, valid, and_assoc]
    rfl
  have hopened : ∀ e first, { openedSession o r.src r.port e first with state := .free, replySeen := true }
      = { slot first with
        endPoint := e.map (fun x => x.last.getD 0), block := e.bind (fun x => x.blocks.head?) } := by
    intro e first
    have hk : decide (k.toNat = 0) = decide (k = 0) := decide_eq_decide.mpr (hfollow k).2
    have hf : decide (f.toNat = 1) = decide (f = 1) := decide_eq_decide.mpr (hfollow f).1
    simp only [openedSession, o, slot, hk, hf]
    cases e <;> rfl
  refine ⟨fun hnot => ?_, fun hyes hone htwo => ?_, fun i number hyes hslot => ?_⟩
  · have hbad : openValid o = false := eq_false_of_ne_true (fun hgood => hnot (hvalid.mp hgood))
    change exec .openRetrieval s = _
    rw [exec_openRetrieval h, ho, if_pos hbad]
    exact congrArg _ (respond_handed h hroom rfl rfl rfl)
  · have hnone : freeSlot s = none := by rw [freeSlot, if_neg hone, if_neg htwo]
    change exec .openRetrieval s = _
    rw [exec_openRetrieval h, ho, if_neg (by simp [hvalid.mpr hyes]), hnone]
    exact congrArg _ (respond_handed h hroom rfl rfl rfl)
  · intro opened reads
    have hfreeSlot : freeSlot s = some i := by
      rw [freeSlot]
      rcases hslot with ⟨rfl, -, hone⟩ | ⟨rfl, -, hone, htwo⟩
      · rw [if_pos hone]
      · rw [if_neg hone, if_pos htwo]
    have hnumber : b1 (sessionNumber i) = [number] := by
      rcases hslot with ⟨rfl, rfl, -⟩ | ⟨rfl, rfl, -⟩ <;> rfl
    have hgood := hvalid.mpr hyes
    have hrefused : ∀ st, openFirst s o = .error st → refused st := fun st => open_refused h hroom ho hgood hfreeSlot
    have hreads : ∀ e first, openFirst s o = .ok (e, first) → reads { slot first with
        endPoint := e.map (fun x => x.last.getD 0), block := e.bind (fun x => x.blocks.head?) } (sessionCounted source s) := by
      intro e first hfirst y b p hfetch hfree halone hready
      rw [← hopened] at hfetch
      change exec .openRetrieval s = _
      rw [open_reads h hroom ho hgood hfreeSlot hfirst hfetch hfree halone hready, hnumber]
    have hfollows : ∀ first, source = 0 → f = 1 → s.log.lastCommitted < first → openFirst s o = .ok (none, first) →
        opened first (s.setSession i { slot first with state := .following }) := by
      intro first hsource hf hend hfirst
      change exec .openRetrieval s = _
      rw [open_follows h hroom ho hgood hfreeSlot hfirst hsource ((hfollow f).1.mpr hf) hend, hnumber]
      exact congrArg (fun z : Session => Host.Outcome.next (replied r .ok ([number] ++ be6 first)
        (s.setSession i { z with state := .following }))) (hopened none first)
    refine ⟨fun hsource => ⟨fun habsent => hrefused _ (openFirst_absent hsource (findEntry_none habsent)),
      fun e hfind => ⟨fun hopen => ?_, fun hcapturing hclosing => ⟨fun hstart hout => ?_, fun first hcase => ?_⟩⟩⟩,
      fun hsource => ?_⟩
    · refine hrefused _ ((openFirst_entry hsource hfind).trans (if_pos hopen))
    · refine hrefused _ ((openFirst_entry hsource hfind).trans ((if_neg (not_or.mpr ⟨hcapturing, hclosing⟩)).trans ?_))
      have hnone : recordingFirst e start = none := by
        rw [recordingFirst, if_neg hstart, if_neg (by omega)]
      rw [show o.start = start from rfl, hnone]
    · have hsome : recordingFirst e start = some first := by
        rcases hcase with ⟨hzero, rfl⟩ | ⟨hstart, rfl, hlow, hhigh⟩
        · rw [recordingFirst, if_pos hzero]
        · rw [recordingFirst, if_neg hstart, if_pos ⟨hlow, hhigh⟩]
      have hfirst : openFirst s o = .ok (some e, first) := by
        refine (openFirst_entry hsource hfind).trans ((if_neg (not_or.mpr ⟨hcapturing, hclosing⟩)).trans ?_)
        rw [show o.start = start from rfl, hsome]
      have hcounted : sessionCounted source s = { s with dir := counted } := if_neg hsource
      rw [← hcounted]
      exact hreads (some e) first hfirst
    · intro newest follows
      have hlive : ∀ st, liveFirst s.log start (decide (f.toNat = 1)) = st → openFirst s o = match st with
          | none => .error .notFound
          | some f => .ok (none, f) := fun st hst => (openFirst_live hsource).trans (by rw [← hst])
      have hcounted : sessionCounted source s = s := if_pos hsource
      have hreadsLive : ∀ first, liveFirst s.log start (decide (f.toNat = 1)) = some first → reads (slot first) s := by
        intro first hfirst
        have := hreads none first (hlive _ hfirst)
        rw [hcounted] at this
        exact this
      have hnotYes : f = 0 → decide (f.toNat = 1) = false := fun hf => by rw [hf]; rfl
      have hyesFollow : f = 1 → decide (f.toNat = 1) = true := fun hf => by rw [hf]; rfl
      refine ⟨fun hstart hlisted => ⟨fun hf => ?_, fun hf => ?_⟩, fun b rest first hstart hlisted hseq => ?_,
        fun hstart => ⟨fun b bound hlocated => ?_, fun hlocated => ?_, fun hlocated => ⟨fun hf hnext => ?_, fun hnot => ?_⟩⟩⟩
      · refine hrefused _ (hlive none ?_)
        simp [liveFirst, hstart, oldestAvailable, hlisted, hnotYes hf]
      · refine hfollows (newest + 1) hsource hf (Nat.lt_succ_self _) (hlive (some (newest + 1)) ?_)
        simp [liveFirst, hstart, oldestAvailable, hlisted, hyesFollow hf, newest]
      · refine hreadsLive first ?_
        simp [liveFirst, hstart, oldestAvailable, hlisted, hseq]
      · refine hreadsLive start ?_
        simp [liveFirst, hstart, hlocated]
      · refine hrefused _ (hlive none ?_)
        simp [liveFirst, hstart, hlocated]
      · refine hfollows start hsource hf (by omega) (hlive (some start) ?_)
        rw [liveFirst, if_neg hstart, hlocated]
        exact if_pos ⟨hyesFollow hf, hnext⟩
      · refine hrefused _ (hlive none ?_)
        rw [liveFirst, if_neg hstart, hlocated]
        refine if_neg ?_
        rintro ⟨hf, hnext⟩
        exact hnot.elim (fun hzero => absurd (hf.symm.trans (hnotYes hzero)) (by decide)) (fun hne => hne hnext)

end Sys2Proof.Machine
end

section
/-! PROOF. What a session does with the page that it has read (07, R129 to R133), Locate and the cursor (R81, R129). -/

set_option Elab.async false

namespace Sys2Proof.Machine

variable {s t u v : State} {i : SessionId} {x y z : Session} {b p c q : Nat}

/-! ### Locate (R81) -/

section Locating

variable {l : LogManager} {n : Nat}

theorem locate_beyond (h : l.lastCommitted < n) : locate l n = .beyond := if_pos h

theorem locate_notAvailable (hbelow : n ≤ l.lastCommitted) (h : ∀ b ∈ listedBlocks l, n < firstSeqOf l b) :
    locate l n = .notAvailable := by
  have hnone : (listedBlocks l).filter (fun b => decide (firstSeqOf l b ≤ n)) = [] := by
    rw [List.filter_eq_nil_iff]
    intro b hb
    simpa using h b hb
  rw [locate, if_neg (Nat.not_lt.mpr hbelow), lastAtOrBelow, hnone]
  rfl

theorem blockAfter_append {pre post : List Nat} (h : b ∉ pre) : blockAfter b (pre ++ b :: post) = post.head? := by
  induction pre with
  | nil => simp [blockAfter]
  | cons c rest ih =>
    rw [List.cons_append, blockAfter, if_neg (fun hcb : c = b => h (hcb ▸ List.mem_cons_self ..)),
      ih (fun hmem => h (List.mem_cons_of_mem c hmem))]

/-- The last listed block that begins at or below a sequence holds it, up to the block behind. -/
theorem locate_block {pre post : List Nat} (hbelow : n ≤ l.lastCommitted) (hlisted : listedBlocks l = pre ++ b :: post)
    (honce : (listedBlocks l).Nodup) (hfirst : firstSeqOf l b ≤ n) (hbehind : ∀ c ∈ post, n < firstSeqOf l c) :
    locate l n = .block b (post.head?.elim l.lastCommitted (fun c => firstSeqOf l c - 1)) := by
  have hnew : b ∉ pre := by
    rw [hlisted] at honce
    intro hmem
    exact (List.nodup_append.mp honce).2.2 b hmem b (List.mem_cons_self ..) rfl
  have hnone : post.filter (fun c => decide (firstSeqOf l c ≤ n)) = [] := by
    rw [List.filter_eq_nil_iff]
    intro c hc
    simpa using hbehind c hc
  have hlast : lastAtOrBelow l n (listedBlocks l) = some b := by
    rw [lastAtOrBelow, hlisted, List.filter_append, List.filter_cons_of_pos (by simpa using hfirst), hnone]
    simp
  rw [locate, if_neg (Nat.not_lt.mpr hbelow), hlast]
  dsimp only
  rw [upperBound, hlisted, blockAfter_append hnew]
  cases post <;> rfl

end Locating

/-! ### The cursor (R129) -/

section Cursor

variable {blocks : List Nat} {n m : Nat}

theorem mem_withPositions : (q, b) ∈ withPositions n blocks ↔ n ≤ q ∧ blocks[q - n]? = some b := by
  induction blocks generalizing n with
  | nil => simp [withPositions]
  | cons c rest ih =>
    rw [withPositions, List.mem_cons, ih]
    by_cases hq : q = n
    · subst hq
      have hpast : ¬ q + 1 ≤ q := Nat.not_succ_le_self q
      simp [hpast, eq_comm]
    · have hstep : n + 1 ≤ q ∧ rest[q - (n + 1)]? = some b ↔ n ≤ q ∧ (c :: rest)[q - n]? = some b := by
        by_cases hle : n ≤ q
        · have hsub : q - n = (q - (n + 1)) + 1 := by omega
          rw [hsub, List.getElem?_cons_succ]
          exact and_congr_left (fun _ => by omega)
        · exact iff_of_false (fun h => hle (by omega)) (fun h => hle h.1)
      rw [hstep]
      simp [hq]

theorem withPositions_append (xs ys : List Nat) :
    withPositions n (xs ++ ys) = withPositions n xs ++ withPositions (n + xs.length) ys := by
  induction xs generalizing n with
  | nil => rfl
  | cons c rest ih =>
    rw [List.cons_append, withPositions, ih, withPositions, List.cons_append, List.length_cons]
    congr 3
    omega

/-- A list split at one of its positions. -/
theorem withPositions_split (h : blocks[q]? = some b) : withPositions 0 blocks
    = withPositions 0 (blocks.take q) ++ (q, b) :: withPositions (q + 1) (blocks.drop (q + 1)) := by
  obtain ⟨hlt, hget⟩ := List.getElem?_eq_some_iff.mp h
  have hsplit : blocks = blocks.take q ++ b :: blocks.drop (q + 1) := by
    rw [← hget, ← List.drop_eq_getElem_cons hlt, List.take_append_drop]
  have hlength : (blocks.take q).length = q := by rw [List.length_take]; omega
  conv => lhs; rw [hsplit]
  rw [withPositions_append, hlength, Nat.zero_add, withPositions]

variable {l : LogManager} {pos next : Nat}

/-- Whether the cursor may move to a place of the list. -/
def cursorFits (l : LogManager) (pos next : Nat) (x : Nat × Nat) : Bool :=
  decide (pos ≤ x.1) && usableBlock l x.2 && decide (firstSeqOf l x.2 ≤ next)

theorem cursorFits_iff : cursorFits l pos next (q, b) = true
    ↔ pos ≤ q ∧ ∃ f, (blockEntry l b).firstSeq = some f ∧ f ≤ next := by
  cases hfirst : (blockEntry l b).firstSeq <;> simp [cursorFits, usableBlock, firstSeqOf, hfirst]

theorem cursorBlock_last (hget : blocks[q]? = some b) (hfits : cursorFits l pos next (q, b) = true)
    (hbehind : ∀ r c, q < r → blocks[r]? = some c → ¬ cursorFits l pos next (r, c) = true) :
    cursorBlock l blocks pos next = some (q, b) := by
  have hnone : (withPositions (q + 1) (blocks.drop (q + 1))).filter (cursorFits l pos next) = [] := by
    rw [List.filter_eq_nil_iff]
    rintro ⟨r, c⟩ hmem
    obtain ⟨hle, hc⟩ := mem_withPositions.mp hmem
    refine hbehind r c hle ?_
    rw [← hc, List.getElem?_drop]
    congr 1
    omega
  change ((withPositions 0 blocks).filter (cursorFits l pos next)).getLast? = _
  rw [withPositions_split hget, List.filter_append, List.filter_cons_of_pos hfits, hnone]
  simp

theorem cursorBlock_none (h : ∀ q b, blocks[q]? = some b → ¬ cursorFits l pos next (q, b) = true) :
    cursorBlock l blocks pos next = none := by
  have hnone : (withPositions 0 blocks).filter (cursorFits l pos next) = [] := by
    rw [List.filter_eq_nil_iff]
    rintro ⟨q, b⟩ hmem
    exact h q b (mem_withPositions.mp hmem).2
  change ((withPositions 0 blocks).filter (cursorFits l pos next)).getLast? = _
  rw [hnone]
  rfl

theorem nextUsable_first (hget : blocks[q]? = some b) (hpos : pos < q) (husable : (blockEntry l b).firstSeq ≠ none)
    (hbefore : ∀ r c, pos < r → r < q → blocks[r]? = some c → (blockEntry l c).firstSeq = none) :
    nextUsable l blocks pos = some (q, b) := by
  rw [nextUsable, withPositions_split hget, List.find?_append]
  have hnone : (withPositions 0 (blocks.take q)).find? (fun x => decide (pos < x.1) && usableBlock l x.2) = none := by
    rw [List.find?_eq_none]
    rintro ⟨r, c⟩ hmem
    obtain ⟨-, hc⟩ := mem_withPositions.mp hmem
    rw [Nat.sub_zero, List.getElem?_take] at hc
    obtain ⟨hlt, hget'⟩ := Option.ite_none_right_eq_some.mp hc
    by_cases hr : pos < r
    · simp [usableBlock, hbefore r c hr hlt hget']
    · simp [hr]
  rw [hnone, Option.none_or, List.find?_cons_of_pos]
  simp [usableBlock, hpos, Option.isSome_iff_ne_none, husable]

theorem nextUsable_none (h : ∀ q b, blocks[q]? = some b → pos < q → (blockEntry l b).firstSeq = none) :
    nextUsable l blocks pos = none := by
  rw [nextUsable, List.find?_eq_none]
  rintro ⟨q, b⟩ hmem
  by_cases hq : pos < q
  · simp [usableBlock, h q b (mem_withPositions.mp hmem).2 hq]
  · simp [hq]

end Cursor

/-! ### Fetch steps of a session in its slot -/

/-- A fetch step that reads leaves of the session what its end would tell. -/
theorem FetchReads.same (h : FetchReads s x y b p) : SameEnd x y := by
  obtain ⟨-, -, -, -, ⟨-, -, e, pos, -, hcase⟩ | ⟨-, -, bound, hcase⟩⟩ := h
  · obtain ⟨-, -, rfl⟩ | ⟨q, c, -, -, -, -, -, rfl⟩ := hcase <;> exact ⟨rfl, rfl, rfl, rfl, rfl, rfl, rfl, rfl, rfl⟩
  · obtain ⟨-, -, rfl⟩ | ⟨c, k, -, -, -, -, -, -, -, rfl⟩ := hcase <;> exact ⟨rfl, rfl, rfl, rfl, rfl, rfl, rfl, rfl, rfl⟩

theorem fetchOf_slot : fetchOf (t.setSession i x).log (t.setSession i x).dir ((t.setSession i x).session i)
    = fetchOf t.log t.dir x := by
  cases i <;> rfl

theorem fetchStep_slot_reads (h : FetchReads t x y b p) (hready : t.seqr.part = .ready) (hfree : t.arr.running = none)
    (halone : ArrayAlone t.arr) : fetchStep i (t.setSession i x) = readOut i y b p t := by
  obtain ⟨hlog, harr, -⟩ := setSession_log i t x
  have hrange := h
  obtain ⟨-, hlow, hhigh, hp, -⟩ := hrange
  rw [fetchStep_read (fetchOf_slot.trans (fetchOf_reads h)) (by rw [setSession_own]; exact hready)
    (by rw [harr]; exact hfree) (by rw [harr]; exact halone) hlow hhigh hp, readOut_setSession]

/-- A read of a block whose erase runs ends the session OVERTAKEN (R46). -/
theorem fetchStep_slot_erasing (h : FetchReads t x y b p) (herase : runningErase t.arr b = true)
    (hstate : x.state = .fetching) (hclear : SessionClear i (t.setSession i x)) (hroom : LocalRoom x.port t) :
    fetchStep i (t.setSession i x) = sessionEnded i y .overtaken t := by
  obtain ⟨-, harr, -⟩ := setSession_log i t x
  have hrange := h
  obtain ⟨-, hlow, hhigh, hp, -⟩ := hrange
  have hsame : SameEnd x y := FetchReads.same h
  have hreading : x.reading = false := by simpa only [session_setSession] using hclear.2.1
  have hslot : ({ y with state := .fetching, reading := false } : Session) = y := by
    rw [← hstate, ← hsame.state, ← hreading, ← hsame.reading]
  rw [fetchStep_erasing (fetchOf_slot.trans (fetchOf_reads h)) (by rw [harr]; exact herase) hlow hhigh hp,
    setSession_setSession, hslot, endSession_slot (by rw [sessionOpen, hsame.state, hstate]; rfl) (hclear.same hsame)
      (hsame.port ▸ hroom)]

theorem fetchStep_slot_ends {why : EndReason} (h : FetchEnds t x why) (hstate : x.state = .fetching)
    (hclear : SessionClear i (t.setSession i x)) (hroom : LocalRoom x.port t) :
    fetchStep i (t.setSession i x) = sessionEnded i x why t := by
  have hslot := session_setSession i t x
  have hends : FetchEnds (t.setSession i x) ((t.setSession i x).session i) why := by
    rw [hslot]
    cases i <;> exact h
  rw [fetchStep_ends hends (by rw [hslot, sessionOpen, hstate]; rfl) hclear
    (by rw [hslot, LocalRoom, port_setSession]; exact hroom), hslot, sessionEnded_setSession]

theorem fetchStep_slot_follows (hsource : x.source = 0) (hlimit : x.limit = 0 ∨ x.delivered < x.limit)
    (hend : t.log.lastCommitted < x.nextSeq) (hfollow : x.follow = true) :
    fetchStep i (t.setSession i x) = t.setSession i { x with state := .following } := by
  rw [fetchStep_follow (fetchOf_slot.trans (fetchOf_follows hsource hlimit hend hfollow)), setSession_setSession]

/-! ### The result of a session's read (R131) -/

theorem sessionRead_ending {r : ReadResult} (hstate : (t.session i).state = .ending)
    (hreason : (t.session i).endReason = none) (hoffered : (t.session i).offered ≠ .endFrame) :
    sessionRead i r t = t.setSession i Session.initial := by
  have hclosed : ¬ sessionOpen { t.session i with reading := false } = true := by simp [sessionOpen, hstate]
  unfold sessionRead
  dsimp only
  rw [sessionChange_eq, session_setSession, if_neg hclosed]
  exact freeIfDone_done i _ hstate rfl hreason hoffered

theorem sessionRead_fetching {r : ReadResult} (hstate : (t.session i).state = .fetching) (hr : r ≠ .erasing)
    (hz : z = takePage { t.session i with reading := false } r) : sessionRead i r t =
      if z.buffer = [] then fetchStep i (t.setSession i z)
      else if z.credit = 0 then t.setSession i { z with state := .stalled }
      else deliverAll i (t.setSession i { z with state := .delivering }) := by
  have hopen : sessionOpen { t.session i with reading := false } = true := by simp [sessionOpen, hstate]
  unfold sessionRead
  dsimp only
  rw [sessionChange_eq, session_setSession, if_pos hopen]
  cases r with
  | erasing => exact absurd rfl hr
  | _ => rw [← hz, setSession_setSession, setSession_setSession, setSession_setSession]

theorem framePlaced_setSession {recs : List Record} (hport : x.port = y.port) (hstation : x.station = y.station)
    (hpoint : x.point = y.point) : framePlaced i recs (t.setSession i x)
      = (enqueued y.port (.session i) (dataFrame t.seqr.own y.station i (skipFlag y recs) recs) t).setSession i x := by
  have hskip : skipFlag x recs = skipFlag y recs := by
    cases recs with
    | nil => rfl
    | cons r rest => rw [skipFlag, skipFlag, hpoint]
  rw [framePlaced, session_setSession, hport, hstation, hskip, setSession_own, enqueued_setSession]

/-! ### READ_PAGE_END of a session's read -/

/-- The array behind an operation with nothing else to do: an erase that was suspended runs again. -/
def arrayResumed (e : Option Suspended) (s : State) : State := s.setArr { s.arr with
  suspended := none,
  running := e.map (fun z => { who := z.who, req := .erase z.block, count := z.count, reached := z.reached }) }

theorem arrayFree_resumed {e : Option Suspended} (halone : ArrayAlone { s.arr with suspended := none })
    (hsuspended : s.arr.suspended = e) (hready : e ≠ none → s.seqr.part = .ready) :
    arrayFree s = arrayResumed e s := by
  obtain ⟨-, hjournal, hlog, hahead, hone, htwo, hseqr⟩ := halone
  cases e with
  | none =>
    rw [arrayFree_alone ⟨hsuspended, hjournal, hlog, hahead, hone, htwo, hseqr⟩]
    change _ = s.setArr { s.arr with suspended := none, running := none }
    rw [← hsuspended]
  | some z =>
    let u : State := s.setArr { s.arr with running := none }
    have hwaits : waitingProgram u.arr u.arr.journal = none ∧ waitingProgram u.arr u.arr.logWriter = none := by
      constructor
      · rw [show u.arr.journal = none from hjournal, waitingProgram_none]
      · rw [show u.arr.logWriter = none from hlog, waitingProgram_none]
    have hreads : sessionChoice u.arr = none := by
      simp only [sessionChoice, show u.arr.session1 = none from hone, show u.arr.session2 = none from htwo,
        waitingRead_none]
    have hnext : nextChoice (decide (u.seqr.part = .mounting)) u.arr = .resume z := by
      rw [not_mounting_of_ready (s := u) (hready (Option.some_ne_none z)),
        nextChoice_erases hwaits.1 hwaits.2 hreads, show u.arr.suspended = some z from hsuspended]
    exact arrayChoose_resume hnext

/-- `u` is `t` but for a session, the ports and what runs at the array, no log program. -/
structure SessionsMoved (t u : State) : Prop where
  seqr : u.seqr = t.seqr
  log : u.log = t.log
  packer : u.packer = t.packer
  mgmt : u.mgmt = t.mgmt
  program : logProgramOut u.arr = logProgramOut t.arr

theorem SessionsMoved.refl (t : State) : SessionsMoved t t := ⟨rfl, rfl, rfl, rfl, rfl⟩

theorem SessionsMoved.setSession (h : SessionsMoved t u) (x : Session) : SessionsMoved t (u.setSession i x) := by
  obtain ⟨hseqr, hlog, hpacker, hmgmt, hprogram⟩ := h
  cases i <;> exact ⟨hseqr, hlog, hpacker, hmgmt, hprogram⟩

theorem SessionsMoved.enqueued (q : Port) (who : Producer) (bytes : Bytes) :
    SessionsMoved t (enqueued q who bytes t) := by
  cases q <;> exact ⟨rfl, rfl, rfl, rfl, rfl⟩

theorem SessionsMoved.setDir (h : SessionsMoved t u) (d : Directory) : SessionsMoved t (u.setDir d) := by
  obtain ⟨hseqr, hlog, hpacker, hmgmt, hprogram⟩ := h
  exact ⟨hseqr, hlog, hpacker, hmgmt, hprogram⟩

theorem SessionsMoved.ended (why : EndReason) : SessionsMoved t (sessionEnded i y why t) :=
  ((SessionsMoved.enqueued ..).setDir _).setSession _

theorem SessionsMoved.readOut (h : SessionsMoved t u) (hfree : u.arr.running = none) (halone : ArrayAlone u.arr) :
    SessionsMoved t (readOut i y b p u) := by
  obtain ⟨hseqr, hlog, hpacker, hmgmt, hprogram⟩ := h
  have hnone : logProgramOut t.arr = false := hprogram.symm.trans (logProgramOut_free hfree halone)
  have hwriter : u.arr.logWriter = none := halone.2.2.1
  have hread (a : ArrayCtl) (hout : logProgramOut a = logProgramOut t.arr) : SessionsMoved t { u with arr := a } :=
    ⟨hseqr, hlog, hpacker, hmgmt, hout⟩
  refine (hread _ ?_).setSession _
  rw [hnone]
  simp [logProgramOut, hwriter]

/-- What a read leaves of the sessions gives the Log Writer nothing to do. -/
theorem SessionsMoved.settle (h : SessionsMoved t u) (hstop : NoStop t) (hquiet : LogQuiet t) : settle u = u := by
  refine settle_quiet (hstop.carry h.mgmt) ?_
  rw [LogQuiet, h.seqr, h.log, h.program, waitingBuffer, h.program, h.packer]
  exact hquiet

theorem exec_readPageEnd_session {r : Running} (hrun : s.arr.running = some r) (hwho : r.who = .session i)
    (hreq : r.req = .read b p) (hfree : arrayFree s = t) :
    exec .readPageEnd s = .next (settle (sessionRead i (readPage s.store b p) t)) := by
  change execReadPageEnd s = _
  rw [execReadPageEnd, hrun]
  dsimp only
  rw [hreq, hwho]
  dsimp only
  rw [hfree]
  rfl

theorem readPage_ne_erasing (store : List (Nat × Page)) : readPage store b p ≠ .erasing := by
  rw [readPage]
  split
  · exact nofun
  · split
    · exact nofun
    · split
      · exact nofun
      · exact nofun

/-- What a page that gives no record leaves of the session. -/
theorem takePage_passed {store : List (Nat × Page)} (hbuffer : x.buffer = [])
    (h : (z = { x with page := x.page + 1, reading := false }
        ∧ ∀ g, pageAt store b p = some g → g.mark ≠ .present ∨ g.headerFlaw ≠ 0)
      ∨ ∃ g n, pageAt store b p = some g ∧ g.mark = .present ∧ g.headerFlaw = 0
        ∧ z = { x with nextSeq := max x.nextSeq n, page := x.page + 1, reading := false }
        ∧ ((g.dataFlaw ≠ 0 ∧ n = g.header.firstSeq + g.header.count)
          ∨ g.dataFlaw = 0 ∧ ∃ recs last, g.data = .log recs ∧ recs.getLast? = some last ∧ n = last.seq + 1
            ∧ ∀ r ∈ recs, x.nextSeq ≤ r.seq → ∃ k, x.endPoint = some k ∧ k < r.seq)) :
    z = takePage { x with reading := false } (readPage store b p) ∧ z.buffer = [] := by
  obtain ⟨rfl, hpassed⟩ | ⟨g, n, hpage, hmark, hheader, rfl, hdata⟩ := h
  · refine ⟨?_, hbuffer⟩
    cases hpage : pageAt store b p with
    | none =>
      rw [readPage_blank hpage]
      rfl
    | some g =>
      rw [readPage, hpage]
      dsimp only
      rw [if_pos (hpassed g hpage)]
      rfl
  · refine ⟨?_, hbuffer⟩
    have hsound : ¬ (g.mark ≠ .present ∨ g.headerFlaw ≠ 0) := by simp [hmark, hheader]
    rw [readPage, hpage]
    dsimp only
    rw [if_neg hsound]
    obtain ⟨hflaw, rfl⟩ | ⟨hflaw, recs, last, hlog, hlast, rfl, hbeyond⟩ := hdata
    · rw [if_pos hflaw]
      rfl
    · have hnone : loadRecords { x with reading := false } recs = [] := by
        have hwanted : recs.filter (fun r => decide (x.nextSeq ≤ r.seq) && (match x.endPoint with
            | none => true
            | some e => decide (r.seq ≤ e))) = [] := by
          rw [List.filter_eq_nil_iff]
          intro r hr
          by_cases hbelow : x.nextSeq ≤ r.seq
          · obtain ⟨k, hend, hk⟩ := hbeyond r hr hbelow
            simp [hend, hk]
          · simp [hbelow]
        unfold loadRecords
        dsimp only
        split
        · exact hwanted
        · exact (congrArg _ hwanted).trans List.take_nil
      rw [if_neg (not_not_intro hflaw), hlog, takePage, hnone, afterPage, hlast, hbuffer]
      rfl

/-- Settles O32: by what the array leaves, what the page gives the session, and what its fetch step then decides. -/
theorem sessionsTakeThePageTheyRead : Obligations.SessionsTakeThePageTheyRead := by
  unfold Obligations.SessionsTakeThePageTheyRead
  refine ⟨fun i b p r e s hrun hwho hreq halone hsuspended hready hstop => ?read, ?located, ?cursor⟩
  case read =>
    intro y t hquiet
    have hexec := exec_readPageEnd_session hrun hwho hreq (arrayFree_resumed halone hsuspended hready)
    have hslot : (arrayResumed e s).session i = y := by cases i <;> rfl
    have hend : ∀ u, SessionsMoved t u → sessionRead i (readPage s.store b p) (arrayResumed e s) = u →
        exec .readPageEnd s = .next u := by
      intro u hmoved hread
      rw [hexec, hread, hmoved.settle (hstop.carry rfl) hquiet]
    have hfree : e = none → t.arr.running = none ∧ ArrayAlone t.arr := by
      rintro rfl
      obtain ⟨-, halone⟩ := halone
      exact ⟨rfl, rfl, halone⟩
    refine ⟨fun hstate hreason hoffered => ?_, fun g recs last hstate hpage hmark hheader hflaw hdata hlast => ?loaded,
      fun z hstate hbuffer hpassed => ?passed⟩
    · refine hend _ ((SessionsMoved.refl t).setSession _) ?_
      exact sessionRead_ending (by rw [hslot]; exact hstate) (by rw [hslot]; exact hreason) (by rw [hslot]; exact hoffered)
    case loaded =>
      intro wanted loaded z
      have hread : readPage s.store b p = .committed g.header (storedChecks g) (.log recs) := by
        rw [readPage, hpage]
        dsimp only
        rw [if_neg (by simp [hmark, hheader]), if_neg (by simp [hflaw]), hdata]
      have hz : z = takePage { (arrayResumed e s).session i with reading := false } (readPage s.store b p) := by
        rw [hread, hslot, takePage, afterPage, hlast]
        rfl
      have htaken := sessionRead_fetching (i := i) (by rw [hslot]; exact hstate) (readPage_ne_erasing s.store) hz
      refine ⟨fun hne hcredit => ?_, fun hseen hwaits hroom => ?delivers⟩
      · refine hend _ ((SessionsMoved.refl t).setSession _) ?_
        rw [htaken, if_neg hne, if_pos hcredit]
        rfl
      case delivers =>
        let x : Session := { z with state := .delivering }
        have hx : (t.setSession i x).session i = x := session_setSession ..
        have hwaits' : isWaiting ((t.setSession i x).session i).port (.session i) (t.setSession i x) = false := by
          rw [hx, isWaiting_setSession]
          exact hwaits
        have hroom' : LocalRoom ((t.setSession i x).session i).port (t.setSession i x) := by
          rw [hx, LocalRoom, port_setSession]
          exact hroom
        have hplaced (now : List Record) : framePlaced i now (t.setSession i x)
            = (enqueued y.port (.session i) (dataFrame s.seqr.own y.station i (skipFlag y now) now) t).setSession i x :=
          framePlaced_setSession rfl rfl rfl
        have hdelivers : loaded ≠ [] → 0 < y.credit →
            sessionRead i (readPage s.store b p) (arrayResumed e s) = deliverAll i (t.setSession i x) := by
          intro hne hcredit
          rw [htaken, if_neg hne, if_neg (Nat.ne_of_gt hcredit)]
          rfl
        refine ⟨fun now next more final hloaded hfinal hfit hover hcredit => ?_,
          fun final z1 c q hfinal hfit hcredit hnone hready' hreads => ?_⟩
        · refine hend _ ((SessionsMoved.enqueued ..).setSession _) ?_
          rw [hdelivers (by rw [hloaded]; simp) (by omega), deliverAll_stalls (now := now) (next := next) (more := more)
            (final := final) (by rw [hx]) (by rw [hx]; exact hseen) (by rw [hx]; exact hcredit) (by rw [hx]; exact hloaded) hfinal hfit
            hover hwaits' hroom', hplaced, setSession_setSession, hx]
        · obtain ⟨hrunning, hothers⟩ := hfree hnone
          have hmoved := SessionsMoved.enqueued (t := t) y.port (.session i)
            (dataFrame s.seqr.own y.station i (skipFlag y loaded) loaded)
          refine hend _ (hmoved.readOut ?_ ?_) ?_
          · cases y.port <;> exact hrunning
          · cases y.port <;> exact hothers
          rw [hdelivers (ne_nil_of_getLast? hfinal) hcredit, deliverAll_empties (final := final) (by rw [hx])
            (by rw [hx]; exact hseen) (by rw [hx]; exact hcredit) (by rw [hx]; exact hfinal) (by rw [hx]; exact hfit) hwaits' hroom', hx]
          change fetchStep i ((framePlaced i loaded (t.setSession i x)).setSession i _) = _
          rw [hplaced, setSession_setSession]
          refine fetchStep_slot_reads (by cases y.port <;> exact hreads) ?_ ?_ ?_
          · cases y.port <;> exact hready'
          · cases y.port <;> exact hrunning
          · cases y.port <;> exact hothers
    case passed =>
      obtain ⟨htake, hempty⟩ := takePage_passed hbuffer hpassed
      have hfetching : z.state = .fetching ∧ z.port = y.port := by
        obtain ⟨rfl, -⟩ | ⟨g, n, -, -, -, rfl, -⟩ := hpassed <;> exact ⟨hstate, rfl⟩
      obtain ⟨hzstate, hzport⟩ := hfetching
      have hstep : sessionRead i (readPage s.store b p) (arrayResumed e s) = fetchStep i (t.setSession i z) := by
        rw [sessionRead_fetching (z := z) (by rw [hslot]; exact hstate) (readPage_ne_erasing s.store) (by rw [hslot]; exact htake),
          if_pos hempty]
        rfl
      refine ⟨fun z1 c q hreads => ⟨fun hnone hready' => ?_, fun d hd hblock hclear hroom => ?_⟩,
        fun why hends hclear hroom => ?_, fun hsource hlimit hbeyond hfollow => ?_⟩
      · obtain ⟨hrunning, hothers⟩ := hfree hnone
        refine hend _ ((SessionsMoved.refl t).readOut hrunning hothers) ?_
        rw [hstep]
        exact fetchStep_slot_reads hreads hready' hrunning hothers
      · refine hend _ (SessionsMoved.ended _) ?_
        rw [hstep]
        have herase : runningErase t.arr c = true := by
          change runningErase { s.arr with running := e.map _ } c = true
          rw [hd]
          simp [runningErase, hblock]
        exact fetchStep_slot_erasing hreads herase hzstate (by cases i <;> exact hclear) (hzport.symm ▸ hroom)
      · refine hend _ (SessionsMoved.ended _) ?_
        rw [hstep]
        exact fetchStep_slot_ends hends hzstate (by cases i <;> exact hclear) (hzport.symm ▸ hroom)
      · refine hend _ ((SessionsMoved.refl t).setSession _) ?_
        rw [hstep]
        exact fetchStep_slot_follows hsource hlimit hbeyond hfollow
  case located =>
    intro l n listed first
    refine ⟨locate_beyond, fun hbelow h => locate_notAvailable hbelow h, fun pre c post hbelow hsplit honce hle hbehind => ?_⟩
    rw [locate_block hbelow hsplit honce hle hbehind]
    cases post <;> rfl
  case cursor =>
    intro l blocks pos next first
    refine ⟨fun q b f hget hpos hf hle hbehind => ?_, fun h => ?_,
      fun q b hget hpos husable hbefore => nextUsable_first hget hpos husable hbefore, fun h => nextUsable_none h⟩
    · refine cursorBlock_last hget (cursorFits_iff.mpr ⟨hpos, f, hf, hle⟩) ?_
      intro r c hr hc hfits
      obtain ⟨-, g, hg, hgle⟩ := cursorFits_iff.mp hfits
      exact absurd (hbehind r c g hr hc hg) (Nat.not_lt.mpr hgle)
    · refine cursorBlock_none ?_
      intro q b hget hfits
      obtain ⟨hpos, f, hf, hle⟩ := cursorFits_iff.mp hfits
      exact absurd (h q b f hget hpos hf) (Nat.not_lt.mpr hle)

end Sys2Proof.Machine
end

section
/-! PROOF. The Relay's queues, the ends of transmissions, withdrawals and the endings of local frames (08). -/

set_option Elab.async false

namespace Sys2Proof.Machine

variable {s t u v : State} {p : Port} {i : SessionId} {x y : Session} {who : Producer} {bytes : Bytes} {w : Waiter}

/-! ### The transmitter (R147, R149, R150) -/

/-- What a frame that has been sent tells its producer. -/
def sentEndings (p : Port) (sent : Transmission) : List Ending :=
  match sent.origin with
  | none => []
  | some f => [{ port := p, who := f.who, serial := f.serial, transmitted := true }]

theorem raiseSent_setPort {sent : Transmission} (q : PortState) : raiseSent p sent (s.setPort p q)
    = (s.setRaised { s.raised with endings := s.raised.endings ++ sentEndings p sent }).setPort p q := by
  obtain ⟨line, _ | f⟩ := sent
  · cases p <;> simp [raiseSent, sentEndings, State.setRaised, State.setPort]
  · cases p <;> rfl

/-- The port once the transmitter is free of the frame it has sent. -/
def sentFrom (q : PortState) : PortState := { q with
  tx := none, counters := { q.counters with sent := bump q.counters.sent } }

theorem refill_none {q : PortState} (h : q.waiting = []) : refill q = (q, none) := by
  rw [refill, h]
  exact ite_self _

theorem exec_transmissionEnd {sent : Transmission} (h : (s.port p).tx = some sent) : exec (.transmissionEnd p) s
    = .next (transmissionEndAt p sent s) := by
  change execTransmissionEnd p s = _
  rw [execTransmissionEnd, h]

theorem transmissionEnd_alone {sent : Transmission} (h : (s.port p).waiting = []) : transmissionEndAt p sent s
    = (s.setRaised { s.raised with endings := s.raised.endings ++ sentEndings p sent }).setPort p
        (startFrame (sentFrom (s.port p))) := by
  have hwaiting : (startFrame (sentFrom (s.port p))).waiting = [] :=
    (startFrame_frame (sentFrom (s.port p))).2.1.trans h
  unfold transmissionEndAt
  change (match (refill (startFrame (sentFrom (s.port p)))).2 with
    | none => raiseSent p sent (s.setPort p (refill (startFrame (sentFrom (s.port p)))).1)
    | some w => tellEntered p w (raiseSent p sent (s.setPort p (refill (startFrame (sentFrom (s.port p)))).1))) = _
  rw [refill_none hwaiting]
  exact raiseSent_setPort _

theorem transmissionEnd_moves {sent : Transmission} {f : LocalFrame} {fs : List LocalFrame} {ws : List Waiter}
    (hup : (s.port p).up = true) (hwaiting : (s.port p).waiting = w :: ws) (hlocal : (s.port p).localQ = f :: fs)
    (hlength : fs.length = 3) (hrelay : (s.port p).relayQ = []) : transmissionEndAt p sent s
      = tellEntered p w ((s.setRaised { s.raised with endings := s.raised.endings ++ sentEndings p sent }).setPort p
          { sentFrom (s.port p) with
            tx := some (localOnLine f), localQ := fs ++ [w.frame], waiting := ws, fair := 0 }) := by
  have hstart : startFrame (sentFrom (s.port p))
      = { sentFrom (s.port p) with tx := some (localOnLine f), localQ := fs, fair := 0 } :=
    startFrame_local_alone hup rfl hrelay hlocal
  have hrefill : refill (startFrame (sentFrom (s.port p))) = ({ sentFrom (s.port p) with
      tx := some (localOnLine f), localQ := fs ++ [w.frame], waiting := ws, fair := 0 }, some w) := by
    rw [hstart, refill]
    refine (if_pos (show fs.length < 4 by omega)).trans ?_
    change (match (s.port p).waiting with
      | [] => _
      | w :: ws => _) = _
    rw [hwaiting]
  unfold transmissionEndAt
  change (match (refill (startFrame (sentFrom (s.port p)))).2 with
    | none => raiseSent p sent (s.setPort p (refill (startFrame (sentFrom (s.port p)))).1)
    | some w => tellEntered p w (raiseSent p sent (s.setPort p (refill (startFrame (sentFrom (s.port p)))).1))) = _
  rw [hrefill]
  exact congrArg (tellEntered p w) (raiseSent_setPort _)

/-! ### What an entered frame's producer does -/

theorem mgmtEntered_replying {r : Request} {serial : Nat} {store restart : Bool} {opened : Option SessionId}
    (hcurrent : s.mgmt.current = some { req := r, stage := .replying serial bytes store opened restart }) :
    mgmtEntered serial s = thenNext (responseEntered
      { req := r, stage := .replying serial bytes store opened restart } serial bytes store opened restart s) := by
  rw [mgmtEntered, hcurrent]
  exact if_pos rfl

/-- The session that an answer opened, with its reply seen. -/
def openedSeen (opened : Option SessionId) (s : State) : State :=
  match opened with
  | none => s
  | some i => s.setSession i { s.session i with replySeen := true }

/-- The waiting answer has entered: it is stored if it is to be, the session it opened has its reply seen, and the unit is
IDLE or awaits the ending of a RESTART's answer. -/
theorem mgmtEntered_idle {r : Request} {serial : Nat} {store restart : Bool} {opened : Option SessionId}
    (hcurrent : s.mgmt.current = some { req := r, stage := .replying serial bytes store opened restart })
    (hqueue : s.mgmt.queue = [])
    (hopened : ∀ i, opened = some i → (s.session i).state = .fetching ∨ (s.session i).state = .following) :
    mgmtEntered serial s = (openedSeen opened s).setMgmt { s.mgmt with
      current := if restart = true then some { req := r, stage := .restartWait serial } else none,
      cache := if store = true
        then cacheStore s.mgmt.cache { station := r.src, code := r.code, tag := r.tag, bytes := bytes }
        else s.mgmt.cache } := by
  let c : Current := { req := r, stage := .replying serial bytes store opened restart }
  have hentered : responseEntered c serial bytes store opened restart s
      = if restart then (setStage c (.restartWait serial) (openedSeen opened (answerStored r bytes store s)), false)
        else (clearCurrent (openedSeen opened (answerStored r bytes store s)), true) := by
    cases opened with
    | none => rfl
    | some i =>
      have hseen : replySeen i (answerStored r bytes store s) = openedSeen (some i) (answerStored r bytes store s) :=
        replySeen_fetching (by rw [(answerStored_other bytes store).1]; exact hopened i rfl)
      rw [← hseen]
      rfl
  rw [mgmtEntered_replying hcurrent, hentered]
  have hstored : (openedSeen opened (answerStored r bytes store s)).mgmt.queue = [] := by
    rcases opened with _ | _ | _ <;> cases store <;> exact hqueue
  cases restart with
  | true => rcases opened with _ | _ | _ <;> cases store <;> rfl
  | false =>
    rw [if_neg Bool.false_ne_true, thenNext_clear hstored]
    rcases opened with _ | _ | _ <;> cases store <;> rfl

theorem sessionEntered_endFrame (hport : (s.session i).port = p) (hoffered : (s.session i).offered = .endFrame)
    (hstate : (s.session i).state = .ending) (hreading : (s.session i).reading = false)
    (hreason : (s.session i).endReason = none) : sessionEntered p i false s = s.setSession i Session.initial := by
  rw [sessionEntered]
  dsimp only
  rw [if_neg (not_not_intro hport), hoffered]
  dsimp only
  rw [if_neg Bool.false_ne_true, sessionChange_eq]
  exact freeIfDone_done i { s.session i with offered := .none } hstate hreading hreason nofun

/-- The session's last credit goes with the data frame that has entered, and records are left. -/
theorem sessionEntered_spent {n last : Nat} (hport : (s.session i).port = p)
    (hoffered : (s.session i).offered = .data n last) (hcredit : (s.session i).credit = 1)
    (hleft : (s.session i).buffer.drop n ≠ []) : sessionEntered p i false s = s.setSession i { s.session i with
      state := .stalled, idleTimer := true, credit := 0, delivered := min counterMax ((s.session i).delivered + n),
      point := last + 1, buffer := (s.session i).buffer.drop n, offered := .none } := by
  have hafter : afterFrame (spendCredit n last (s.session i)) = { s.session i with
      state := .stalled, idleTimer := true, credit := 0, delivered := min counterMax ((s.session i).delivered + n),
      point := last + 1, buffer := (s.session i).buffer.drop n, offered := .none } := by
    have hspent : (spendCredit n last (s.session i)).credit = 0 := by simp [spendCredit, hcredit]
    have hbuffer : (spendCredit n last (s.session i)).buffer ≠ [] := hleft
    rw [afterFrame, if_pos hspent, if_neg hbuffer, spendCredit, hcredit, bumpBy_eq]
  rw [sessionEntered]
  dsimp only
  rw [if_neg (not_not_intro hport), hoffered]
  dsimp only
  rw [if_neg Bool.false_ne_true, sessionChange_eq, hafter, session_setSession, if_neg hleft, deliverAll,
    deliver_not (by rw [session_setSession]; exact SessState.noConfusion)]

/-- Settles O18, by what the far port holds, and by what the freed transmitter takes. -/
theorem relayQueuesAndTheTransmitterMove : Obligations.RelayQueuesAndTheTransmitterMove := by
  unfold Obligations.RelayQueuesAndTheTransmitterMove
  refine ⟨fun p pre post bytes s hold => ?_, fun p s => ⟨fun hfree => ?_, fun sent hsent => ?_⟩⟩
  · intro far x t
    have htake : exec (.relayOffer p) s = .next (t.setPort far (relayTake x bytes)) := by
      change execRelayOffer p s = _
      rw [execRelayOffer, takeFirst_oldest (kind := fun y : Port × Bytes => y.1 = p) (fun y => decide_eq_true_iff) hold]
    rw [htake]
    have hplaces : Config.relayPlaces = 8 := rfl
    refine ⟨fun hdown => ?_, fun hup hfull => ?_, fun hup hroom => ?_⟩
    · rw [relayTake, if_pos hdown]
    · rw [relayTake, if_neg (ne_false_of_eq_true hup), hplaces, if_neg (Nat.not_lt.mpr hfull)]
    · rw [relayTake, if_neg (ne_false_of_eq_true hup), hplaces, if_pos hroom]
  · change execTransmissionEnd p s = _
    rw [execTransmissionEnd, hfree]
  · intro free t
    rw [exec_transmissionEnd hsent]
    refine ⟨fun hwaiting => congrArg _ (transmissionEnd_alone hwaiting), fun f fs w ws hup hwaiting hlocal hlength hrelay => ?_⟩
    intro moved
    have hmoved : transmissionEndAt p sent s = tellEntered p w moved :=
      transmissionEnd_moves hup hwaiting hlocal hlength hrelay
    have hsame : moved.mgmt = s.mgmt ∧ ∀ i, moved.session i = s.session i := by
      refine ⟨by cases p <;> rfl, fun i => by cases p <;> cases i <;> rfl⟩
    obtain ⟨hmgmt, hsession⟩ := hsame
    rw [hmoved]
    refine ⟨rfl, fun r bytes store opened restart hwho hcurrent hqueue hopened => ?_, fun i hwho hkept hport => ⟨?_, ?_⟩⟩
    · intro seen
      have hseen : openedSeen opened moved = seen := by
        cases opened with
        | none => rfl
        | some i => rw [openedSeen, hsession]
      have hentered := mgmtEntered_idle (s := moved) (hmgmt ▸ hcurrent) (hmgmt ▸ hqueue)
        (fun i hi => by rw [hsession]; exact hopened i hi)
      rw [tellEntered, hwho]
      dsimp only
      rw [hentered, hseen, hmgmt]
    · intro n last hoffered hcredit hleft
      rw [tellEntered, hwho]
      dsimp only
      rw [hkept, sessionEntered_spent (s := moved) (by rw [hsession]; exact hport) (by rw [hsession]; exact hoffered)
        (by rw [hsession]; exact hcredit) (by rw [hsession]; exact hleft), hsession]
    · intro hoffered hstate hreading hreason
      rw [tellEntered, hwho]
      dsimp only
      rw [hkept, sessionEntered_endFrame (s := moved) (by rw [hsession]; exact hport) (by rw [hsession]; exact hoffered)
        (by rw [hsession]; exact hstate) (by rw [hsession]; exact hreading) (by rw [hsession]; exact hreason)]

/-! ### Withdrawals (R148) -/

theorem takeWithdrawal_none {q : PortState} (h : ∀ w ∈ q.waiting, w.frame.who ≠ who ∨ w.withdrawn = false) :
    takeWithdrawal q who = none := by
  rw [takeWithdrawal, takeFirst_none]
  intro w hw
  rcases h w hw with h | h <;> simp [h]

theorem takeWithdrawal_oldest {q : PortState} {pre post : List Waiter}
    (h : Oldest (fun y : Waiter => y.frame.who = who ∧ y.withdrawn = true) q.waiting pre w post) :
    takeWithdrawal q who = some { q with waiting := pre ++ post } := by
  rw [takeWithdrawal, takeFirst_oldest (kind := fun y : Waiter => y.frame.who = who ∧ y.withdrawn = true) (by simp) h]

theorem LocalOffered.setSession (h : LocalOffered p who bytes t u) :
    LocalOffered p who bytes (t.setSession i x) (u.setSession i x) := by
  obtain ⟨hroom, rfl⟩ | ⟨hup, hfull, rfl⟩ | ⟨hdown, rfl⟩ := h
  · exact .inl ⟨by rw [LocalRoom, port_setSession]; exact hroom, by cases p <;> cases i <;> rfl⟩
  · exact .inr (.inl ⟨by rw [port_setSession]; exact hup, by rw [port_setSession]; exact hfull,
      by cases p <;> cases i <;> rfl⟩)
  · exact .inr (.inr ⟨by rw [port_setSession]; exact hdown, by cases p <;> cases i <;> rfl⟩)

theorem LocalOffered.session (h : LocalOffered p who bytes t u) : u.session i = t.session i := by
  obtain ⟨-, rfl⟩ | ⟨-, -, rfl⟩ | ⟨-, rfl⟩ := h <;> cases p <;> cases i <;> rfl

/-- What an offer answers. -/
theorem LocalOffered.verdict (h : LocalOffered p who bytes t u) : (offerLocal p who bytes t).2.1
    = if (t.port p).up = true ∧ 4 ≤ (t.port p).localQ.length then .waits
      else if (t.port p).up = true then .entered else .discarded := by
  obtain ⟨hroom, -⟩ | ⟨hup, hfull, -⟩ | ⟨hdown, -⟩ := h
  · rw [offerLocal_entered hroom, if_neg (fun hwaits => absurd hroom.2 (Nat.not_lt.mpr hwaits.2)), if_pos hroom.1]
  · rw [offerLocal_waits hup hfull, if_pos ⟨hup, hfull⟩]
  · rw [offerLocal_dropped hdown, if_neg (fun hwaits => by simp [hdown] at hwaits), if_neg (by simp [hdown])]

/-- An ENDING session places its end frame: it waits for room with it, or is FREE unless a read is outstanding. -/
theorem placeEnd_offered {why : EndReason} (hreason : x.endReason = some why) (hstate : x.state = .ending)
    (hseen : x.replySeen = true) (hwaits : isWaiting x.port (.session i) t = false) (hoffered : x.offered = .none)
    (h : LocalOffered x.port (.session i) (endFrame t.seqr.own i x why) t u) :
    placeEnd i (t.setSession i x) = u.setSession i
      (if (t.port x.port).up = true ∧ 4 ≤ (t.port x.port).localQ.length
        then { x with endReason := none, offered := .endFrame }
        else if x.reading = true then { x with endReason := none } else Session.initial) := by
  have hoffer := h.setSession (i := i) (x := x)
  have hstateOf := (offerLocal_offered hoffer).1
  have hverdict := hoffer.verdict
  have hslot : (u.setSession i x).session i = x := session_setSession ..
  rw [placeEnd, session_setSession, hreason]
  refine (if_pos ⟨hstate, hseen, (isWaiting_setSession ..).trans hwaits⟩).trans ?_
  rw [setSession_own]
  dsimp only
  rw [hverdict, hstateOf, port_setSession, sessionChange_eq, sessionChange_eq, hslot, setSession_setSession,
    setSession_setSession]
  have hends : freeIfDone i (u.setSession i { x with endReason := none })
      = u.setSession i (if x.reading = true then { x with endReason := none } else Session.initial) :=
    freeIfDone_ending i { x with endReason := none } hstate rfl (by rw [hoffered]; exact nofun)
  by_cases hwait : (t.port x.port).up = true ∧ 4 ≤ (t.port x.port).localQ.length
  · rw [if_pos hwait, if_pos hwait]
  · rw [if_neg hwait, if_neg hwait, ← hends]
    by_cases hup : (t.port x.port).up = true
    · rw [if_pos hup]
    · rw [if_neg hup]

theorem sessionWithdrawn_ending (hport : (t.session i).port = p) (hstate : (t.session i).state = .ending) :
    sessionWithdrawn p i t = placeEnd i (t.setSession i { t.session i with offered := .none }) := by
  rw [sessionWithdrawn, if_neg (not_not_intro hport), if_pos hstate, sessionChange_eq, sessionPlace,
    if_pos (by rw [session_setSession]; exact hstate)]

theorem sessionWithdrawn_nothing (h : (t.session i).port ≠ p ∨ (t.session i).state = .free) :
    sessionWithdrawn p i t = t := by
  by_cases hport : (t.session i).port ≠ p
  · rw [sessionWithdrawn, if_pos hport]
  · have hfree := h.resolve_left hport
    rw [sessionWithdrawn, if_neg hport, if_neg (by simp [hfree])]
    exact sessionPlace_quiet (by simp [hfree]) (by simp [hfree])

/-! ### Endings (R152) -/

theorem noticeKick_back (h : t.notice.queue ≠ [] ∧ t.notice.head = .queued ∧ t.notice.frame = none) :
    noticeKick t = offerHead t := if_pos h

theorem noticeKick_nothing (h : ¬ (t.notice.queue ≠ [] ∧ t.notice.head = .queued ∧ t.notice.frame = none)) :
    noticeKick t = t := if_neg h

/-- A head held back behind a frame that still waits stays so. -/
theorem noticeKick_held (h : isWaiting t.notice.settings.port .notice t = true) : noticeKick t = t := by
  by_cases hback : t.notice.queue ≠ [] ∧ t.notice.head = .queued ∧ t.notice.frame = none
  · obtain ⟨hqueue, hhead, hframe⟩ := hback
    rw [noticeKick_back ⟨hqueue, hhead, hframe⟩]
    refine (offerHead_held (t := t) (n := t.notice) hqueue h).trans ?_
    rw [← hhead, ← hframe]
    rfl
  · exact noticeKick_nothing hback

theorem noticeEnding_other {serial : Nat} {transmitted : Bool}
    (h : ¬ (t.notice.queue ≠ [] ∧ t.notice.head = .queued ∧ t.notice.frame = some serial)) :
    noticeEnding serial transmitted t = noticeKick t := if_neg h

theorem noticeEnding_mine {serial : Nat} {transmitted : Bool}
    (h : t.notice.queue ≠ [] ∧ t.notice.head = .queued ∧ t.notice.frame = some serial) :
    noticeEnding serial transmitted t = t.setNotice (if transmitted = true
      then { t.notice with
        attempts := t.notice.attempts + 1, head := .inFlight, frame := none, retry := some t.notice.settings.retry }
      else { t.notice with head := .parked, frame := none }) := by
  rw [noticeEnding]
  refine (if_pos h).trans ?_
  cases transmitted <;> rfl

theorem selectRequest_owner {q : Request} (hcached : q.cached = none) (hlength : paramLength q.code = some q.params.length)
    (hmanager : s.mgmt.managers = [] ∨ q.src ∈ s.mgmt.managers) (hpart : s.seqr.part ≠ .mounting) :
    selectRequest s q = .owner := by
  have hallowed : ¬ (s.mgmt.managers ≠ [] ∧ s.mgmt.managers.contains q.src = false ∧ q.code ≠ codeDiscover) := by
    rintro ⟨hne, hout, -⟩
    have hin : q.src ∈ s.mgmt.managers := hmanager.resolve_left hne
    simp [hin] at hout
  rw [selectRequest, hcached, hlength]
  dsimp only
  rw [if_neg hallowed, if_neg (fun h => hpart h.1), if_neg (not_not_intro rfl)]

/-- The request at the front of the queue is handed to its owner (R159, R160). -/
theorem nextRequest_owner {q : Request} {more : List Request} (hqueue : s.mgmt.queue = q :: more)
    (hselect : selectRequest (s.setMgmt { s.mgmt with queue := more, current := some { req := q, stage := .handed } }) q = .owner) :
    nextRequest s = s.setMgmt { s.mgmt with queue := more, current := some { req := q, stage := .handed } } := by
  rw [nextRequest, runRequests, hqueue]
  dsimp only
  rw [hselect]

/-- The session that an answer opened is lost with the answer. -/
def openedLost (opened : Option SessionId) (s : State) : State :=
  match opened with
  | none => s
  | some i => loseSession i s

theorem mgmtEnding_discarded {r : Request} {serial : Nat} {store : Bool} {opened : Option SessionId}
    (hcurrent : s.mgmt.current = some { req := r, stage := .replying serial bytes store opened false }) :
    mgmtEnding serial false s = nextRequest (clearCurrent (openedLost opened s)) := by
  rw [mgmtEnding, hcurrent]
  exact if_pos ⟨rfl, rfl⟩

/-- Endings that the unit does not wait for are no concern of it. -/
theorem mgmtEnding_other {serial : Nat} {transmitted : Bool} (h : ∀ c ∈ s.mgmt.current, c.stage ≠ .restartWait serial
    ∧ ∀ bytes store opened restart, c.stage = .replying serial bytes store opened restart → transmitted = true) :
    mgmtEnding serial transmitted s = s := by
  cases hcurrent : s.mgmt.current with
  | none => rw [mgmtEnding, hcurrent]
  | some c =>
    obtain ⟨hrestart, hreplying⟩ := h c hcurrent
    rw [mgmtEnding, hcurrent]
    dsimp only
    cases hstage : c.stage with
    | replying k bytes store opened restart =>
      dsimp only
      refine if_neg ?_
      rintro ⟨rfl, hlost⟩
      simp [hreplying bytes store opened restart hstage] at hlost
    | restartWait k =>
      dsimp only
      refine if_neg ?_
      rintro rfl
      exact hrestart hstage
    | _ => rfl

theorem exec_localFrameEnding {pre post : List Ending} {e : Ending}
    (h : Oldest (fun y : Ending => y.port = p ∧ y.who = e.who) s.raised.endings pre e post) :
    exec (.localFrameEnding p e.who) s
      = .next (settle (takeEnding e (s.setRaised { s.raised with endings := pre ++ post }))) := by
  change execLocalFrameEnding p e.who s = _
  rw [execLocalFrameEnding, takeFirst_oldest (kind := fun y : Ending => y.port = p ∧ y.who = e.who) (by simp) h]

/-- What the Notice Unit and its offers change gives the Log Writer nothing to do. -/
theorem settle_notice (hstop : NoStop s) (hquiet : LogQuiet s) (hmgmt : u.mgmt = s.mgmt) (hseqr : u.seqr = s.seqr)
    (hlog : u.log = s.log) (harr : u.arr = s.arr) (hpacker : u.packer = s.packer) : settle u = u :=
  settle_quiet (hstop.carry hmgmt) (hquiet.carry hseqr hlog harr (by rw [hpacker]) (by rw [hpacker]) (by rw [hpacker]))

/-- The first part of O20, on the withdrawals. -/
theorem frameWithdrawal_taken (p : Port) (who : Producer) (s : State) :
    let x := s.port p
    ((∀ w ∈ x.waiting, w.frame.who ≠ who ∨ w.withdrawn = false) → exec (.frameWithdrawal p who) s = .next s)
    ∧ ∀ (pre post : List Waiter) (w : Waiter),
      Oldest (fun y => y.frame.who = who ∧ y.withdrawn = true) x.waiting pre w post →
      exec (.frameWithdrawal p who) s = .next (tellWithdrawn p who (s.setPort p { x with waiting := pre ++ post })) := by
  refine ⟨fun h => ?_, fun pre post w hold => ?_⟩
  · change execFrameWithdrawal p who s = _
    rw [execFrameWithdrawal, takeWithdrawal_none h]
  · change execFrameWithdrawal p who s = _
    rw [execFrameWithdrawal, takeWithdrawal_oldest hold]

/-- Settles O20, by the producer that a withdrawal or an ending is told to. -/
theorem withdrawalsAndEndingsAreTaken : Obligations.WithdrawalsAndEndingsAreTaken := by
  unfold Obligations.WithdrawalsAndEndingsAreTaken
  refine ⟨fun p who s => ⟨(frameWithdrawal_taken p who s).1, fun pre post w hold => ?withdrawn⟩,
    fun p pre post e s hold hstop hquiet => ?ended⟩
  case withdrawn =>
    intro t back
    have hexec : exec (.frameWithdrawal p who) s = .next (tellWithdrawn p who t) :=
      (frameWithdrawal_taken p who s).2 pre post w hold
    have hsession : ∀ i, t.session i = s.session i := fun i => by cases p <;> cases i <;> rfl
    have hnotice : t.notice = s.notice := by cases p <;> rfl
    rw [hexec]
    refine ⟨fun hnoSession hnoNotice => ?_, fun i why u hwho hport hstate hreason hseen hwaits => ?_,
      fun v hwho hback hoffer => ?_⟩
    · cases who with
      | mgmt => rfl
      | session i => exact congrArg _ (sessionWithdrawn_nothing (by rw [hsession]; exact hnoSession i rfl))
      | notice => exact congrArg _ (noticeKick_nothing (by rw [hnotice]; exact hnoNotice rfl))
    · intro y hoffer
      have hown : t.seqr = s.seqr := by cases p <;> rfl
      subst hwho
      subst hport
      have hplaced := placeEnd_offered (i := i) (t := t) (u := u) (x := { y with offered := .none }) hreason hstate hseen
        hwaits rfl (by rw [hown]; exact hoffer)
      rw [tellWithdrawn, sessionWithdrawn_ending (by rw [hsession]) (by rw [hsession]; exact hstate), hsession]
      exact congrArg _ hplaced
    · subst hwho
      refine congrArg _ ((noticeKick_back (by rw [hnotice]; exact hback)).trans ?_)
      rw [← offerHead_offered hoffer, ← hnotice]
      rfl
  case ended =>
    intro t queued mine back
    have hexec := exec_localFrameEnding hold
    have hkept : ∀ u, u.mgmt = s.mgmt → u.seqr = s.seqr → u.log = s.log → u.arr = s.arr → u.packer = s.packer →
        takeEnding e t = u → exec (.localFrameEnding p e.who) s = .next u := by
      intro u hmgmt hseqr hlog harr hpacker htaken
      rw [hexec, htaken, settle_notice hstop hquiet hmgmt hseqr hlog harr hpacker]
    refine ⟨fun i hwho => ?_, fun hwho hother hnone => ?_, fun hwho hback hwaits hroom => ?_, fun hwho hmine hsent => ?_,
      fun hwho hmine hlost => ?_, fun hwho hother => ?_, fun r bytes store opened hwho hlost hcurrent hopened => ?discarded⟩
    · exact hkept t rfl rfl rfl rfl rfl (by rw [takeEnding, hwho])
    · refine hkept t rfl rfl rfl rfl rfl ?_
      rw [takeEnding, hwho]
      refine (noticeEnding_other (t := t) (fun h => hother (and_assoc.mpr h))).trans ?_
      exact hnone.elim (fun h => noticeKick_nothing (t := t) (fun hback => h (and_assoc.mpr hback))) (noticeKick_held (t := t))
    · obtain ⟨⟨hqueue, hhead⟩, hframe⟩ := hback
      obtain ⟨n, rest, hcons⟩ := List.exists_cons_of_ne_nil hqueue
      have hnot : ¬ mine := by
        rintro ⟨-, hsome⟩
        rw [hframe] at hsome
        exact absurd hsome (by simp)
      have hput : offerHead t = (enqueued s.notice.settings.port .notice
          (noticeFrame s.seqr.own s.notice (s.notice.queue.headD default)) t).setNotice
          { s.notice with frame := some s.serial, carried := s.notice.overflow } := by
        refine (offerHead_placed (t := t) (n := s.notice) hcons hwaits (.inl ⟨hroom, rfl⟩)).trans ?_
        rw [← hhead, show s.notice.queue.headD default = n by rw [hcons]; rfl]
        rfl
      refine hkept _ ?_ ?_ ?_ ?_ ?_ ?_
      · cases s.notice.settings.port <;> rfl
      · cases s.notice.settings.port <;> rfl
      · cases s.notice.settings.port <;> rfl
      · cases s.notice.settings.port <;> rfl
      · cases s.notice.settings.port <;> rfl
      rw [takeEnding, hwho]
      exact (noticeEnding_other (t := t) (fun h => hnot (and_assoc.mpr h))).trans ((noticeKick_back (t := t) ⟨hqueue, hhead, hframe⟩).trans hput)
    · refine hkept (t.setNotice _) rfl rfl rfl rfl rfl ?_
      rw [takeEnding, hwho]
      refine (noticeEnding_mine (t := t) (and_assoc.mp hmine)).trans ?_
      rw [if_pos hsent]
      rfl
    · refine hkept (t.setNotice _) rfl rfl rfl rfl rfl ?_
      rw [takeEnding, hwho]
      refine (noticeEnding_mine (t := t) (and_assoc.mp hmine)).trans ?_
      rw [if_neg (by simp [hlost])]
      rfl
    · refine hkept t rfl rfl rfl rfl rfl ?_
      rw [takeEnding, hwho]
      exact mgmtEnding_other (s := t) hother
    case discarded =>
      intro closed hquietClosed
      have hclosed : openedLost opened t = closed := by
        cases opened with
        | none => rfl
        | some i =>
          obtain ⟨hopen, hoffered⟩ := hopened i rfl
          have hsession : t.session i = s.session i := by cases i <;> rfl
          rw [openedLost, loseSession_open i (by rw [hsession]; exact hopen), hsession]
          rfl
      have hmgmt : closed.mgmt = s.mgmt := by
        rw [← hclosed]
        rcases opened with _ | i
        · rfl
        · rw [openedLost, loseSession_eq]
          split
          · cases i <;> rfl
          · cases i <;> rfl
      have hpart : closed.seqr = s.seqr := by
        rw [← hclosed]
        rcases opened with _ | i
        · rfl
        · rw [openedLost, loseSession_eq]
          split
          · cases i <;> rfl
          · cases i <;> rfl
      have htaken : takeEnding e t = nextRequest (clearCurrent closed) := by
        rw [takeEnding, hwho, hlost]
        dsimp only
        rw [mgmtEnding_discarded (s := t) hcurrent, hclosed]
      have hends : ∀ m : Management, (∀ c ∈ m.current, c.stage ≠ .stopping ∧ c.stage ≠ .draining) →
          settle (closed.setMgmt m) = closed.setMgmt m :=
        fun m hm => settle_quiet hm (hquietClosed.carry rfl rfl rfl rfl rfl rfl)
      rw [hexec, htaken]
      refine ⟨fun hempty => ?_, fun q more hqueue hcached hlength hmanager hready => ?_⟩
      · have hidle : nextRequest (clearCurrent closed) = clearCurrent closed :=
          nextRequest_idle (s := clearCurrent closed) (by rw [← hmgmt] at hempty; exact hempty)
        have hclear : clearCurrent closed = closed.setMgmt { s.mgmt with current := none } := by rw [← hmgmt]; rfl
        rw [hidle, hclear, hends _ (by simp)]
      · have hnext : nextRequest (clearCurrent closed) = closed.setMgmt { s.mgmt with
            queue := more, current := some { req := q, stage := .handed } } := by
          rw [← hmgmt] at hqueue hmanager ⊢
          rw [nextRequest_owner (s := clearCurrent closed) (q := q) (more := more) hqueue
            (selectRequest_owner hcached hlength hmanager (by simp [clearCurrent, hpart, hready]))]
          rfl
        rw [hnext, hends _ (by simp)]

end Sys2Proof.Machine
end

section
/-! PROOF. The arrival of requests and the Reply Cache (09, R156 to R162). -/

set_option Elab.async false

namespace Sys2Proof.Machine

variable {s t u : State} {p : Port} {r : Request} {st : Status} {result bytes : Bytes}

/-! ### The Reply Cache (R158) -/

section Cache

variable {cache older newer : List CacheEntry} {x : CacheEntry}

theorem others_filter (h : ∀ y ∈ cache, y.station ≠ x.station) :
    cache.filter (fun y => decide (y.station ≠ x.station)) = cache :=
  List.filter_eq_self.mpr (fun y hy => decide_eq_true (h y hy))

theorem cacheStore_kept {others : List CacheEntry}
    (hothers : cache.filter (fun y => decide (y.station ≠ x.station)) = others) (hroom : others.length < 8) :
    cacheStore cache x = others ++ [x] := by
  rw [cacheStore, hothers]
  exact congrArg (· ++ [x]) (if_pos hroom)

/-- The station's older entry goes. -/
theorem cacheStore_replaces {y : CacheEntry} (hcache : cache = older ++ y :: newer) (hstation : y.station = x.station)
    (hothers : ∀ z ∈ older ++ newer, z.station ≠ x.station) (hroom : (older ++ newer).length < 8) :
    cacheStore cache x = older ++ newer ++ [x] := by
  refine cacheStore_kept ?_ hroom
  rw [hcache, List.filter_append, List.filter_cons_of_neg (by simp [hstation]), ← List.filter_append]
  exact others_filter hothers

/-- The least recently used of eight goes for a ninth. -/
theorem cacheStore_full {y : CacheEntry} {rest : List CacheEntry} (hcache : cache = y :: rest)
    (hothers : ∀ z ∈ cache, z.station ≠ x.station) (hfull : rest.length = 7) : cacheStore cache x = rest ++ [x] := by
  rw [cacheStore, others_filter hothers]
  have hnoRoom : ¬ cache.length < 8 := by simp [hcache, hfull]
  refine congrArg (· ++ [x]) ((if_neg hnoRoom).trans ?_)
  rw [hcache]
  rfl

theorem cacheMatch_none (h : ∀ y ∈ cache, ¬ (y.station = r.src ∧ y.code = r.code ∧ y.tag = r.tag)) :
    cacheMatch cache r = none := by
  rw [cacheMatch, List.find?_eq_none]
  intro y hy
  simpa [and_assoc] using h y hy

/-- The station's only entry answers the request that it repeats. -/
theorem cacheMatch_repeat (hcache : cache = older ++ x :: newer)
    (hsame : x.station = r.src ∧ x.code = r.code ∧ x.tag = r.tag) (hothers : ∀ y ∈ older ++ newer, y.station ≠ r.src) :
    cacheMatch cache r = some x := by
  obtain ⟨hstation, hcode, htag⟩ := hsame
  have hnone : older.find? (fun y => decide (y.station = r.src) && decide (y.code = r.code) && decide (y.tag = r.tag)) = none := by
    rw [List.find?_eq_none]
    intro y hy
    simp [hothers y (List.mem_append_left _ hy)]
  rw [cacheMatch, hcache, List.find?_append, hnone, Option.none_or, List.find?_cons_of_pos]
  simp [hstation, hcode, htag]

end Cache

/-! ### Requests held (R157) -/

/-- A held request that the arriving one repeats. -/
abbrev HeldAs (r q : Request) : Prop := q.src = r.src ∧ q.tag = r.tag ∧ q.code = r.code ∧ q.broadcast = false

theorem sameRequest_iff {q : Request} : sameRequest r q = true ↔ HeldAs r q := by
  simp [sameRequest, and_assoc]

theorem alreadyHeld_iff {m : Management} :
    alreadyHeld m r = true ↔ (∃ q ∈ m.queue, HeldAs r q) ∨ ∃ c, m.current = some c ∧ HeldAs r c.req := by
  cases hcurrent : m.current <;> simp [alreadyHeld, hcurrent, sameRequest_iff]

/-! ### The start of an execution (R160) -/

section Selection

variable {n : Nat}

theorem selectRequest_known (hcached : r.cached = none) (hlength : paramLength r.code = some n) : selectRequest s r
    = if s.mgmt.managers ≠ [] ∧ s.mgmt.managers.contains r.src = false ∧ r.code ≠ codeDiscover then .answer .denied
      else if s.seqr.part = .mounting ∧ r.code ≠ codeDiscover ∧ r.code ≠ codeReadStatus then .answer .mounting
      else if r.params.length ≠ n then .answer .badLength
      else .owner := by
  rw [selectRequest, hcached, hlength]

/-- A station that the Manager List admits, or any one with a DISCOVER. -/
theorem not_denied (h : r.code = 1 ∨ s.mgmt.managers = [] ∨ r.src ∈ s.mgmt.managers) :
    ¬ (s.mgmt.managers ≠ [] ∧ s.mgmt.managers.contains r.src = false ∧ r.code ≠ codeDiscover) := by
  rintro ⟨hne, hout, hcode⟩
  rcases h with h | h | h
  · exact hcode h
  · exact hne h
  · simp [h] at hout

theorem not_mountingRefused (h : r.code = 1 ∨ s.seqr.part = .ready ∨ r.code = 2) :
    ¬ (s.seqr.part = .mounting ∧ r.code ≠ codeDiscover ∧ r.code ≠ codeReadStatus) := by
  rintro ⟨hpart, hdiscover, hstatus⟩
  rcases h with h | h | h
  · exact hdiscover h
  · simp [h] at hpart
  · exact hstatus h

theorem selectRequest_admitted (hcached : r.cached = none) (hlength : paramLength r.code = some n)
    (h : r.code = 1 ∨ (s.seqr.part = .ready ∨ r.code = 2) ∧ (s.mgmt.managers = [] ∨ r.src ∈ s.mgmt.managers)) :
    selectRequest s r = if r.params.length ≠ n then .answer .badLength else .owner := by
  rw [selectRequest_known hcached hlength, if_neg (not_denied (h.imp_right And.right)),
    if_neg (not_mountingRefused (h.imp_right And.left))]

theorem selectRequest_denied (hcached : r.cached = none) (hlength : paramLength r.code ≠ none) (hcode : r.code ≠ 1)
    (hlist : s.mgmt.managers ≠ []) (hout : r.src ∉ s.mgmt.managers) : selectRequest s r = .answer .denied := by
  obtain ⟨n, hn⟩ := Option.ne_none_iff_exists'.mp hlength
  rw [selectRequest_known hcached hn, if_pos ⟨hlist, by simpa using hout, hcode⟩]

theorem selectRequest_mounting (hcached : r.cached = none) (hlength : paramLength r.code ≠ none) (hdiscover : r.code ≠ 1)
    (hstatus : r.code ≠ 2) (hlist : s.mgmt.managers = [] ∨ r.src ∈ s.mgmt.managers) (hpart : s.seqr.part = .mounting) :
    selectRequest s r = .answer .mounting := by
  obtain ⟨n, hn⟩ := Option.ne_none_iff_exists'.mp hlength
  rw [selectRequest_known hcached hn, if_neg (not_denied (.inr hlist)), if_pos ⟨hpart, hdiscover, hstatus⟩]

theorem selectRequest_unknown (hcached : r.cached = none) (hlength : paramLength r.code = none) :
    selectRequest s r = .answer .unknownRequest := by
  rw [selectRequest, hcached, hlength]

end Selection

/-! ### Answers given at once (R161) -/

theorem runRequests_idle {n : Nat} (h : s.mgmt.queue = []) : runRequests n s = s := by
  cases n with
  | zero => rfl
  | succ n => rw [runRequests, h]

theorem storable_eq : storable r st
    = decide (st ≠ .denied ∧ st ≠ .mounting ∧ r.broadcast = false ∧ r.tag ≠ 0 ∧ r.cached = none) := by
  rw [Bool.eq_iff_iff]
  simp [storable, and_assoc]

/-- An answer waits for room. -/
theorem respond_waits (hcurrent : s.mgmt.current = some { req := r, stage := .handed }) (hup : (s.port r.port).up = true)
    (hfull : 4 ≤ (s.port r.port).localQ.length) : respond st result s
      = replying r st result s (joinedWaiting r.port .mgmt (responseFrame s.seqr.own r st result) s) := by
  rw [respond, answerWith, hcurrent]
  dsimp only
  rw [offerResponse, offerLocal_waits hup hfull]
  dsimp only
  rw [replying, ← storable_eq]
  cases r.port <;> rfl

/-- An answer is discarded by its port, and the unit waits for that report. -/
theorem respond_dropped (hcurrent : s.mgmt.current = some { req := r, stage := .handed })
    (hdown : (s.port r.port).up = false) :
    respond st result s = replying r st result s (offerDropped r.port .mgmt s) := by
  rw [respond, answerWith, hcurrent]
  dsimp only
  rw [offerResponse, offerLocal_dropped hdown]
  dsimp only
  rw [replying, ← storable_eq]
  cases r.port <;> rfl

/-- An answer opens no request of its own. -/
theorem offerResponse_queue {c : Current} {store : Bool} :
    (offerResponse c bytes store none false s).1.mgmt.queue = s.mgmt.queue := by
  have hoffer : ∀ q : Port, (offerLocal q .mgmt bytes s).1.mgmt = s.mgmt := by
    intro q
    unfold offerLocal
    dsimp only
    split <;> cases q <;> rfl
  have hkept := congrArg Management.queue (hoffer c.req.port)
  unfold offerResponse
  dsimp only
  split
  · rw [responseEntered]
    cases store <;> exact hkept
  · exact hkept
  · exact hkept

/-- A request that is answered at once, with none behind it. -/
theorem nextRequest_answered (hqueue : s.mgmt.queue = [r])
    (hselect : selectRequest (s.setMgmt { s.mgmt with queue := [], current := some { req := r, stage := .handed } }) r
      = .answer st) : nextRequest s = respond st []
        (countDenied st (s.setMgmt { s.mgmt with queue := [], current := some { req := r, stage := .handed } })) := by
  let t : State := countDenied st (s.setMgmt { s.mgmt with queue := [], current := some { req := r, stage := .handed } })
  let x := offerResponse { req := r, stage := .handed } (responseFrame s.seqr.own r st []) (storable r st) none false t
  have ht : t.mgmt.current = some { req := r, stage := .handed } ∧ t.mgmt.queue = [] ∧ t.seqr = s.seqr := by
    simp only [t, countDenied]
    split <;> exact ⟨rfl, rfl, rfl⟩
  obtain ⟨hcurrent, hempty, hseqr⟩ := ht
  have hx : x.1.mgmt.queue = [] := offerResponse_queue.trans hempty
  have hleft : nextRequest s = if x.2 then runRequests 1 x.1 else x.1 := by
    rw [nextRequest, hqueue]
    change runRequests 2 s = _
    rw [runRequests, hqueue]
    dsimp only
    rw [hselect]
  have hright : respond st [] t = thenNext x := by
    rw [respond, answerWith, hcurrent]
    dsimp only
    rw [hseqr]
  change nextRequest s = respond st [] t
  rw [hleft, hright, thenNext, runRequests_idle hx, nextRequest_idle hx]

/-- A request that is answered with its cached response, with none behind it (R157). -/
theorem nextRequest_copied (hqueue : s.mgmt.queue = [r]) (hcached : r.cached = some bytes) (hroom : LocalRoom r.port s) :
    nextRequest s = enqueued r.port .mgmt bytes (s.setMgmt { s.mgmt with
      queue := [], current := none, duplicates := min counterMax (s.mgmt.duplicates + 1) }) := by
  have hselect : ∀ v, selectRequest v r = .copy bytes := by
    intro v
    rw [selectRequest, hcached]
  let t : State := s.setMgmt { s.mgmt with
    queue := [], current := some { req := r, stage := .handed }, duplicates := bump s.mgmt.duplicates }
  have hoffer : offerResponse { req := r, stage := .handed } bytes false none false t
      = (clearCurrent (enqueued r.port .mgmt bytes t), true) := by
    rw [offerResponse, offerLocal_entered (t := t) hroom]
    rfl
  rw [nextRequest, hqueue]
  change runRequests 2 s = _
  rw [runRequests, hqueue]
  dsimp only
  rw [hselect]
  change (if (offerResponse { req := r, stage := .handed } bytes false none false t).2 then
    runRequests 1 (offerResponse { req := r, stage := .handed } bytes false none false t).1
    else (offerResponse { req := r, stage := .handed } bytes false none false t).1) = _
  rw [hoffer, if_pos rfl, runRequests_idle (by cases r.port <;> rfl), ← bump_eq]
  cases r.port <;> rfl

/-! ### Arrivals (R156, R157) -/

/-- An arriving frame that the unit can take for a request. -/
abbrev Readable (r : Request) (payload : Bytes) : Prop :=
  1 ≤ r.src.toNat ∧ r.src.toNat ≤ 250 ∧ 3 ≤ payload.length ∧ (r.broadcast = true → r.code = 1)

theorem arrive_unreadable (hr : readRequest p bytes = r) (h : ¬ Readable r (payloadOf bytes)) :
    arrive p bytes t = discardArrival t := by
  rw [arrive, hr]
  by_cases hstation : isStation r.src = false
  · rw [if_pos hstation]
  · rw [if_neg hstation]
    by_cases hshort : (payloadOf bytes).length < 3
    · rw [if_pos hshort]
    · rw [if_neg hshort]
      refine if_pos ?_
      have hrange : 1 ≤ r.src.toNat ∧ r.src.toNat ≤ 250 := by simpa [isStation] using hstation
      refine Classical.byContradiction fun hnone => ?_
      exact h ⟨hrange.1, hrange.2, Nat.not_lt.mp hshort,
        fun hb => Classical.byContradiction (fun hcode => hnone ⟨hb, hcode⟩)⟩

theorem arrive_readable (hr : readRequest p bytes = r) (h : Readable r (payloadOf bytes)) : arrive p bytes t
    = if r.broadcast = false ∧ r.tag ≠ 0 then
        if alreadyHeld t.mgmt r then discardArrival t
        else match cacheMatch t.mgmt.cache r with
          | some x => joinCached r x t
          | none => joinQueue r t
      else joinQueue r t := by
  obtain ⟨hlow, hhigh, hlong, hcode⟩ := h
  rw [arrive, hr, if_neg (by simp [isStation, hlow, hhigh]), if_neg (Nat.not_lt.mpr hlong), if_neg (fun h => h.2 (hcode h.1))] <;> rfl

theorem arrive_held (hr : readRequest p bytes = r) (h : Readable r (payloadOf bytes)) (hsingle : r.broadcast = false)
    (htag : r.tag ≠ 0) (hheld : alreadyHeld t.mgmt r = true) : arrive p bytes t = discardArrival t := by
  rw [arrive_readable hr h, if_pos ⟨hsingle, htag⟩, if_pos hheld]

theorem joinQueue_full (hfull : 4 ≤ t.mgmt.queue.length) : joinQueue r t = discardArrival t :=
  if_neg (Nat.not_lt.mpr hfull)

theorem joinQueue_busy (hroom : t.mgmt.queue.length < 4) (hbusy : t.mgmt.current ≠ none) :
    joinQueue r t = t.setMgmt { t.mgmt with queue := t.mgmt.queue ++ [r] } := by
  rw [joinQueue]
  exact (if_pos hroom).trans (if_neg hbusy)

theorem joinQueue_idle (hqueue : t.mgmt.queue = []) (hidle : t.mgmt.current = none) :
    joinQueue r t = nextRequest (t.setMgmt { t.mgmt with queue := [r] }) := by
  have hroom : t.mgmt.queue.length < 4 := by simp [hqueue]
  rw [joinQueue]
  refine ((if_pos hroom).trans (if_pos hidle)).trans ?_
  rw [hqueue]
  rfl

theorem arrive_full (hr : readRequest p bytes = r) (h : Readable r (payloadOf bytes)) (hfull : 4 ≤ t.mgmt.queue.length) :
    arrive p bytes t = discardArrival t := by
  rw [arrive_readable hr h, joinQueue_full hfull]
  have hcopy : ∀ x, joinCached r x t = discardArrival t := fun x => if_neg (Nat.not_lt.mpr hfull)
  split
  · split
    · rfl
    · cases cacheMatch t.mgmt.cache r with
      | none => rfl
      | some x => exact hcopy x
  · rfl

theorem arrive_fresh (hr : readRequest p bytes = r) (h : Readable r (payloadOf bytes))
    (hfresh : r.broadcast = true ∨ r.tag = 0 ∨ (∀ q ∈ t.mgmt.queue, ¬ HeldAs r q)
      ∧ (∀ c ∈ t.mgmt.current, ¬ HeldAs r c.req)
      ∧ ∀ x ∈ t.mgmt.cache, ¬ (x.station = r.src ∧ x.code = r.code ∧ x.tag = r.tag)) :
    arrive p bytes t = joinQueue r t := by
  rw [arrive_readable hr h]
  by_cases htagged : r.broadcast = false ∧ r.tag ≠ 0
  · obtain ⟨hsingle, htag⟩ := htagged
    obtain ⟨hqueue, hcurrent, hcache⟩ := (hfresh.resolve_left (by simp [hsingle])).resolve_left htag
    have hnew : ¬ alreadyHeld t.mgmt r = true := by
      rw [alreadyHeld_iff]
      rintro (⟨q, hq, hheld⟩ | ⟨c, hc, hheld⟩)
      · exact hqueue q hq hheld
      · exact hcurrent c hc hheld
    rw [if_pos ⟨hsingle, htag⟩, if_neg hnew, cacheMatch_none hcache]
  · rw [if_neg htagged]

theorem arrive_cached {x : CacheEntry} {older newer : List CacheEntry} (hr : readRequest p bytes = r)
    (h : Readable r (payloadOf bytes)) (hsingle : r.broadcast = false) (htag : r.tag ≠ 0)
    (hcache : t.mgmt.cache = older ++ x :: newer) (hsame : x.station = r.src ∧ x.code = r.code ∧ x.tag = r.tag)
    (hothers : ∀ y ∈ older ++ newer, y.station ≠ r.src) (hplaces : (older ++ newer).length < 8)
    (hnew : ¬ alreadyHeld t.mgmt r = true) (hroom : t.mgmt.queue.length < 4) :
    arrive p bytes t = joinQueue { r with cached := some x.bytes }
      (t.setMgmt { t.mgmt with cache := older ++ newer ++ [x] }) := by
  have hstored : cacheStore t.mgmt.cache x = older ++ newer ++ [x] :=
    cacheStore_replaces hcache rfl (fun y hy => by rw [hsame.1]; exact hothers y hy) hplaces
  rw [arrive_readable hr h, if_pos ⟨hsingle, htag⟩, if_neg hnew, cacheMatch_repeat hcache hsame hothers]
  dsimp only
  rw [joinCached, hstored]
  exact if_pos hroom

/-- What the arrival of a request that an IDLE unit answers at once leaves, by the room for the answer. -/
theorem begun_answered {v : State} (hport : r.port = p)
    (hdenied : v = countDenied st t) (hcurrent : t.mgmt.current = none) (hqueue : t.mgmt.queue = [])
    (hselect : selectRequest (t.setMgmt { t.mgmt with queue := [], current := some { req := r, stage := .handed } }) r = .answer st) :
    (ReplyRoom r t → joinQueue r t = replied r st [] v)
    ∧ ((t.port p).up = true → 4 ≤ (t.port p).localQ.length → joinQueue r t
      = replying r st [] t (joinedWaiting p .mgmt (responseFrame t.seqr.own r st []) v))
    ∧ ((t.port p).up = false → joinQueue r t = replying r st [] t (offerDropped p .mgmt v)) := by
  subst hport
  let w : State := countDenied st (t.setMgmt { t.mgmt with queue := [], current := some { req := r, stage := .handed } })
  have hw : w = v.setMgmt { v.mgmt with queue := [], current := some { req := r, stage := .handed } } := by
    simp only [w, hdenied, countDenied]
    split <;> rfl
  have hv : v.mgmt.queue = [] ∧ v.mgmt.current = none ∧ v.seqr = t.seqr ∧ v.serial = t.serial ∧ v.raised = t.raised
      ∧ ∀ q, v.port q = t.port q := by
    rw [hdenied, countDenied]
    split <;> exact ⟨hqueue, hcurrent, rfl, rfl, rfl, fun q => by cases q <;> rfl⟩
  obtain ⟨hempty, hidle, hseqr, hserial, hraised, hports⟩ := hv
  have hjoin : joinQueue r t = respond st [] w := by
    rw [joinQueue_idle hqueue hcurrent]
    exact nextRequest_answered (s := t.setMgmt { t.mgmt with queue := [r] }) rfl hselect
  have hcurrentW : w.mgmt.current = some { req := r, stage := .handed } := by rw [hw]; rfl
  have hportW : ∀ q, w.port q = t.port q := by
    intro q
    rw [hw, ← hports q]
    cases q <;> rfl
  have hseqrW : w.seqr = t.seqr := by rw [hw, ← hseqr]; rfl
  rw [hjoin]
  refine ⟨fun hroom => ?_, fun hup hfull => ?_, fun hdown => ?_⟩
  · have hroomW : ReplyRoom r w := by
      obtain ⟨hup, hfree, -⟩ := hroom
      exact ⟨by rw [hportW]; exact hup, by rw [hportW]; exact hfree, by rw [hw]; rfl⟩
    rw [respond_replied hcurrentW hroomW, hw, ← hempty]
    cases hp : r.port <;> simp only [replied, replyFrame, hp] <;> rfl
  · rw [respond_waits hcurrentW (by rw [hportW]; exact hup) (by rw [hportW]; exact hfull), hseqrW, hw, ← hempty]
    simp only [replying, ← hserial, ← hseqr]
    cases hp : r.port <;> rfl
  · rw [respond_dropped hcurrentW (by rw [hportW]; exact hdown), hw, ← hempty]
    simp only [replying, ← hserial, ← hseqr]
    cases hp : r.port <;> rfl

theorem exec_requestArrival {pre post : List (Port × Bytes)}
    (h : Oldest (fun y => y.1 = p) s.raised.requests pre (p, bytes) post) :
    exec (.requestArrival p) s = .next (arrive p bytes (s.setRaised { s.raised with requests := pre ++ post })) := by
  change execRequestArrival p s = _
  rw [execRequestArrival, takeFirst_oldest (kind := fun y : Port × Bytes => y.1 = p) (fun y => decide_eq_true_iff) h]

/-- Settles O47, by what the frame holds, what the unit holds, and what the request is. -/
theorem arrivalsAreDiscardedJoinedOrBegun : Obligations.ArrivalsAreDiscardedJoinedOrBegun := by
  unfold Obligations.ArrivalsAreDiscardedJoinedOrBegun
  intro p pre post bytes s hold t payload broadcast r discarded readable held cached fresh answered
  have hexec : exec (.requestArrival p) s = .next (arrive p bytes t) := exec_requestArrival hold
  have hdiscard : discardArrival t = discarded := by
    rw [discardArrival, bump_eq]
    rfl
  have hread : 3 ≤ payload.length → readRequest p bytes = r := by
    intro hlong
    have htag : fieldAt 1 2 payload = (byteAt payload 1).toNat * 256 + (byteAt payload 2).toNat := fieldAt_two hlong
    simp only [r, ← htag]
    rfl
  have hreadable : readable → readRequest p bytes = r ∧ Readable r (payloadOf bytes) := fun h => ⟨hread h.2.2.1, h⟩
  rw [hexec]
  refine ⟨fun hnot => congrArg _ ?_, fun h hsingle htag hrepeat => congrArg _ ?_,
    fun h hsingle htag c hcurrent hrepeat => congrArg _ ?_, fun h hfull => congrArg _ ?_,
    fun h hfresh hroom hbusy => congrArg _ ?_, fun h hfresh hqueue hidle => ?begun,
    fun older x newer h hsingle htag hcache hsame hothers hplaces => ?cached, fun cache x => ?stored⟩
  · rw [← hdiscard]
    refine arrive_unreadable rfl (fun h => hnot ?_)
    obtain ⟨hlow, hhigh, hlong, hcode⟩ := h
    exact ⟨hlow, hhigh, hlong, hcode⟩
  · obtain ⟨hr, hok⟩ := hreadable h
    rw [← hdiscard]
    exact arrive_held hr hok hsingle htag (alreadyHeld_iff.mpr (.inl hrepeat))
  · obtain ⟨hr, hok⟩ := hreadable h
    rw [← hdiscard]
    exact arrive_held hr hok hsingle htag (alreadyHeld_iff.mpr (.inr ⟨c, hcurrent, hrepeat⟩))
  · obtain ⟨hr, hok⟩ := hreadable h
    rw [← hdiscard]
    exact arrive_full hr hok hfull
  · obtain ⟨hr, hok⟩ := hreadable h
    rw [arrive_fresh (t := t) hr hok hfresh]
    exact joinQueue_busy hroom hbusy
  case begun =>
    obtain ⟨hr, hok⟩ := hreadable h
    have hjoin : arrive p bytes t = joinQueue r t := arrive_fresh hr hok hfresh
    let c : State := t.setMgmt { t.mgmt with queue := [], current := some { req := r, stage := .handed } }
    have hanswer : ∀ st v, v = countDenied st t → selectRequest c r = .answer st → answered st v := by
      intro st v hv hselect
      obtain ⟨hroom, hwaits, hdown⟩ := begun_answered (p := p) rfl hv hidle hqueue hselect
      have hend : ∀ w, joinQueue r t = w → exec (.requestArrival p) s = .next w := by
        rintro w rfl
        rw [hexec, hjoin]
      exact ⟨fun h => hend _ (hroom h), fun hup hfull => hend _ (hwaits hup hfull), fun h => hend _ (hdown h)⟩
    refine ⟨fun hlength hadmitted => congrArg _ ?_, fun hknown hcode hlist hout => hanswer _ _ ?_ ?_,
      fun hknown hdiscover hstatus hlist hpart => hanswer _ _ rfl ?_, fun n hlength hbad hadmitted => hanswer _ _ rfl ?_,
      fun hunknown => hanswer _ _ rfl ?_⟩
    · rw [hjoin, joinQueue_idle (t := t) hqueue hidle]
      refine (nextRequest_owner (s := t.setMgmt { t.mgmt with queue := [r] }) rfl ?_).trans ?_
      · exact (selectRequest_admitted (s := c) rfl hlength hadmitted).trans (if_neg (not_not_intro rfl))
      · rw [← hqueue]
        rfl
    · rw [countDenied, if_pos rfl, bump_eq]
      rfl
    · exact selectRequest_denied rfl hknown hcode hlist hout
    · exact selectRequest_mounting rfl hknown hdiscover hstatus hlist hpart
    · exact (selectRequest_admitted (s := c) rfl hlength hadmitted).trans (if_pos hbad)
    · exact selectRequest_unknown rfl hunknown
  case cached =>
    obtain ⟨hr, hok⟩ := hreadable h
    intro used
    refine ⟨fun hqueue hidle hroom => congrArg _ ?_, fun c hcurrent hother hqueued hroom => congrArg _ ?_⟩
    · have hnew : ¬ alreadyHeld t.mgmt r = true := by
        rw [alreadyHeld_iff]
        rintro (⟨q, hq, -⟩ | ⟨c, hc, -⟩)
        · rw [show t.mgmt.queue = [] from hqueue] at hq
          simp at hq
        · rw [show t.mgmt.current = none from hidle] at hc
          simp at hc
      rw [arrive_cached (t := t) hr hok hsingle htag hcache hsame hothers hplaces hnew (by rw [show t.mgmt.queue = [] from hqueue]; decide),
        joinQueue_idle (by exact hqueue) (by exact hidle)]
      let copied : Request := { r with cached := some x.bytes }
      let w : State := t.setMgmt { t.mgmt with cache := older ++ newer ++ [x], queue := [copied] }
      have hmgmt : ({ s.mgmt with
          cache := used, queue := [], current := none, duplicates := min counterMax (s.mgmt.duplicates + 1) } : Management)
          = { s.mgmt with cache := used, duplicates := min counterMax (s.mgmt.duplicates + 1) } := by
        rw [← hqueue, ← hidle]
      rw [← hmgmt]
      exact nextRequest_copied (s := w) (r := copied) rfl rfl hroom
    · have hbusy : s.mgmt.current ≠ none := by simp [hcurrent]
      have hnew : ¬ alreadyHeld t.mgmt r = true := by
        rw [alreadyHeld_iff]
        rintro (⟨q, hq, hheld⟩ | ⟨d, hd, hheld⟩)
        · exact hqueued q hq hheld
        · obtain rfl : c = d := Option.some.inj (hcurrent.symm.trans hd)
          exact hother hheld
      rw [arrive_cached (t := t) hr hok hsingle htag hcache hsame hothers hplaces hnew hroom,
        joinQueue_busy (by exact hroom) (by exact hbusy)]
      rfl
  case stored =>
    refine ⟨fun older y newer hcache hstation hothers hroom => cacheStore_replaces hcache hstation hothers hroom,
      fun hothers => ⟨fun hroom => cacheStore_kept (others_filter hothers) hroom,
        fun y rest hcache hfull => cacheStore_full hcache hothers hfull⟩⟩

end Sys2Proof.Machine
end

section
/-! PROOF. SET_MANAGERS, RESTART and the orderly stop (09, R164, R169, R170). -/

set_option Elab.async false

namespace Sys2Proof.Machine

variable {s t u v w : State} {r : Request} {p : Port}

theorem ne_of_value {α : Type} {a b c : α} (h : a = b) (hne : b ≠ c) : a ≠ c := fun heq => hne (h.symm.trans heq)

/-! ### SET_MANAGERS (R164) -/

theorem exec_setManagers (h : Handed codeSetManagers r s) : exec .setManagers s = .next
    (if setManagersValid r.params r.src then respond .ok [] (putManagers (usedStations r.params) s)
      else respond .badValue [] s) :=
  congrArg _ (takeRequest_handed h _)

theorem usedStations_eq {n a1 a2 a3 a4 : Byte} :
    usedStations [n, a1, a2, a3, a4] = [a1, a2, a3, a4].take n.toNat := by
  rw [usedStations, fieldAt_one]
  rfl

theorem setManagersValid_iff {n a1 a2 a3 a4 src : Byte} : setManagersValid [n, a1, a2, a3, a4] src = true
    ↔ n.toNat ≤ 4 ∧ (∀ a ∈ [a1, a2, a3, a4].take n.toNat, 1 ≤ a.toNat ∧ a.toNat ≤ 250)
      ∧ ([a1, a2, a3, a4].take n.toNat).Nodup ∧ (n = 0 ∨ src ∈ [a1, a2, a3, a4].take n.toNat) := by
  have hcount : fieldAt 0 1 [n, a1, a2, a3, a4] = n.toNat := by
    rw [fieldAt_one]
    rfl
  have hzero : n.toNat = 0 ↔ n = 0 := ⟨fun h => BitVec.eq_of_toNat_eq h, fun h => by rw [h]; rfl⟩
  rw [setManagersValid, usedStations_eq, hcount]
  simp only [Bool.and_eq_true, Bool.or_eq_true, decide_eq_true_iff, List.all_eq_true, noRepeats_iff, hzero,
    List.contains_iff_mem, isStation, and_assoc]

/-! ### RESTART answers (R169) -/

theorem exec_restart (h : Handed codeRestart r s) : exec .restart s = .next (answerWith .ok [] none true s) :=
  congrArg _ (takeRequest_handed h _)

/-- RESTART answers as any request, and then awaits the ending of its answer. -/
theorem answerWith_restart (hcurrent : s.mgmt.current = some { req := r, stage := .handed }) (hroom : ReplyRoom r s) :
    answerWith .ok [] none true s = (replied r .ok [] s).setMgmt { (replied r .ok [] s).mgmt with
      current := some { req := r, stage := .restartWait s.serial } } := by
  obtain ⟨hup, hfree, hqueue⟩ := hroom
  rw [answerWith, hcurrent]
  dsimp only
  rw [offerResponse, offerLocal_entered ⟨hup, hfree⟩]
  dsimp only
  rw [storable_eq, responseEntered, replied]
  by_cases hstore : Status.ok ≠ .denied ∧ Status.ok ≠ .mounting ∧ r.broadcast = false ∧ r.tag ≠ 0 ∧ r.cached = none
  · rw [if_pos hstore, decide_eq_true hstore]
    cases r.port <;> rfl
  · rw [if_neg hstore, decide_eq_false hstore]
    cases r.port <;> rfl

/-! ### The end of a happening under an orderly stop (R170) -/

theorem settle_settled (hkick : logKick s = t) : settle s = settleRestart t := by
  rw [settle, hkick]

/-- The log is FULL or in FAULT. -/
abbrev Hopeless (l : LogManager) : Prop := l.condition = .full ∨ inFault l = true

theorem stopHopeless_iff {l : LogManager} : stopHopeless l = true ↔ Hopeless l := by
  simp [stopHopeless]

theorem drained_iff : drained s = true ↔ Drained s.packer s.jrnl := by
  simp [drained, and_assoc]

theorem drainTest_resets (h : Hopeless s.log ∨ Drained s.packer s.jrnl) : drainTest s = restartReset s := by
  rw [drainTest, if_pos]
  simpa [stopHopeless_iff, drained_iff] using h

theorem drainTest_waits (hlog : ¬ Hopeless s.log) (hdrained : ¬ Drained s.packer s.jrnl) : drainTest s = s := by
  refine if_neg ?_
  rw [Bool.or_eq_true, stopHopeless_iff, drained_iff]
  exact not_or.mpr ⟨hlog, hdrained⟩

theorem settleRestart_draining (h : s.mgmt.current = some { req := r, stage := .draining }) :
    settleRestart s = drainTest s := by
  rw [settleRestart, h]

theorem settleRestart_hopeless (h : s.mgmt.current = some { req := r, stage := .stopping }) (hlog : Hopeless s.log) :
    settleRestart s = restartReset s := by
  rw [settleRestart, h]
  exact if_pos (stopHopeless_iff.mpr hlog)

theorem settleRestart_waits (h : s.mgmt.current = some { req := r, stage := .stopping }) (hlog : ¬ Hopeless s.log)
    (hstate : s.ctl.state ≠ .stopped) : settleRestart s = s := by
  rw [settleRestart, h]
  exact (if_neg (fun hopeless => hlog (stopHopeless_iff.mp hopeless))).trans (if_neg hstate)

theorem closeFilling_flushed {q q' : Packer} (h : FlushedTo q q') : closeFilling q = q' := by
  obtain ⟨hnone, rfl⟩ | ⟨i, hfilling, rfl⟩ := h
  · exact closeFilling_none hnone
  · exact closeFilling_filling hfilling

/-- In STOPPED the FILLING buffer is closed, and the drain is tested (R170, steps 2 and 3). -/
theorem settleRestart_flushes {q : Packer} (h : s.mgmt.current = some { req := r, stage := .stopping })
    (hlog : ¬ Hopeless s.log) (hstate : s.ctl.state = .stopped) (hflushed : FlushedTo s.packer q)
    (hquiet : LogQuiet (s.setPacker q)) : settleRestart s = drainTest ((s.setPacker q).setMgmt { s.mgmt with
      current := some { req := r, stage := .draining } }) := by
  rw [settleRestart, h]
  refine (if_neg (fun hopeless => hlog (stopHopeless_iff.mp hopeless))).trans ((if_pos hstate).trans ?_)
  rw [flushAndDrain, closeFilling_flushed hflushed]
  exact congrArg drainTest (logKick_quiet (hquiet.carry rfl rfl rfl rfl rfl rfl))

/-- Without a page to come the check of a full log changes nothing. -/
theorem logKick_hopeless (h : StopHopeless s.log) : logKick s = s := by
  by_cases hquiet : LogQuiet s
  · exact logKick_quiet hquiet
  · have hbusy := not_or.mp hquiet
    obtain ⟨hpart, hrest⟩ := hbusy
    obtain ⟨hfault, hrest⟩ := not_or.mp hrest
    obtain ⟨hprogram, hwaits⟩ := not_or.mp hrest
    obtain ⟨i, hi⟩ := Option.ne_none_iff_exists'.mp hwaits
    obtain ⟨hfull, hahead, hnoPage⟩ := h.resolve_left hfault
    rw [logKick_noPage (Decidable.not_not.mp hpart) (eq_false_of_ne_true hfault) (eq_false_of_ne_true hprogram) hi
      hnoPage, hahead]
    exact noPage_full hahead hfull

theorem StopHopeless.hopeless {l : LogManager} (h : StopHopeless l) : Hopeless l :=
  h.elim .inr (fun h => .inl h.1)

/-- A reset looks at the array, its pages, the straps and what a reset keeps alone. -/
theorem restartReset_same (harr : w.arr = s.arr) (hstore : w.store = s.store) (hfree : w.free = s.free)
    (hpending : w.pending = s.pending) (hseqr : w.seqr = s.seqr) (hserial : w.serial = s.serial) :
    restartReset w = State.inReset s.pending (abandonOperations s) .restart s.seqr.own s.serial (s.free + 2) := by
  rw [restartReset, beginReset, abandonOperations, abandonOperations, harr, hstore, hfree, hpending, hseqr, hserial]

/-! ### The ending of RESTART's answer (R170, step 1) -/

/-- The state with other endings raised and another Management Unit. -/
def restated (endings : List Ending) (m : Management) (s : State) : State :=
  { s with raised := { s.raised with endings := endings }, mgmt := m }

section Restated

variable {endings : List Ending} {m : Management} {e : Entry}

theorem HeadServed.restated (h : HeadServed s u) : HeadServed (restated endings m s) (restated endings m u) := by
  obtain ⟨hready, hfree, halone, hseq, j, rest, hjobs, hsave, hclear, ⟨d, c, hcur, hd, hpage, hrecord, rfl⟩ | ⟨hfull, rfl⟩⟩ := h
  · exact ⟨hready, hfree, halone, hseq, j, rest, hjobs, hsave, hclear, .inl ⟨d, c, hcur, hd, hpage, hrecord, rfl⟩⟩
  · exact ⟨hready, hfree, halone, hseq, j, rest, hjobs, hsave, hclear, .inr ⟨hfull, rfl⟩⟩

theorem JobAsked.restated {j : Job} (h : JobAsked j s u) : JobAsked j (restated endings m s) (restated endings m u) := by
  obtain ⟨husable, hcovered, ⟨hbusy, rfl⟩ | ⟨hidle, hserved⟩⟩ := h
  · exact ⟨husable, hcovered, .inl ⟨hbusy, rfl⟩⟩
  · exact ⟨husable, hcovered, .inr ⟨hidle, hserved.restated⟩⟩

theorem KeptLooked.restated (h : KeptLooked u v) : KeptLooked (restated endings m u) (restated endings m v) := by
  obtain ⟨hnot, rfl⟩ | ⟨e, last, hopen, hctl, hstate, hasked, hjournaled, hlast, hcommitted, hjob⟩ := h
  · exact .inl ⟨hnot, rfl⟩
  · exact .inr ⟨e, last, hopen, hctl, hstate, hasked, hjournaled, hlast, hcommitted, hjob.restated⟩

theorem PostingEnded.restated {why : CloseReason} {last : Nat} (h : PostingEnded why e last s v) :
    PostingEnded why e last (restated endings m s) (restated endings m v) :=
  KeptLooked.restated (u := postingClosed why e last s) h

/-- Looking whether the KEPT snapshot is due changes of the log only its next page sequence. -/
theorem KeptLooked.log (h : KeptLooked u v) : v.log = { u.log with nextPageSeq := v.log.nextPageSeq } := by
  obtain ⟨-, rfl⟩ | ⟨e, last, -, -, -, -, -, -, -, -, -, ⟨-, rfl⟩ | ⟨-, -, -, -, -, j, rest, -, -, -, hserved⟩⟩ := h
  · rfl
  · rfl
  · obtain ⟨d, c, -, -, -, -, rfl⟩ | ⟨-, rfl⟩ := hserved <;> rfl

end Restated

/-- The stop of a run that leaves log, array and pages alone. -/
theorem stopCapture_frame {why : StopReason} (h : s.ctl.state = .posting → openEntry s.dir = none) :
    stopCapture why s = { s with
      packer := (stopCapture why s).packer, ctl := (stopCapture why s).ctl, raised := (stopCapture why s).raised } := by
  rw [stopCapture]
  cases hstate : s.ctl.state with
  | stopped => rfl
  | running => rfl
  | posting =>
    have hnone : endPosting .stopped s = s := by
      rw [endPosting, if_neg (not_not_intro hstate), h hstate]
    dsimp only
    rw [hnone]
    rfl
  | closing =>
    dsimp only
    cases s.ctl.target with
    | none => rfl
    | some target => cases target <;> rfl

/-- A RUN_STOP that has been placed waits for its page. -/
theorem StopPlaced.not_drained {why : StopReason} {q : Packer} (h : StopPlaced why s q) (j : JournalWriter) :
    ¬ Drained q j := by
  rintro ⟨h0, h1, hslot, -⟩
  have hfull : ∀ i (x : Packer), (madeFull i x).sb0.state = .empty → (madeFull i x).sb1.state = .empty → False := by
    intro i x h0 h1
    cases i
    · exact BufState.noConfusion h0
    · exact BufState.noConfusion h1
  obtain ⟨i, -, -, rfl⟩ | ⟨q', -, -, ⟨j, -, rfl⟩ | ⟨-, rfl⟩⟩ := h
  · exact hfull _ _ h0 h1
  · exact hfull _ _ h0 h1
  · simp at hslot

theorem exec_restartEnding {pre post : List Ending} {e : Ending}
    (hold : Oldest (fun y : Ending => y.port = p ∧ y.who = .mgmt) s.raised.endings pre e post)
    (hcurrent : s.mgmt.current = some { req := r, stage := .restartWait e.serial }) :
    exec (.localFrameEnding p .mgmt) s = .next (settle (stopCapture .restart
      (restated (pre ++ post) { s.mgmt with current := some { req := r, stage := .stopping } } s))) := by
  have hwho : e.who = .mgmt := hold.2.1.2
  have htaken : takeEnding e (s.setRaised { s.raised with endings := pre ++ post }) = stopCapture .restart
      (restated (pre ++ post) { s.mgmt with current := some { req := r, stage := .stopping } } s) := by
    have hm : (s.setRaised { s.raised with endings := pre ++ post }).mgmt.current
        = some { req := r, stage := .restartWait e.serial } := hcurrent
    rw [takeEnding, hwho]
    dsimp only
    rw [mgmtEnding, hm]
    exact if_pos rfl
  have hexec := exec_localFrameEnding (s := s) (p := p) (pre := pre) (post := post) (e := e) (by rw [hwho]; exact hold)
  rw [htaken, hwho] at hexec
  exact hexec

/-! ### What the end of a happening does to a stop under way -/

section Settling

variable {q : Packer}

/-- What a reset of RESTART leaves. -/
abbrev RestartResets (s t : State) : Prop := ∃ store, CutByReset s store
  ∧ t = State.inReset s.pending store .restart s.seqr.own s.serial (s.free + 2)

theorem RestartResets.same (harr : w.arr = s.arr) (hstore : w.store = s.store) (hfree : w.free = s.free)
    (hpending : w.pending = s.pending) (hseqr : w.seqr = s.seqr) (hserial : w.serial = s.serial) :
    RestartResets s (restartReset w) :=
  ⟨abandonOperations s, cutByReset_abandonOperations s, restartReset_same harr hstore hfree hpending hseqr hserial⟩

theorem settle_draining (h : s.mgmt.current = some { req := r, stage := .draining }) (hquiet : LogQuiet s) :
    settle s = drainTest s := by
  rw [settle_settled (logKick_quiet hquiet), settleRestart_draining h]

theorem settle_stopping (hlog : ¬ Hopeless s.log) (h : s.mgmt.current = some { req := r, stage := .stopping })
    (hquiet : LogQuiet s) (hstate : s.ctl.state ≠ .stopped) : settle s = s := by
  rw [settle_settled (logKick_quiet hquiet), settleRestart_waits h hlog hstate]

theorem settle_hopeless (h : s.mgmt.current = some { req := r, stage := .stopping }) (hkick : logKick s = s)
    (hlog : Hopeless s.log) : settle s = restartReset s := by
  rw [settle_settled hkick, settleRestart_hopeless h hlog]

theorem settle_flushes (hlog : ¬ Hopeless s.log) (h : s.mgmt.current = some { req := r, stage := .stopping })
    (hquiet : LogQuiet s) (hstate : s.ctl.state = .stopped) (hflushed : FlushedTo s.packer q)
    (hquietFlushed : LogQuiet (s.setPacker q)) : settle s = drainTest ((s.setPacker q).setMgmt { s.mgmt with
      current := some { req := r, stage := .draining } }) := by
  rw [settle_settled (logKick_quiet hquiet), settleRestart_flushes h hlog hstate hflushed hquietFlushed]

/-- In STOPPED with something left to drain the unit waits. -/
theorem settle_drains (hlog : ¬ Hopeless s.log) (h : s.mgmt.current = some { req := r, stage := .stopping })
    (hquiet : LogQuiet s) (hstate : s.ctl.state = .stopped) (hflushed : FlushedTo s.packer q)
    (hquietFlushed : LogQuiet (s.setPacker q)) (hleft : ¬ Drained q s.jrnl) :
    settle s = (s.setPacker q).setMgmt { s.mgmt with current := some { req := r, stage := .draining } } := by
  rw [settle_flushes hlog h hquiet hstate hflushed hquietFlushed]
  exact drainTest_waits hlog hleft

end Settling

/-- The last part of O49. -/
theorem stopUnderWay_settles (hquiet : LogQuiet s) :
    (s.mgmt.current = some { req := r, stage := .draining } →
      (Hopeless s.log ∨ Drained s.packer s.jrnl → RestartResets s (settle s))
      ∧ (¬ Hopeless s.log → ¬ Drained s.packer s.jrnl → settle s = s))
    ∧ (s.mgmt.current = some { req := r, stage := .stopping } →
      (Hopeless s.log → RestartResets s (settle s)) ∧ (¬ Hopeless s.log → s.ctl.state ≠ .stopped → settle s = s)
      ∧ (∀ u, ¬ Hopeless s.log → s.ctl.state = .stopped → FlushedTo s.packer u → LogQuiet (s.setPacker u) →
        (Drained u s.jrnl → RestartResets s (settle s))
        ∧ (¬ Drained u s.jrnl → settle s = { s with
          packer := u, mgmt := { s.mgmt with current := some { req := r, stage := .draining } } }))) := by
  refine ⟨fun h => ⟨fun hend => ?_, fun hlog hleft => ?_⟩, fun h => ⟨fun hlog => ?_,
    fun hlog hstate => settle_stopping hlog h hquiet hstate, fun u hlog hstate hflushed hquietFlushed => ⟨fun hempty => ?_,
      fun hleft => settle_drains hlog h hquiet hstate hflushed hquietFlushed hleft⟩⟩⟩
  · rw [settle_draining h hquiet, drainTest_resets hend]
    exact RestartResets.same rfl rfl rfl rfl rfl rfl
  · rw [settle_draining h hquiet, drainTest_waits hlog hleft]
  · rw [settle_hopeless h (logKick_quiet hquiet) hlog]
    exact RestartResets.same rfl rfl rfl rfl rfl rfl
  · rw [settle_flushes hlog h hquiet hstate hflushed hquietFlushed, drainTest_resets (.inr hempty)]
    exact RestartResets.same rfl rfl rfl rfl rfl rfl

/-! ### The stop that the ending of RESTART's answer begins -/

/-- The state in which the stop has been asked of the Capture Controller. -/
abbrev stopAsked (r : Request) (endings : List Ending) (s : State) : State :=
  restated endings { s.mgmt with current := some { req := r, stage := .stopping } } s

section Stops

variable {endings : List Ending} {x : Entry} {q : Packer}

/-- With no page to come the part resets whatever the capture state, posting without an entry. -/
theorem stop_hopeless (hlog : StopHopeless s.log) (hentry : s.ctl.state = .posting → openEntry s.dir = none) :
    RestartResets s (settle (stopCapture .restart (stopAsked r endings s))) := by
  have hframe := stopCapture_frame (s := stopAsked r endings s) (why := .restart) hentry
  have hkick : logKick (stopCapture .restart (stopAsked r endings s)) = stopCapture .restart (stopAsked r endings s) :=
    logKick_hopeless (by rw [hframe]; exact hlog)
  rw [settle_hopeless (r := r) (by rw [hframe]; rfl) hkick (by rw [hframe]; exact StopHopeless.hopeless hlog), hframe]
  exact RestartResets.same rfl rfl rfl rfl rfl rfl

/-- The same with the recording that posting closes, whose KEPT snapshot may have been handed in. -/
theorem stop_hopeless_posting (hlog : StopHopeless s.log) (hstate : s.ctl.state = .posting) (halone : OpenAlone s.dir x)
    (hended : PostingEnded .stopped x (lastAtEnd s x) s v) : ∃ store, CutByReset v store
      ∧ settle (stopCapture .restart (stopAsked r endings s))
        = State.inReset s.pending store .restart s.seqr.own s.serial (s.free + 2) := by
  let m : Management := { s.mgmt with current := some { req := r, stage := .stopping } }
  have hposting : endPosting .stopped (stopAsked r endings s) = restated endings m v :=
    endPosting_ended (s := stopAsked r endings s) hstate halone
      (by rw [postingLast_ne (by decide)]; exact PostingEnded.restated hended)
  have hstop : stopCapture .restart (stopAsked r endings s) = offerRunStop .restart (restated endings m v) := by
    rw [← hposting, stopCapture, show (stopAsked r endings s).ctl.state = .posting from hstate]
  have hhopeless : StopHopeless v.log := by
    rw [(KeptLooked.log (u := postingClosed .stopped x (lastAtEnd s x) s) hended :)]
    exact hlog.imp ((inFault_same rfl).trans) id
  have hframe := PostingEnded.frame hended
  have hkept : v.pending = s.pending ∧ v.seqr = s.seqr ∧ v.serial = s.serial ∧ v.free = s.free := by
    rw [hframe]
    exact ⟨rfl, rfl, rfl, rfl⟩
  obtain ⟨hpending, hseqr, hserial, hfree⟩ := hkept
  let w : State := offerRunStop .restart (restated endings m v)
  have hsettled : settle w = restartReset w :=
    settle_hopeless (r := r) (s := w) rfl (logKick_hopeless (s := w) hhopeless) (StopHopeless.hopeless hhopeless)
  rw [hstop, hsettled, ← hpending, ← hseqr, ← hserial, ← hfree]
  exact RestartResets.same rfl rfl rfl rfl rfl rfl

/-- A stopped part with nothing left to drain resets at once. -/
theorem stop_drained (hstate : s.ctl.state = .stopped) (h0 : s.packer.sb0.state = .empty)
    (h1 : s.packer.sb1.state = .empty) (horder : s.packer.fullOrder = []) (hslot : s.packer.slot = [])
    (hjobs : s.jrnl.jobs = []) : RestartResets s (settle (stopCapture .restart (stopAsked r endings s))) := by
  have hnone : ∀ state, state ≠ BufState.empty → bufIn s.packer state = none := by
    intro state hne
    simp [bufIn, h0, h1, hne.symm]
  have hquiet : LogQuiet s := by
    refine .inr (.inr (.inr ?_))
    rw [waitingBuffer, hnone .writing (by decide), horder]
    rfl
  have hquietAsked : LogQuiet (stopAsked r endings s) := hquiet.carry rfl rfl rfl rfl rfl rfl
  rw [stopCapture_stopped (s := stopAsked r endings s) hstate]
  have hsettled := (stopUnderWay_settles (r := r) hquietAsked).2 rfl
  obtain ⟨hhopeless, -, hflushes⟩ := hsettled
  have hasked : RestartResets (stopAsked r endings s) (settle (stopAsked r endings s)) := by
    by_cases hlog : Hopeless s.log
    · exact hhopeless hlog
    · exact (hflushes s.packer hlog hstate (.inl ⟨hnone .filling (by decide), rfl⟩) hquietAsked).1 ⟨h0, h1, hslot, hjobs⟩
  exact hasked

end Stops

/-- Settles O49, by what RESTART's answer, its ending and the ends of later happenings do. -/
theorem managersAreSetAndRestartResets : Obligations.ManagersAreSetAndRestartResets := by
  unfold Obligations.ManagersAreSetAndRestartResets
  refine ⟨fun r n a1 a2 a3 a4 s h hroom hparams => ?managers,
    fun r s => ⟨fun h hroom => ?_, fun p pre post e hold hcurrent => ?ending, fun hquiet => stopUnderWay_settles hquiet⟩⟩
  case managers =>
    intro used valid
    rw [exec_setManagers h, hparams, usedStations_eq]
    refine ⟨fun hvalid => ?_, fun hbad => ?_⟩
    · rw [if_pos (setManagersValid_iff.mpr hvalid)]
      refine congrArg _ (respond_replied ?_ hroom)
      exact h.1
    · rw [if_neg (fun hvalid => hbad (setManagersValid_iff.mp hvalid))]
      exact congrArg _ (respond_handed h hroom rfl rfl rfl)
  · rw [exec_restart h, answerWith_restart h.1 hroom]
  case ending =>
    intro moved resets
    have hexec := exec_restartEnding hold hcurrent
    have hresets : ∀ t, RestartResets t (settle (stopCapture .restart (stopAsked r (pre ++ post) s))) →
        ∃ store, CutByReset t store ∧ exec (.localFrameEnding p .mgmt) s
          = .next (State.inReset t.pending store .restart t.seqr.own t.serial (t.free + 2)) := by
      rintro t ⟨store, hcut, hstate⟩
      exact ⟨store, hcut, by rw [hexec, hstate]⟩
    refine ⟨fun hstate h0 h1 horder hslot hjobs => hresets s (stop_drained hstate h0 h1 horder hslot hjobs),
      fun hlog hentry => hresets s (stop_hopeless hlog hentry), fun x v hlog hstate halone hended => ?_,
      fun hfull hfault => ?kept⟩
    · obtain ⟨store, hcut, hstop⟩ := stop_hopeless_posting (r := r) (endings := pre ++ post) hlog hstate halone hended
      exact ⟨store, hcut, by rw [hexec, hstop]⟩
    case kept =>
      have hlog : ¬ Hopeless s.log := by
        rintro (h | h)
        · exact hfull h
        · simp [hfault] at h
      have hasked : LogQuiet s → LogQuiet (stopAsked r (pre ++ post) s) := fun h => h.carry rfl rfl rfl rfl rfl rfl
      refine ⟨fun u hstate hflushed hleft hquiet hquietFlushed => ?_, fun hstate htarget hquiet => ?_,
        fun u hplaced hquiet => ⟨fun hstate hfilling => ?_, fun x v hstate halone hended hquietEnded => ?_,
          fun hstate htarget => ?_⟩⟩
      · rw [hexec, stopCapture_stopped (s := stopAsked r (pre ++ post) s) hstate]
        have hsettled := settle_drains (r := r) (s := stopAsked r (pre ++ post) s) (q := u) hlog rfl (hasked hquiet) hstate
          hflushed (hquietFlushed.carry rfl rfl rfl rfl rfl rfl) hleft
        rw [hsettled]
        rfl
      · have hsettled := settle_stopping (r := r) (s := stopAsked r (pre ++ post) s) hlog rfl (hasked hquiet)
          (ne_of_value hstate (by decide))
        rw [hexec, stopCapture_closed (s := stopAsked r (pre ++ post) s) hstate htarget]
        exact congrArg _ hsettled
      · have hstop := stopCapture_running (s := stopAsked r (pre ++ post) s) hstate (why := .restart) (p := u) hplaced
        rw [hexec, hstop]
        have hsettled := settle_drains (r := r) (q := u) (s := captureEnded { stopAsked r (pre ++ post) s with
          packer := u, ctl := { s.ctl with holdoffTimer := none, stopReason := some .restart } }) hlog rfl
          (hquiet.carry rfl rfl rfl rfl rfl rfl) rfl (.inl ⟨hfilling, rfl⟩) (hquiet.carry rfl rfl rfl rfl rfl rfl)
          (StopPlaced.not_drained hplaced _)
        exact congrArg _ hsettled
      · let m : Management := { s.mgmt with current := some { req := r, stage := .stopping } }
        have hstop := stopCapture_posting (s := stopAsked r (pre ++ post) s) (v := restated (pre ++ post) m v)
          (why := .restart) (p := u) hstate halone (PostingEnded.restated hended) hplaced
        have hlogEnded : ¬ Hopeless v.log := by
          rw [(KeptLooked.log (u := postingClosed .stopped x (lastAtEnd s x) s) hended :)]
          exact fun h => hlog (h.imp id ((inFault_same rfl).trans))
        have hclosing : v.ctl.state = .closing := by rw [PostingEnded.ctl hended]; rfl
        have hsettled := settle_stopping (r := r) (s := { restated (pre ++ post) m v with
          packer := u, ctl := { v.ctl with stopReason := some .restart } }) hlogEnded rfl
          (hquietEnded.carry rfl rfl rfl rfl rfl rfl) (ne_of_value hclosing (by decide))
        rw [hexec, hstop]
        exact congrArg _ hsettled
      · have hstop := stopCapture_closing (s := stopAsked r (pre ++ post) s) hstate htarget (why := .restart) (p := u) hplaced
        have hsettled := settle_stopping (r := r) (s := { stopAsked r (pre ++ post) s with
          packer := u, ctl := { s.ctl with target := some .stopped, stopReason := some .restart } }) hlog rfl
          (hquiet.carry rfl rfl rfl rfl rfl rfl) (ne_of_value hstate (by decide))
        rw [hexec, hstop]
        exact congrArg _ hsettled

end Sys2Proof.Machine
end

section
/-! PROOF. The ends of log programs (04, R70, R75). -/

set_option Elab.async false

namespace Sys2Proof.Machine

variable {s t u v : State} {i : BufId} {k : SessionId} {b p : Nat} {h : PageHeader} {d : PageData}

/-! ### PROGRAM_PAGE_END -/

theorem exec_programPageEnd_none (hnone : ∀ x, s.arr.running = some x → ∀ b p h d, x.req ≠ .program b p h d)
    (r : ProgramEnd) : exec (.programPageEnd r) s = .next s := by
  change execProgramPageEnd r s = _
  rw [execProgramPageEnd]
  cases hrun : s.arr.running with
  | none => rfl
  | some x =>
    dsimp only
    cases hreq : x.req with
    | program b p h d => exact absurd hreq (hnone x hrun b p h d)
    | _ => rfl

theorem exec_programPageEnd {x : Running} (hrun : s.arr.running = some x) (hreq : x.req = .program b p h d)
    (halone : ArrayAlone s.arr) (r : ProgramEnd) : exec (.programPageEnd r) s = .next (settle (programDone x.who b h d
      (programPage s.store b p h d r).2 (freed (programPage s.store b p h d r).1 s))) := by
  change execProgramPageEnd r s = _
  rw [execProgramPageEnd, hrun]
  dsimp only
  rw [hreq]
  dsimp only
  rw [arrayFree_freed halone]

/-- What a failed program of an erased page leaves. -/
theorem programPage_failed {r : ProgramEnd} (hpage : pageAt s.store b p = none) (hr : r ≠ .committed) (hp : p ≤ 15) :
    (programPage s.store b p h d r).2 = false
    ∧ (r = .failedBlank → (programPage s.store b p h d r).1 = s.store)
    ∧ (r ≠ .failedBlank → readPage (programPage s.store b p h d r).1 b p = .uncommitted)
    ∧ ∀ c q, q ≤ 15 → c ≠ b ∨ q ≠ p → pageAt (programPage s.store b p h d r).1 c q = pageAt s.store c q := by
  refine ⟨?_, ?_, ?_, fun c q hq hne => pageAt_programPage_ne hp hq hne h d r⟩
  · cases r with
    | committed => exact absurd rfl hr
    | failedBlank => rw [programPage_failedBlank hpage]
    | failedWrite => rw [programPage_failedLater hpage h d (.inl rfl)]
    | failedCommit => rw [programPage_failedLater hpage h d (.inr rfl)]
  · rintro rfl
    rw [programPage_failedBlank hpage]
  · intro hlater
    cases r with
    | committed => exact absurd rfl hr
    | failedBlank => exact absurd rfl hlater
    | failedWrite =>
      rw [programPage_failedLater hpage h d (.inl rfl)]
      exact readPage_unmarked (pageAt_setPage_some _) nofun
    | failedCommit =>
      rw [programPage_failedLater hpage h d (.inr rfl)]
      exact readPage_unmarked (pageAt_setPage_some _) nofun

/-! ### The page handed in anew (R75) -/

theorem waitingBuffer_writing (hwriting : bufIn s.packer .writing = some i) (hout : logProgramOut s.arr = false) :
    waitingBuffer s = some i := by
  rw [waitingBuffer, hwriting]
  exact if_neg (ne_true_of_eq_false hout)

theorem bufIn_alone {q : Packer} {state : BufState} (hstate : (getBuf q i).state = state)
    (honly : ∀ j, j ≠ i → (getBuf q j).state ≠ state) : bufIn q state = some i := by
  cases i with
  | sb0 => exact if_pos hstate
  | sb1 =>
    have hother : q.sb0.state ≠ state := honly .sb0 nofun
    exact (if_neg hother).trans (if_pos hstate)

theorem bufIn_absent {q : Packer} {state : BufState} (hnone : ∀ j, (getBuf q j).state ≠ state) : bufIn q state = none := by
  have h0 : q.sb0.state ≠ state := hnone .sb0
  have h1 : q.sb1.state ≠ state := hnone .sb1
  exact (if_neg h0).trans (if_neg h1)

theorem logFailed_again (hready : s.seqr.part = .ready) (hfault : inFault s.log = false) (hfree : s.arr.running = none)
    (halone : ArrayAlone s.arr) (hwriting : (getBuf s.packer i).state = .writing)
    (honly : ∀ j, j ≠ i → (getBuf s.packer j).state ≠ .writing) (hactive : s.log.active = some b) (hpage : s.log.nextPage < 15)
    (hlow : 4 ≤ b) (hhigh : b ≤ 1023) (hseq : s.log.nextPageSeq < 281474976710655) : logFailed s = { s with
      arr := { s.arr with running := some {
        who := .logWriter,
        req := .program b (s.log.nextPage + 1)
          (formedHeader s.log.nextPageSeq (capturingField s b) (getBuf s.packer i)) (.log (getBuf s.packer i).recs),
        count := 0, reached := 0 } },
      log := { s.log with
        nextPage := s.log.nextPage + 1, failing := true, nextPageSeq := s.log.nextPageSeq + 1, condition := .normal,
        programFailures := min counterMax (s.log.programFailures + 1) } } := by
  let t : State := { s with log := { s.log with
    nextPage := s.log.nextPage + 1, failing := true, programFailures := min counterMax (s.log.programFailures + 1) } }
  have hnormal : inFault t.log = false := (inFault_same rfl).trans hfault
  have hout : logProgramOut t.arr = false := logProgramOut_free (s := t) hfree halone
  have hkick : logKick t = _ :=
    (logKick_page (s := t) hready hnormal hout (waitingBuffer_writing (bufIn_alone hwriting honly) hout) hactive hpage).trans
      (handIn_alone (s := t) hready hnormal hfree halone hlow hhigh hpage hseq)
  have hfailed : logFailed s = logKick t := by rw [logFailed, bump_eq]; rfl
  rw [hfailed, hkick, pageDrawn_writing (s := t) hwriting]
  rfl

/-! ### The committed page (R70) -/

/-- The log once a page of a block has committed. -/
def pageNoted (b : Nat) (h : PageHeader) (l : LogManager) : LogManager :=
  { (if (blockEntry l b).firstSeq = none
      then setBlockEntry l b { blockEntry l b with firstSeq := some h.firstSeq, firstPage := some h.pageSeq } else l) with
    nextPage := l.nextPage + 1, lastCommitted := h.firstSeq + h.count - 1,
    pagesCommitted := min counterMax (l.pagesCommitted + 1) }

theorem pageNoted_resumedPending (b : Nat) (h : PageHeader) (l : LogManager) :
    (pageNoted b h l).resumedPending = l.resumedPending := by
  rw [pageNoted]
  dsimp only
  split <;> rfl

/-- The state once the page is committed and its buffer empty. -/
def pageWritten (i : BufId) (b : Nat) (h : PageHeader) (s : State) : State := { s with
  packer := setBuf s.packer { state := .empty, recs := [], run := 0 } i, log := pageNoted b h s.log }

theorem packed_nothing (s : State) : packed s.packer.nextSeq s = s := by
  have hnone : ¬ assignedBetween s.packer.nextSeq s.packer.nextSeq s.ctl.postEnd = true := by
    simp only [assignedBetween, Bool.and_eq_true, decide_eq_true_iff]
    omega
  unfold packed
  dsimp only
  rw [if_neg (fun hboth : _ ∧ _ => hnone hboth.2)]
  refine if_neg ?_
  rintro ⟨hbelow, hend⟩
  exact absurd hend (Nat.ne_of_lt hbelow)

theorem returnWriting_slotEmpty (hwriting : bufIn s.packer .writing = some i) (hslot : s.packer.slot = []) :
    returnWriting s = { s with packer := setBuf s.packer { state := .empty, recs := [], run := 0 } i } := by
  have hreturn : returnBuf (flushInterval s) i s.packer = setBuf s.packer { state := .empty, recs := [], run := 0 } i := by
    refine if_pos ?_
    cases i <;> exact hslot
  have hseq : s.packer.nextSeq = (setBuf s.packer { state := .empty, recs := [], run := 0 } i).nextSeq := by cases i <;> rfl
  rw [returnWriting, hwriting]
  dsimp only
  rw [hreturn, hseq]
  exact packed_nothing (s.setPacker (setBuf s.packer { state := .empty, recs := [], run := 0 } i))

theorem logCommitted_eq (hwriting : bufIn s.packer .writing = some i) (hslot : s.packer.slot = []) : logCommitted b h s
    = logKick (raiseResumed h.firstSeq (keptCheck (wakeSessions (pageWritten i b h s)))) := by
  let t : State := { s with log := pageNoted b h s.log }
  have hreturn : returnWriting t = pageWritten i b h s := returnWriting_slotEmpty (s := t) hwriting hslot
  rw [← hreturn, logCommitted, bump_eq]
  rfl

theorem raiseResumed_eq (n : Nat) (s : State) : raiseResumed n s = { s with
    log := { s.log with resumedPending := false },
    raised := { s.raised with events := s.raised.events
      ++ (if s.log.resumedPending = true then [(.log, .logResumed n)] else []) } } := by
  rw [raiseResumed]
  by_cases hpending : s.log.resumedPending = true
  · rw [if_pos hpending, if_pos hpending]
    rfl
  · rw [if_neg hpending, if_neg hpending, List.append_nil]
    have hoff : s.log.resumedPending = false := eq_false_of_ne_true hpending
    rw [← hoff]

theorem wakeSession_sleeps (h : (s.session k).state = .following → s.log.lastCommitted < (s.session k).nextSeq) :
    wakeSession k s = s := by
  refine if_neg ?_
  rintro ⟨hstate, hreached⟩
  exact absurd (h hstate) (Nat.not_lt.mpr hreached)

theorem wakeSession_wakes (hstate : (s.session k).state = .following) (hreached : (s.session k).nextSeq ≤ s.log.lastCommitted) :
    wakeSession k s = fetchStep k s := if_pos ⟨hstate, hreached⟩

/-- A FOLLOWING session that the commit has reached hands in its read; the other one sleeps on. -/
theorem wakeSessions_reads {y : Session} {c q : Nat} (hstate : (s.session k).state = .following)
    (hreached : (s.session k).nextSeq ≤ s.log.lastCommitted) (hreads : FetchReads s (s.session k) y c q)
    (hready : s.seqr.part = .ready) (hfree : s.arr.running = none) (halone : ArrayAlone s.arr)
    (hother : (s.session (otherSession k)).state = .following →
      s.log.lastCommitted < (s.session (otherSession k)).nextSeq) : wakeSessions s = readOut k y c q s := by
  have hrange := hreads
  obtain ⟨-, hlow, hhigh, hq, -⟩ := hrange
  have hwakes : wakeSession k s = readOut k y c q s := by
    rw [wakeSession_wakes hstate hreached]
    exact fetchStep_read (fetchOf_reads hreads) hready hfree halone hlow hhigh hq
  cases k with
  | one =>
    rw [wakeSessions, hwakes]
    exact wakeSession_sleeps hother
  | two =>
    have hsleeps : wakeSession .one s = s := wakeSession_sleeps hother
    rw [wakeSessions, hsleeps, hwakes]

/-! ### LOG_RESUMED and the KEPT snapshot -/

/-- The state with another pending flag of LOG_RESUMED and other events raised. -/
def reraised (pending : Bool) (events : List (EventSource × Event)) (s : State) : State :=
  { s with log := { s.log with resumedPending := pending }, raised := { s.raised with events := events } }

section Reraised

variable {pending : Bool} {events : List (EventSource × Event)}

theorem HeadServed.reraised (h : HeadServed s u) : HeadServed (reraised pending events s) (reraised pending events u) := by
  obtain ⟨hready, hfree, halone, hseq, j, rest, hjobs, hsave, hclear, ⟨d, c, hcur, hd, hpage, hrecord, rfl⟩ | ⟨hfull, rfl⟩⟩ := h
  · exact ⟨hready, hfree, halone, hseq, j, rest, hjobs, hsave, hclear, .inl ⟨d, c, hcur, hd, hpage, hrecord, rfl⟩⟩
  · exact ⟨hready, hfree, halone, hseq, j, rest, hjobs, hsave, hclear, .inr ⟨hfull, rfl⟩⟩

theorem KeptLooked.reraised (h : KeptLooked u v) : KeptLooked (reraised pending events u) (reraised pending events v) := by
  obtain ⟨hnot, rfl⟩ | ⟨e, last, hopen, hctl, hstate, hasked, hjournaled, hlast, hcommitted, husable, hcovered, hjob⟩ := h
  · exact .inl ⟨hnot, rfl⟩
  · refine .inr ⟨e, last, hopen, hctl, hstate, hasked, hjournaled, hlast, hcommitted, husable, hcovered, ?_⟩
    obtain ⟨hbusy, rfl⟩ | ⟨hidle, hserved⟩ := hjob
    · exact .inl ⟨hbusy, rfl⟩
    · exact .inr ⟨hidle, hserved.reraised⟩

/-- Whether LOG_RESUMED is raised does not touch what the Capture Controller asks for. -/
theorem keptCheck_raiseResumed {n : Nat} (h : KeptLooked (raiseResumed n u) v) : raiseResumed n (keptCheck u) = v := by
  have hback : Machine.reraised u.log.resumedPending u.raised.events (raiseResumed n u) = u := by
    rw [raiseResumed_eq]
    rfl
  have hlooked : keptCheck u = Machine.reraised u.log.resumedPending u.raised.events v := by
    refine keptCheck_looked ?_
    have hsame := KeptLooked.reraised (pending := u.log.resumedPending) (events := u.raised.events) h
    rw [hback] at hsame
    exact hsame
  have hlog : v.log = { v.log with resumedPending := false } := by
    rw [KeptLooked.log h, raiseResumed_eq]
  have hevents : v.raised = { v.raised with events := u.raised.events
      ++ (if u.log.resumedPending = true then [(.log, .logResumed n)] else []) } := by
    have hraised : v.raised = (raiseResumed n u).raised := (congrArg State.raised (KeptLooked.frame h) :)
    rw [hraised, raiseResumed_eq]
  rw [hlooked, raiseResumed_eq]
  change ({ v with log := { v.log with resumedPending := false }, raised := { v.raised with events := u.raised.events
    ++ (if u.log.resumedPending = true then [(.log, .logResumed n)] else []) } } : State) = v
  rw [← hlog, ← hevents]

end Reraised

/-- Settles O37, by how the program ended and whom the commit reaches. -/
theorem logPagesCommitOrAreTriedAgain : Obligations.LogPagesCommitOrAreTriedAgain := by
  unfold Obligations.LogPagesCommitOrAreTriedAgain
  intro s
  refine ⟨exec_programPageEnd_none, fun b p h d x i hrun hwho hreq halone hstop hready hp hpage hwriting honly horder hslot => ?_⟩
  intro page e noted newest written sleeps
  have hexec := exec_programPageEnd hrun hreq halone
  have hbuf := bufIn_alone hwriting honly
  let f : State := freed (setPage s.store b p (some page)) s
  let w : State := pageWritten i b h f
  have hresumed : raiseResumed h.firstSeq w = written := by
    have hpending : w.log.resumedPending = s.log.resumedPending := pageNoted_resumedPending b h f.log
    rw [raiseResumed_eq, hpending]
    rfl
  have hcommits : ∀ u v, wakeSessions w = u → KeptLooked (raiseResumed h.firstSeq u) v → u.packer = w.packer →
      u.mgmt = s.mgmt → exec (.programPageEnd .committed) s = .next v := by
    intro u v hwakes hlooked hpacker hmgmt
    have hkept : v.packer = w.packer ∧ v.mgmt = s.mgmt := by
      rw [KeptLooked.packer hlooked, KeptLooked.mgmt hlooked, raiseResumed_eq]
      exact ⟨hpacker, hmgmt⟩
    obtain ⟨hpackerV, hmgmtV⟩ := hkept
    have hempty : waitingBuffer v = none := by
      have hnone : bufIn w.packer .writing = none := by
        refine bufIn_absent (fun j => ?_)
        by_cases hj : j = i
        · subst hj
          cases j <;> exact BufState.noConfusion
        · have hkeep : getBuf w.packer j = getBuf s.packer j := by
            cases i <;> cases j <;> first | rfl | exact absurd rfl hj
          rw [hkeep]
          exact honly j hj
      have horderW : w.packer.fullOrder = [] := by cases i <;> exact horder
      rw [waitingBuffer, hpackerV, hnone, horderW]
      rfl
    have hquiet : LogQuiet v := .inr (.inr (.inr hempty))
    have hdone : programDone x.who b h d true f = v := by
      rw [hwho]
      change logCommitted b h f = v
      rw [logCommitted_eq (s := f) hbuf hslot, hwakes, keptCheck_raiseResumed hlooked]
      exact logKick_quiet hquiet
    rw [hexec, programPage_committed hpage]
    exact congrArg _ ((congrArg settle hdone).trans (settle_quiet (hstop.carry hmgmtV) hquiet))
  refine ⟨fun v hsleeps hlooked => ?_, fun k y c q v hstate hsource hreached hreads hother hlooked => ?_,
    fun hactive hnext hlast hlow hhigh hfault hseq r hr => ?_⟩
  · have hsession : ∀ k, w.session k = s.session k := fun k => by cases k <;> rfl
    have hwakes : wakeSessions w = w := by
      rw [wakeSessions, wakeSession_sleeps (k := .one) (s := w) (hsleeps .one)]
      exact wakeSession_sleeps (k := .two) (s := w) (hsleeps .two)
    exact hcommits w v hwakes (by rw [hresumed]; exact hlooked) rfl rfl
  · have hwakes : wakeSessions w = readOut k y c q w :=
      wakeSessions_reads (s := w) (by cases k <;> exact hstate) (by cases k <;> exact hreached) (by cases k <;> exact hreads)
        hready rfl halone (by cases k <;> exact hother)
    have hread : raiseResumed h.firstSeq (readOut k y c q w) = readOut k y c q written := by
      rw [← hresumed, raiseResumed_eq, raiseResumed_eq]
      cases k <;> rfl
    exact hcommits _ v hwakes (by rw [hread]; exact hlooked) (by cases k <;> rfl) (by cases k <;> rfl)
  · intro buf header
    obtain ⟨hfailed, hblank, hlater, hothers⟩ := programPage_failed (h := h) (d := d) hpage hr hp
    refine ⟨(programPage s.store b p h d r).1, hblank, hlater, hothers, ?_⟩
    rw [hexec, hfailed, hwho]
    generalize (programPage s.store b p h d r).1 = store
    have hheader : formedHeader s.log.nextPageSeq (capturingField s b) (getBuf s.packer i) = header := by
      rw [capturingField_eq]
      rfl
    have hagain := logFailed_again (s := freed store s) hready hfault rfl halone hwriting honly hactive
      (by change s.log.nextPage < 15; omega) hlow hhigh hseq
    have hsettled : settle (logFailed (freed store s)) = logFailed (freed store s) := by
      rw [hagain]
      exact settle_quiet hstop (.inr (.inr (.inl (by simp [logProgramOut]))))
    change Host.Outcome.next (settle (logFailed (freed store s))) = _
    rw [hsettled, hagain, ← hheader, ← hnext]
    rfl

end Sys2Proof.Machine
end

section
/-! PROOF. The ends of journal programs (06, R109 to R113). -/

set_option Elab.async false

namespace Sys2Proof.Machine

variable {s t u v : State} {e : Entry} {r : Request} {st : Status} {result : Bytes} {b p : Nat} {h : PageHeader}
variable {j : JournalPage} {jobs : List Job} {n : Nat}

/-! ### Answers that have waited for a journal page (R161, R163) -/

/-- The stage of the request makes no difference to its answer. -/
theorem respond_entered {stage : ExecStage} (hcurrent : s.mgmt.current = some { req := r, stage := stage })
    (hroom : ReplyRoom r s) : respond st result s = replied r st result s := by
  obtain ⟨hup, hfree, hqueue⟩ := hroom
  have hidle : ∀ t : State, t.mgmt.queue = [] → thenNext (t, true) = t := fun t h => nextRequest_idle h
  rw [respond, answerWith, hcurrent]
  dsimp only
  rw [offerResponse, offerLocal_entered ⟨hup, hfree⟩]
  dsimp only
  rw [storable_eq, responseEntered, replied]
  by_cases hstore : st ≠ .denied ∧ st ≠ .mounting ∧ r.broadcast = false ∧ r.tag ≠ 0 ∧ r.cached = none
  · rw [if_pos hstore, decide_eq_true hstore]
    refine (hidle _ ?_).trans ?_ <;> cases r.port <;> first | exact hqueue | rfl
  · rw [if_neg hstore, decide_eq_false hstore]
    refine (hidle _ ?_).trans ?_ <;> cases r.port <;> first | exact hqueue | rfl

/-! ### The next job (R111, R112) -/

/-- The Journal Writer with the next of some jobs to serve. -/
def jobsLeft (state : JournalState) (jobs : List Job) (s : State) : State :=
  { s with jrnl := { s.jrnl with state := state, jobs := jobs, comp := Compaction.initial, profStep := 0 } }

theorem serveJobs_nil (hjobs : s.jrnl.jobs = []) :
    serveJobs s = { s with jrnl := { s.jrnl with state := .idle, comp := Compaction.initial, profStep := 0 } } := by
  rw [serveJobs, hjobs]
  rfl

theorem serveJobs_cons {k : Job} {rest : List Job} (hjobs : s.jrnl.jobs = k :: rest) :
    serveJobs s = if isProfileJob k then serveProfile s else serveJournal k s := by
  rw [serveJobs, hjobs]

/-- Serving the head job does not look at what the writer has done before. -/
theorem serveJobs_state (state : JournalState) (s : State) :
    serveJobs { s with jrnl := { s.jrnl with state := state } } = serveJobs s := by
  cases hjobs : s.jrnl.jobs with
  | nil =>
    rw [serveJobs_nil hjobs, serveJobs_nil (s := { s with jrnl := { s.jrnl with state := state } }) hjobs]
  | cons k rest =>
    have hbegin : beginCompaction { s with jrnl := { s.jrnl with state := state } } = beginCompaction s := rfl
    have hrecord : jobRecord { s with jrnl := { s.jrnl with state := state } } k = jobRecord s k := by cases k <;> rfl
    have hjournal : serveJournal k { s with jrnl := { s.jrnl with state := state } } = serveJournal k s := by
      rw [serveJournal, serveJournal, hbegin, hrecord]
      rfl
    rw [serveJobs_cons hjobs, serveJobs_cons (s := { s with jrnl := { s.jrnl with state := state } }) hjobs, hjournal]
    rfl

theorem serveNext_none (hjobs : s.jrnl.jobs = []) : serveNext s = jobsLeft .idle [] s := by
  rw [serveNext, serveJobs_nil (s := s.setJrnl { s.jrnl with comp := Compaction.initial, profStep := 0 }) hjobs, jobsLeft,
    ← hjobs]
  rfl

theorem replied_frame : replied r st result s = { s with
    portA := (replied r st result s).portA, portB := (replied r st result s).portB,
    serial := (replied r st result s).serial, mgmt := (replied r st result s).mgmt } := by
  unfold replied
  cases r.port <;> rfl

/-- With no further job the answer leaves the writer IDLE. -/
theorem replied_served (hjobs : s.jrnl.jobs = []) :
    serveNext (replied r st result s) = replied r st result (jobsLeft .idle [] s) := by
  rw [serveNext_none (s := replied r st result s) (by cases hport : r.port <;> simpa [replied, State.setPort, hport] using hjobs)]
  unfold replied jobsLeft
  cases r.port <;> rfl

theorem serveNext_head (hserved : HeadServed (jobsLeft .idle s.jrnl.jobs s) v) : serveNext s = v :=
  (serveJobs_state .idle _).symm.trans (serveJobs_head hserved)

/-- An operation of another requester's is none of the Log Writer's. -/
theorem LogQuiet.operation {x : Running} (hquiet : LogQuiet s) (hfree : s.arr.running = none) (halone : ArrayAlone s.arr)
    (hseqr : v.seqr = s.seqr) (hcond : v.log.condition = s.log.condition) (hpacker : v.packer = s.packer)
    (harr : v.arr = { s.arr with running := some x }) (hwho : x.who ≠ .logWriter) : LogQuiet v := by
  have hout := logProgramOut_free hfree halone
  obtain ⟨-, -, hlogWriter, -⟩ := halone
  have houtV : logProgramOut v.arr = false := by simp [logProgramOut, harr, hlogWriter, hwho]
  have hwaits : waitingBuffer v = waitingBuffer s := by rw [waitingBuffer, waitingBuffer, hpacker, hout, houtV]
  rcases hquiet with hpart | hinFault | hprogram | hnone
  · exact .inl (hseqr ▸ hpart)
  · exact .inr (.inl ((inFault_same hcond).trans hinFault))
  · exact absurd hprogram (ne_true_of_eq_false hout)
  · exact .inr (.inr (.inr (hwaits.trans hnone)))

theorem HeadServed.quiet (hserved : HeadServed s v) (hquiet : LogQuiet s) : LogQuiet v := by
  obtain ⟨-, hfree, halone, -, k, rest, -, -, -, hcase⟩ := hserved
  rcases hcase with ⟨d, c, -, -, -, -, rfl⟩ | ⟨-, rfl⟩
  · exact hquiet.operation hfree halone rfl rfl rfl rfl nofun
  · exact hquiet.operation hfree halone rfl rfl rfl rfl nofun

theorem LogQuiet.carry_condition (h : LogQuiet s) (hseqr : t.seqr = s.seqr) (hcond : t.log.condition = s.log.condition)
    (harr : t.arr = s.arr) (hpacker : t.packer = s.packer) : LogQuiet t := by
  rw [LogQuiet, hseqr, inFault_same hcond, harr,
    waitingBuffer_carry harr (by rw [hpacker]) (by rw [hpacker]) (by rw [hpacker])]
  exact h

theorem HeadServed.mgmt (hserved : HeadServed s v) : v.mgmt = s.mgmt := (congrArg State.mgmt hserved.frame :)

/-! ### Appends (R112) -/

/-- A page has been appended, and the jobs behind it are left. -/
def appended (jobs : List Job) (s : State) : State :=
  { s with jrnl := { s.jrnl with nextPage := s.jrnl.nextPage + 1, jobs := jobs } }

theorem appendCommitted_eq {k : Job} {rest : List Job} {record : PageRecord} (hjobs : s.jrnl.jobs = k :: rest) :
    appendCommitted record s
      = serveNext (reportCommit k (noteJournaled record (appended (dropCovered record rest) s))) := by
  rw [appendCommitted, hjobs]
  rfl

/-- The commit of an append, with the array to itself. -/
theorem exec_appended {x : Running} {k : Job} {rest : List Job} (hrun : s.arr.running = some x) (hwho : x.who = .journal)
    (hreq : x.req = .program b p h (.journal j)) (halone : ArrayAlone s.arr) (hstate : s.jrnl.state = .appending)
    (hpage : pageAt s.store b p = none) (hjobs : s.jrnl.jobs = k :: rest) :
    exec (.programPageEnd .committed) s = .next (settle (serveNext (reportCommit k (noteJournaled j.record
      (appended (dropCovered j.record rest)
        (freed (setPage s.store b p (some { mark := .present, headerFlaw := 0, dataFlaw := 0, header := h, data := .journal j }))
          s)))))) := by
  rw [exec_programPageEnd hrun hreq halone, programPage_committed hpage, hwho]
  refine congrArg (fun w => Host.Outcome.next (settle w)) ?_
  rw [← appendCommitted_eq (s := freed _ s) hjobs]
  change journalProgrammed (.journal j) true _ = _
  rw [journalProgrammed]
  change (match s.jrnl.state with | .idle => _ | .appending => _ | .compacting => _ | .profile => _) = _
  rw [hstate]
  rfl

/-! ### Entries of the directory -/

section Entries

variable {d : Directory} {f : Entry}

/-- The Directory with one entry in another form. -/
def entryChanged (e f : Entry) (d : Directory) : Directory :=
  { d with entries := d.entries.map (fun y => if y = e then f else y) }

/-- The open entry in another form that leaves it open is the open entry. -/
theorem openEntry_noted (hopen : openEntry d = some e) (hstate : f.state = e.state) :
    openEntry (entryChanged e f d) = some f := by
  have hmap := openEntry_map (d := d) (f := fun y => if y = e then f else y) fun y => by
    by_cases h : y = e
    · rw [if_pos h, hstate, h]
    · rw [if_neg h]
  rw [entryChanged, hmap, hopen, Option.map_some, if_pos rfl]

theorem findEntry_noted (hfind : findEntry d n = some e) (hnum : f.num = e.num) :
    findEntry (entryChanged e f d) n = some f := by
  have hmap := findEntry_map (d := d) (n := n) (f := fun y => if y = e then f else y) fun y => by
    by_cases h : y = e
    · rw [if_pos h, hnum, h]
    · rw [if_neg h]
  rw [entryChanged, hmap, hfind, Option.map_some, if_pos rfl]

theorem changeEntry_noted (honly : ∀ y ∈ d.entries, y.num = e.num → y = e) (hnum : f.num = e.num) (g : Entry → Entry) :
    changeEntry (entryChanged e f d) e.num g = entryChanged e (g f) d := by
  simp only [changeEntry, entryChanged, List.map_map]
  refine congrArg (fun l => ({ d with entries := l } : Directory)) (List.map_congr_left fun y hy => ?_)
  by_cases h : y = e
  · simp only [Function.comp_apply, if_pos h, if_pos hnum]
  · have hother : y.num ≠ e.num := fun heq => h (honly y hy heq)
    simp only [Function.comp_apply, if_neg h, if_neg hother]

end Entries

/-! ### What the asker makes of a commit -/

theorem capturingCommitted_eq (hfind : findEntry s.dir n = some e) (hopen : e.state = .capturing ∨ e.state = .closing) :
    capturingCommitted n s = keptCheck { s with raised := { s.raised with events := s.raised.events
      ++ [(.controller, .triggered n e.source e.trigLost e.trigSeq e.trigTime e.first)] } } := by
  rw [capturingCommitted, hfind]
  exact if_pos hopen

/-- The CLOSING entry is KEPT, before the controller goes on to its target (R100). -/
def keptNoted (n : Nat) (e : Entry) (s : State) : State := { s with
  dir := changeEntry s.dir n (fun x => { x with state := .kept }),
  log := { s.log with capturingRec := 0 },
  ctl := { s.ctl with keptAsked := false },
  raised := { s.raised with events := s.raised.events
    ++ [(.controller, .recordingKept n e.reason e.first (e.last.getD 0) e.blocks.length)] } }

section Kept

variable (hfind : findEntry s.dir n = some e) (hclosing : e.state = .closing)
include hfind hclosing

theorem keptCommitted_rearms (htarget : s.ctl.target = some .running) (hrearm : s.ctl.settings.rearm = true) :
    keptCommitted n s = { keptNoted n e s with ctl := { (keptNoted n e s).ctl with
      state := .running, target := none,
      holdoffTimer := if s.ctl.settings.holdoff = 0 then none else some s.ctl.settings.holdoff } } := by
  rw [keptCommitted, hfind]
  dsimp only
  rw [if_pos hclosing]
  change (match s.ctl.target with | some .running => _ | some .stopped => _ | none => _) = _
  rw [htarget]
  exact if_pos hrearm

theorem keptCommitted_singleShot {q : Packer} (htarget : s.ctl.target = some .running)
    (hrearm : s.ctl.settings.rearm = false) (hplaced : StopPlaced .singleShot s q) :
    keptCommitted n s = captureEnded { keptNoted n e s with
      packer := q, ctl := { (keptNoted n e s).ctl with stopReason := some .singleShot } } := by
  rw [keptCommitted, hfind]
  dsimp only
  rw [if_pos hclosing]
  change (match s.ctl.target with | some .running => _ | some .stopped => _ | none => _) = _
  rw [htarget]
  have hoffer := offerRunStop_placed (s := keptNoted n e s) hplaced
  exact (if_neg (ne_true_of_eq_false hrearm)).trans (congrArg enterStopped hoffer)

theorem keptCommitted_stops (htarget : s.ctl.target = some .stopped) :
    keptCommitted n s = captureEnded (keptNoted n e s) := by
  rw [keptCommitted, hfind]
  dsimp only
  rw [if_pos hclosing]
  change (match s.ctl.target with | some .running => _ | some .stopped => _ | none => _) = _
  rw [htarget]
  rfl

end Kept

/-! ### Holds that fall with a release (R65) -/

theorem foldl_lowerHold (blocks : List Nat) (l : LogManager) :
    blocks.foldl lowerHold l = { l with table := (blocks.foldl lowerHold l).table } := by
  induction blocks generalizing l with
  | nil => rfl
  | cons b rest ih =>
    rw [List.foldl_cons, ih (lowerHold l b)]
    rfl

/-! ### The commits of O38, by the page's record -/

/-- The part once an append has ended with some jobs left and the writer IDLE. -/
def appendEnded (b p : Nat) (h : PageHeader) (j : JournalPage) (jobs : List Job) (s : State) : State := { s with
  store := setPage s.store b p (some (writtenPage h (.journal j))),
  arr := { s.arr with running := none },
  jrnl := { s.jrnl with
    nextPage := s.jrnl.nextPage + 1, state := .idle, jobs := jobs, comp := Compaction.initial, profStep := 0 } }

/-- The part once an append has been taken out of the job list. -/
def appendTaken (b p : Nat) (h : PageHeader) (j : JournalPage) (jobs : List Job) (s : State) : State :=
  appended jobs (freed (setPage s.store b p (some (writtenPage h (.journal j)))) s)

section Commits

variable {x : Running} (hrun : s.arr.running = some x) (hwho : x.who = .journal)
  (hreq : x.req = .program b p h (.journal j)) (halone : ArrayAlone s.arr)
  (hstate : s.jrnl.state = .appending) (hpage : pageAt s.store b p = none)
include hrun hwho hreq halone hstate hpage

theorem append_ends {k : Job} {rest : List Job} (hjobs : s.jrnl.jobs = k :: rest)
    (hreport : serveNext (reportCommit k (noteJournaled j.record (appendTaken b p h j (dropCovered j.record rest) s))) = v)
    (hends : NoStop v) (hquiet : LogQuiet v) : exec (.programPageEnd .committed) s = .next v := by
  rw [exec_appended hrun hwho hreq halone hstate hpage hjobs]
  change Host.Outcome.next (settle (serveNext (reportCommit k (noteJournaled j.record (appendTaken b p h j _ s))))) = _
  rw [hreport, settle_quiet hends hquiet]

end Commits

section Snapshots

variable {x : Running} {snap : Snapshot} (hrun : s.arr.running = some x) (hwho : x.who = .journal)
  (hreq : x.req = .program b p h (.journal j)) (halone : ArrayAlone s.arr) (hstop : NoStop s)
  (hstate : s.jrnl.state = .appending) (hpage : pageAt s.store b p = none)
  (hquiet : LogQuiet (s.setArr { s.arr with running := none }))
  (hrecord : j.record = .snapshot snap) (hfind : findEntry s.dir snap.num = some e)
  (honly : ∀ y ∈ s.dir.entries, y.num = e.num → y = e)

/-- The CAPTURING recording's entry is journaled, and TRIGGERED raised. -/
def triggerNoted (b p : Nat) (h : PageHeader) (j : JournalPage) (e : Entry) (jobs : List Job) (s : State) : State := {
  appendEnded b p h j jobs s with
    dir := entryChanged e { e with journaled := .capturing } s.dir,
    raised := { s.raised with events := s.raised.events
      ++ [(.controller, .triggered e.num e.source e.trigLost e.trigSeq e.trigTime e.first)] } }

/-- An append of the entry's snapshot has been taken out of the job list, and the entry is journaled. -/
def snapshotTaken (b p : Nat) (h : PageHeader) (j : JournalPage) (e : Entry) (g : Journaled) (s : State) : State :=
  { appendTaken b p h j [] s with dir := entryChanged e { e with journaled := g } s.dir }

section Report

include hrecord hfind honly

theorem noteJournaled_snapshot : noteJournaled j.record (appendTaken b p h j [] s)
    = snapshotTaken b p h j e (journaledOf snap.state) s := by
  have hchange := changeEntry_alone honly (fun y => { y with journaled := journaledOf snap.state })
  rw [hrecord, noteJournaled, ← num_of_findEntry hfind]
  exact congrArg (fun d => { appendTaken b p h j [] s with dir := d }) hchange

theorem capturing_reported {blocks : List Nat} (hsnap : snap.state = .capturing)
    (hentry : e.state = .capturing ∨ e.state = .closing) :
    reportCommit (.capturing e.num blocks) (noteJournaled j.record (appendTaken b p h j [] s))
      = keptCheck { triggerNoted b p h j e [] s with jrnl := (appendTaken b p h j [] s).jrnl } := by
  have hnamed : findEntry s.dir e.num = some e := num_of_findEntry hfind ▸ hfind
  have hnoted : findEntry (snapshotTaken b p h j e .capturing s).dir e.num = some { e with journaled := .capturing } :=
    findEntry_noted hnamed rfl
  rw [noteJournaled_snapshot hrecord hfind honly, hsnap]
  exact capturingCommitted_eq (e := { e with journaled := .capturing }) hnoted hentry

end Report

include hrun hwho hreq halone hstop hstate hpage hquiet hrecord hfind honly

theorem capturing_commits {blocks : List Nat} (hjobs : s.jrnl.jobs = [.capturing e.num blocks])
    (hsnap : snap.state = .capturing) (hopen : openEntry s.dir = some e)
    (hearly : e.state = .capturing ∧ e.last = none
      ∨ e.state = .closing ∧ ∃ last, e.last = some last ∧ s.log.lastCommitted < last) :
    exec (.programPageEnd .committed) s = .next (triggerNoted b p h j e [] s) := by
  refine append_ends hrun hwho hreq halone hstate hpage hjobs ?_ hstop (hquiet.carry rfl rfl rfl rfl rfl rfl)
  have hdrop : dropCovered j.record [] = [] := by rw [hrecord]; rfl
  have hentry : e.state = .capturing ∨ e.state = .closing := hearly.imp And.left And.left
  have hopenNoted := openEntry_noted (f := { e with journaled := .capturing }) hopen rfl
  rw [hdrop, capturing_reported hrecord hfind honly hsnap hentry, keptCheck_looked (.inl ⟨fun y hy _ _ _ => ?_, rfl⟩),
    serveNext_none rfl]
  · rfl
  · obtain rfl : { e with journaled := .capturing } = y := Option.some.inj (hopenNoted.symm.trans hy)
    refine .inr fun last hlast => ?_
    obtain ⟨-, hnone⟩ | ⟨-, final, hfinal, hbelow⟩ := hearly
    · exact absurd (hnone.symm.trans hlast) nofun
    · obtain rfl : final = last := Option.some.inj (hfinal.symm.trans hlast)
      exact hbelow

theorem capturing_commits_due {blocks : List Nat} {last : Nat} (hjobs : s.jrnl.jobs = [.capturing e.num blocks])
    (hsnap : snap.state = .capturing) (hopen : openEntry s.dir = some e)
    (hclosing : e.state = .closing) (hlast : e.last = some last) (hdue : last ≤ s.log.lastCommitted)
    (hctl : s.ctl.state = .closing) (hasked : s.ctl.keptAsked = false) (husable : s.jrnl.usable = true)
    (hserved : HeadServed { triggerNoted b p h j e [.kept e.num] s with ctl := { s.ctl with keptAsked := true } } v) :
    exec (.programPageEnd .committed) s = .next v := by
  refine append_ends hrun hwho hreq halone hstate hpage hjobs ?_ (hstop.carry hserved.mgmt)
    (hserved.quiet (hquiet.carry rfl rfl rfl rfl rfl rfl))
  have hdrop : dropCovered j.record [] = [] := by rw [hrecord]; rfl
  have hopenNoted := openEntry_noted (f := { e with journaled := .capturing }) hopen rfl
  have hlooked : KeptLooked { triggerNoted b p h j e [] s with jrnl := (appendTaken b p h j [] s).jrnl }
      { triggerNoted b p h j e [] s with
        ctl := { s.ctl with keptAsked := true }, jrnl := (appendTaken b p h j [.kept e.num] s).jrnl } :=
    .inr ⟨_, last, hopenNoted, hctl, hclosing, hasked, nofun, hlast, hdue, husable, nofun,
      .inl ⟨(ne_of_value hstate (by decide)), rfl⟩⟩
  rw [hdrop, capturing_reported hrecord hfind honly hsnap (.inr hclosing), keptCheck_looked hlooked]
  exact serveNext_head hserved

/-- The recording is KEPT: the part before the controller goes on to its target. -/
def keptEnded (b p : Nat) (h : PageHeader) (j : JournalPage) (e : Entry) (s : State) : State := {
  appendEnded b p h j [] s with
    dir := entryChanged e { e with journaled := .kept, state := .kept } s.dir,
    log := { s.log with capturingRec := 0 },
    ctl := { s.ctl with keptAsked := false },
    raised := { s.raised with events := s.raised.events
      ++ [(.controller, .recordingKept e.num e.reason e.first (e.last.getD 0) e.blocks.length)] } }

theorem kept_commits (hjobs : s.jrnl.jobs = [.kept e.num]) (hsnap : snap.state = .kept) (hclosing : e.state = .closing) :
    (s.ctl.target = some .running → s.ctl.settings.rearm = true →
      exec (.programPageEnd .committed) s = .next { keptEnded b p h j e s with ctl := { s.ctl with
        keptAsked := false, state := .running, target := none,
        holdoffTimer := if s.ctl.settings.holdoff = 0 then none else some s.ctl.settings.holdoff } })
    ∧ (∀ u, s.ctl.target = some .running → s.ctl.settings.rearm = false → StopPlaced .singleShot s u →
      exec (.programPageEnd .committed) s = .next (settle (captureEnded { keptEnded b p h j e s with
        packer := u, ctl := { s.ctl with keptAsked := false, stopReason := some .singleShot } })))
    ∧ (s.ctl.target = some .stopped →
      exec (.programPageEnd .committed) s = .next (captureEnded (keptEnded b p h j e s))) := by
  have hnamed : findEntry s.dir e.num = some e := num_of_findEntry hfind ▸ hfind
  let w : State := snapshotTaken b p h j e .kept s
  have hnoted : findEntry w.dir e.num = some { e with journaled := .kept } := findEntry_noted hnamed rfl
  have hexec := exec_appended hrun hwho hreq halone hstate hpage hjobs
  have hreport : reportCommit (.kept e.num) (noteJournaled j.record (appendTaken b p h j (dropCovered j.record []) s))
      = keptCommitted e.num w := by
    have hdrop : dropCovered j.record [] = [] := by rw [hrecord]; rfl
    rw [hdrop, noteJournaled_snapshot hrecord hfind honly, hsnap]
    rfl
  have hkept : keptNoted e.num { e with journaled := .kept } w
      = { keptEnded b p h j e s with jrnl := (appendTaken b p h j [] s).jrnl } :=
    congrArg (fun d => { keptEnded b p h j e s with jrnl := (appendTaken b p h j [] s).jrnl, dir := d })
      (changeEntry_noted (f := { e with journaled := .kept }) honly rfl (fun y => { y with state := .kept }))
  have hends : ∀ v, keptCommitted e.num w = v → v.jrnl.jobs = [] →
      exec (.programPageEnd .committed) s = .next (settle (jobsLeft .idle [] v)) := by
    rintro v hv hempty
    rw [hexec, ← hv, ← serveNext_none (hv.symm ▸ hempty)]
    exact congrArg (fun t => Host.Outcome.next (settle (serveNext t))) hreport
  refine ⟨fun htarget hrearm => ?_, fun u htarget hrearm hplaced => ?_, fun htarget => ?_⟩
  · rw [hends _ (keptCommitted_rearms hnoted hclosing htarget hrearm) rfl, hkept]
    exact congrArg _ (settle_quiet hstop (hquiet.carry_condition rfl rfl rfl rfl))
  · rw [hends _ (keptCommitted_singleShot hnoted hclosing htarget hrearm hplaced) rfl, hkept]
    rfl
  · rw [hends _ (keptCommitted_stops hnoted hclosing htarget) rfl, hkept]
    exact congrArg _ (settle_quiet hstop (hquiet.carry_condition rfl rfl rfl rfl))

omit hstop in
theorem frozen_commits (hjobs : s.jrnl.jobs = [.frozen e.num]) (hsnap : snap.state = .frozen)
    (hcurrent : s.mgmt.current = some { req := r, stage := .journal }) (hroom : ReplyRoom r s) :
    exec (.programPageEnd .committed) s = .next (replied r .ok [] { appendEnded b p h j [] s with
      dir := entryChanged e { e with journaled := .frozen, state := .frozen } s.dir }) := by
  let f : State := { appendTaken b p h j [] s with
    dir := entryChanged e { e with journaled := .frozen, state := .frozen } s.dir }
  refine append_ends hrun hwho hreq halone hstate hpage hjobs ?_ NoStop.after_reply
    (LogQuiet.after_reply (hquiet.carry rfl rfl rfl rfl rfl rfl))
  have hdrop : dropCovered j.record [] = [] := by rw [hrecord]; rfl
  have hfreeze : freezeCommitted e.num (snapshotTaken b p h j e .frozen s) = replied r .ok [] f := by
    rw [← respond_entered (s := f) hcurrent hroom]
    exact congrArg (fun d => respond .ok [] { appendTaken b p h j [] s with dir := d })
      (changeEntry_noted (f := { e with journaled := .frozen }) honly rfl (fun y => { y with state := .frozen }))
  have hreport : reportCommit (.frozen e.num) (noteJournaled j.record (appendTaken b p h j [] s)) = replied r .ok [] f := by
    rw [noteJournaled_snapshot hrecord hfind honly, hsnap]
    exact hfreeze
  rw [hdrop, hreport]
  exact replied_served rfl

end Snapshots

section Releases

/-- The recording has left the directory, and its holds have fallen. -/
def recordingReleased (b p : Nat) (h : PageHeader) (j : JournalPage) (e : Entry) (s : State) : State := {
  appendEnded b p h j [] s with
    dir := { s.dir with entries := s.dir.entries.filter (fun y => decide (y.num ≠ e.num)) },
    log := e.blocks.foldl lowerHold s.log }

/-- Without a search the claim lowers the holds alone. -/
theorem releaseClaim_prepared (hahead : s.log.ahead ≠ .none) (blocks : List Nat) :
    releaseClaim blocks s = { s with log := blocks.foldl lowerHold s.log } := by
  rw [releaseClaim]
  refine if_neg ?_
  change (blocks.foldl lowerHold s.log).ahead ≠ .none
  rw [foldl_lowerHold]
  exact hahead

/-- With an erase under way and no page, the condition is WAITING while a buffer waits (R78). -/
def pageAwaited (s : State) : State :=
  { s with log := { s.log with condition := if waitingBuffer s = none then s.log.condition else .waiting } }

/-- The Log Writer cannot hand a buffer in, and its check finds an erase under way. -/
structure PageAwaited (c : Nat) (s : State) : Prop where
  ready : s.seqr.part = .ready
  serving : inFault s.log = false
  program : logProgramOut s.arr = false
  noPage : s.log.active = none ∨ 15 < s.log.nextPage
  underWay : s.log.ahead = .underWay c

theorem PageAwaited.kick {c : Nat} (h : PageAwaited c s) : logKick s = pageAwaited s := by
  cases hwaits : waitingBuffer s with
  | none => rw [logKick_quiet (.inr (.inr (.inr hwaits))), pageAwaited, if_pos hwaits]
  | some i =>
    rw [logKick_noPage h.ready h.serving h.program hwaits h.noPage, h.underWay]
    dsimp only
    rw [noPage_underWay h.underWay, pageAwaited, if_neg (by rw [hwaits]; exact Option.some_ne_none i)]

/-- The check finds nothing new once it has been made. -/
theorem PageAwaited.kicked {c : Nat} (h : PageAwaited c s) (hseqr : t.seqr = s.seqr) (hlog : t.log = (pageAwaited s).log)
    (harr : t.arr = s.arr) (hpacker : t.packer = s.packer) : logKick t = t := by
  obtain ⟨hready, hserving, hprogram, hnoPage, hunderWay⟩ := h
  have hwaits : waitingBuffer t = waitingBuffer s :=
    waitingBuffer_carry harr (by rw [hpacker]) (by rw [hpacker]) (by rw [hpacker])
  have hservingT : inFault t.log = false := by
    rw [hlog, pageAwaited]
    by_cases hnone : waitingBuffer s = none
    · rw [if_pos hnone]
      exact hserving
    · rw [if_neg hnone]
      rfl
  have hawaited : PageAwaited c t := by
    refine ⟨hseqr ▸ hready, hservingT, harr ▸ hprogram, ?_, ?_⟩
    · rw [hlog]
      exact hnoPage
    · rw [hlog]
      exact hunderWay
  have hsame : (pageAwaited t).log = t.log := by
    rw [pageAwaited, hwaits]
    by_cases hnone : waitingBuffer s = none
    · rw [if_pos hnone]
    · have hcond : t.log.condition = .waiting := by
        rw [hlog, pageAwaited]
        exact if_neg hnone
      rw [if_neg hnone, ← hcond]
  rw [hawaited.kick]
  exact congrArg (fun l => { t with log := l }) hsame

variable {x : Running} (hrun : s.arr.running = some x) (hwho : x.who = .journal)
  (hreq : x.req = .program b p h (.journal j)) (halone : ArrayAlone s.arr) 
  (hstate : s.jrnl.state = .appending) (hpage : pageAt s.store b p = none)
  (hrecord : j.record = .released e.num) (hjobs : s.jrnl.jobs = [.released e.num])
  (hfind : findEntry s.dir e.num = some e)
  (hcurrent : s.mgmt.current = some { req := r, stage := .journal }) (hroom : ReplyRoom r s)

include hrecord hfind hcurrent hroom

/-- The release is answered once its claim has been made. -/
theorem release_reported {w : State} (hclaim : releaseClaim e.blocks { appendTaken b p h j [] s with
      dir := { s.dir with entries := s.dir.entries.filter (fun y => decide (y.num ≠ e.num)) } } = w)
    (hjobsW : w.jrnl.jobs = []) (hmgmt : w.mgmt = s.mgmt) (hports : ∀ q, w.port q = s.port q) :
    serveNext (reportCommit (.released e.num) (noteJournaled j.record (appendTaken b p h j (dropCovered j.record []) s)))
      = replied r .ok [] (jobsLeft .idle [] w) := by
  have hnote : noteJournaled j.record (appendTaken b p h j (dropCovered j.record []) s) = appendTaken b p h j [] s := by
    rw [hrecord]
    rfl
  have hroomW : ReplyRoom r w := by
    rw [ReplyRoom, hports, hmgmt]
    exact hroom
  rw [hnote, ← replied_served hjobsW, ← respond_entered (hmgmt ▸ hcurrent) hroomW, ← hclaim]
  change serveNext (releaseCommitted e.num _) = _
  unfold releaseCommitted
  change serveNext (match findEntry s.dir e.num with | none => _ | some e => _) = _
  rw [hfind]
  rfl

include hrun hwho hreq halone hstate hpage hjobs

theorem released_commits (hquiet : LogQuiet (s.setArr { s.arr with running := none })) (hahead : s.log.ahead ≠ .none) :
    exec (.programPageEnd .committed) s = .next (replied r .ok [] (recordingReleased b p h j e s)) := by
  have hclaim := releaseClaim_prepared (s := { appendTaken b p h j [] s with
      dir := { s.dir with entries := s.dir.entries.filter (fun y => decide (y.num ≠ e.num)) } }) hahead e.blocks
  refine append_ends hrun hwho hreq halone hstate hpage hjobs
    (release_reported hrecord hfind hcurrent hroom hclaim rfl rfl (fun q => by cases q <;> rfl)) NoStop.after_reply
    (LogQuiet.after_reply (hquiet.carry_condition rfl ?_ rfl rfl))
  change (e.blocks.foldl lowerHold s.log).condition = _
  rw [foldl_lowerHold]
  rfl

theorem released_searches {c : Nat} (hahead : s.log.ahead = .none) (hready : s.seqr.part = .ready)
    (hfault : inFault s.log = false) (hnoPage : s.log.active = none ∨ 15 < s.log.nextPage)
    (hcandidate : candidate (e.blocks.foldl lowerHold s.log) = some c) (hlow : 4 ≤ c) (hhigh : c ≤ 1023)
    (hlive : NoLiveSession s) :
    exec (.programPageEnd .committed) s = .next (replied r .ok [] (eraseHanded .eraseAhead c {
      recordingReleased b p h j e s with
        log := { chosenLog (e.blocks.foldl lowerHold s.log) c with
          condition := if waitingBuffer (appendEnded b p h j [] s) = none then s.log.condition else .waiting } })) := by
  let f : State := { appendTaken b p h j [] s with
    dir := { s.dir with entries := s.dir.entries.filter (fun y => decide (y.num ≠ e.num)) },
    log := e.blocks.foldl lowerHold s.log }
  let g : State := eraseHanded .eraseAhead c { f with log := chosenLog f.log c }
  have hlog : f.log = { s.log with table := f.log.table } := foldl_lowerHold e.blocks s.log
  have hsearch : searchErase f = g :=
    searchErase_some (s := f) hready (by rw [hlog]; exact (inFault_same rfl).trans hfault) rfl halone hcandidate hlow hhigh
      hlive
  have hawaited : PageAwaited c g := by
    refine ⟨hready, ?_, ?_, ?_, rfl⟩
    · exact (inFault_same (l := s.log) (by change (chosenLog f.log c).condition = _; rw [hlog]; rfl)).trans hfault
    · obtain ⟨-, -, hprogram, -⟩ := halone
      simp [g, f, eraseHanded, logProgramOut, appendTaken, appended, freed, hprogram]
    · change (chosenLog f.log c).active = none ∨ 15 < (chosenLog f.log c).nextPage
      rw [hlog]
      exact hnoPage
  have hclaim : releaseClaim e.blocks { appendTaken b p h j [] s with
      dir := { s.dir with entries := s.dir.entries.filter (fun y => decide (y.num ≠ e.num)) } } = pageAwaited g := by
    rw [releaseClaim]
    refine (if_pos ?_).trans ?_
    · change f.log.ahead = .none
      rw [hlog]
      exact hahead
    · exact (congrArg logKick hsearch).trans hawaited.kick
  have hreport := release_reported hrecord hfind hcurrent hroom hclaim rfl rfl (fun q => by cases q <;> rfl)
  rw [exec_appended hrun hwho hreq halone hstate hpage hjobs]
  change Host.Outcome.next (settle (serveNext (reportCommit (.released e.num) (noteJournaled j.record
    (appendTaken b p h j _ s))))) = _
  have hsettled : settle (replied r .ok [] (jobsLeft .idle [] (pageAwaited g)))
      = replied r .ok [] (jobsLeft .idle [] (pageAwaited g)) :=
    settle_kick (hawaited.kicked (by rw [replied_frame]; rfl) (by rw [replied_frame]; rfl) (by rw [replied_frame]; rfl)
      (by rw [replied_frame]; rfl)) NoStop.after_reply
  have hwaits : waitingBuffer g = waitingBuffer (appendEnded b p h j [] s) := by
    have hfree : logProgramOut (appendEnded b p h j [] s).arr = false :=
      logProgramOut_free (s := appendEnded b p h j [] s) rfl halone
    rw [waitingBuffer, waitingBuffer, hawaited.program, hfree]
    rfl
  have hcondition : g.log.condition = s.log.condition := by
    change (chosenLog f.log c).condition = _
    rw [hlog]
    rfl
  rw [hreport, hsettled, pageAwaited, hwaits, hcondition]
  rfl

end Releases

/-- A RETIRED_LIST page leaves the jobs that it has not covered. -/
theorem dropCovered_retiredList (bs : List Nat) (rest : List Job) :
    dropCovered (.retiredList bs) rest = rest.filter (fun k => decide (k ≠ .retiredList true)) := by
  refine List.filter_congr fun k _ => ?_
  cases k with
  | retiredList c => cases c <;> rfl
  | _ => rfl

/-- A job handed in again goes the way of a job newly served while a page is left or a compaction (R113, R117). -/
theorem appendAgain_eq {k : Job} (hleft : (∃ d, t.jrnl.cur = some d) ∧ t.jrnl.nextPage ≤ 15 ∨ t.jrnl.comp.begun < 3) :
    appendAgain k t = serveJournal k t := by
  rcases hleft with ⟨⟨d, hcur⟩, hpage⟩ | hbegun
  · simp only [appendAgain, serveJournal, hcur, if_pos hpage]
  · have hcompact : compactAgain t = beginCompaction t := if_pos hbegun
    cases hcur : t.jrnl.cur with
    | none => simp only [appendAgain, serveJournal, hcur, hcompact]
    | some d => simp only [appendAgain, serveJournal, hcur, hcompact]

theorem serveJournal_head {k : Job} {rest : List Job} (hserved : HeadServed t v) (hjobs : t.jrnl.jobs = k :: rest) :
    serveJournal k t = v := by
  have hserve := serveJobs_head hserved
  obtain ⟨-, -, -, -, k', rest', hjobs', hsave, hclear, -⟩ := hserved
  obtain ⟨rfl, -⟩ : k = k' ∧ rest = rest' := List.cons.inj (hjobs.symm.trans hjobs')
  rw [serveJobs_cons hjobs, isProfileJob_eq_false hsave hclear] at hserve
  exact hserve

theorem appendFailed_eq {k : Job} {rest : List Job} (hjobs : s.jrnl.jobs = k :: rest) : appendFailed s
    = appendAgain k { s with jrnl := { s.jrnl with
      nextPage := s.jrnl.nextPage + 1, dirFailures := min counterMax (s.jrnl.dirFailures + 1) } } := by
  rw [appendFailed, hjobs, ← bump_eq]
  rfl

section ListsAndFailures

variable {x : Running} (hrun : s.arr.running = some x) (hwho : x.who = .journal)
  (hreq : x.req = .program b p h (.journal j)) (halone : ArrayAlone s.arr) (hstop : NoStop s)
  (hstate : s.jrnl.state = .appending) (hpage : pageAt s.store b p = none)
  (hquiet : LogQuiet (s.setArr { s.arr with running := none }))
include hrun hwho hreq halone hstop hstate hpage hquiet

theorem retiredList_commits {bs : List Nat} {c : Bool} {rest : List Job} (hrecord : j.record = .retiredList bs)
    (hjobs : s.jrnl.jobs = .retiredList c :: rest) :
    let left := rest.filter (fun k => decide (k ≠ .retiredList true))
    (left = [] → exec (.programPageEnd .committed) s = .next (appendEnded b p h j [] s))
    ∧ ∀ v, HeadServed (appendEnded b p h j left s) v → exec (.programPageEnd .committed) s = .next v := by
  intro left
  have hreport : reportCommit (.retiredList c) (noteJournaled j.record (appendTaken b p h j (dropCovered j.record rest) s))
      = appendTaken b p h j left s := by
    rw [hrecord, dropCovered_retiredList]
    rfl
  refine ⟨fun hleft => ?_, fun v hserved => ?_⟩
  · refine append_ends hrun hwho hreq halone hstate hpage hjobs ?_ hstop (hquiet.carry rfl rfl rfl rfl rfl rfl)
    rw [hreport, hleft]
    exact serveNext_none rfl
  · refine append_ends hrun hwho hreq halone hstate hpage hjobs ?_ (hstop.carry hserved.mgmt)
      (hserved.quiet (hquiet.carry rfl rfl rfl rfl rfl rfl))
    rw [hreport]
    exact serveNext_head hserved

theorem append_fails {q : ProgramEnd} {k : Job} {rest : List Job} (hp : p ≤ 15) (hq : q ≠ .committed)
    (hjobs : s.jrnl.jobs = k :: rest) (hcur : s.jrnl.cur = some b) (hnext : s.jrnl.nextPage = p) : 
    ∃ store, (∀ c n, n ≤ 15 → c ≠ b ∨ n ≠ p → pageAt store c n = pageAt s.store c n)
      ∧ ((q = .failedBlank → store = s.store) ∧ (q ≠ .failedBlank → readPage store b p = .uncommitted))
      ∧ ∀ v, p < 15 ∨ s.jrnl.comp.begun < 3 → HeadServed { s with
          store := store,
          arr := { s.arr with running := none },
          jrnl := { s.jrnl with nextPage := p + 1, dirFailures := min counterMax (s.jrnl.dirFailures + 1) } } v →
        exec (.programPageEnd q) s = .next v := by
  obtain ⟨hfailed, hblank, hlater, hothers⟩ := programPage_failed (h := h) (d := .journal j) hpage hq hp
  refine ⟨(programPage s.store b p h (.journal j) q).1, hothers, ⟨hblank, hlater⟩, fun v hleft hserved => ?_⟩
  rw [exec_programPageEnd hrun hreq halone, hfailed, hwho]
  generalize (programPage s.store b p h (.journal j) q).1 = store at hserved ⊢
  have hdone : programDone .journal b h (.journal j) false (freed store s) = appendFailed (freed store s) := by
    change journalProgrammed (.journal j) false _ = _
    rw [journalProgrammed]
    change (match s.jrnl.state with | .idle => _ | .appending => _ | .compacting => _ | .profile => _) = _
    rw [hstate]
    rfl
  have hagain : appendFailed (freed store s) = v := by
    rw [appendFailed_eq (s := freed store s) hjobs, appendAgain_eq]
    · rw [← hnext] at hserved
      exact serveJournal_head hserved hjobs
    · exact hleft.imp (fun h => ⟨⟨b, hcur⟩, by change s.jrnl.nextPage + 1 ≤ 15; omega⟩) id
  rw [hdone, hagain]
  exact congrArg _ (settle_quiet (hstop.carry hserved.mgmt) (hserved.quiet (hquiet.carry rfl rfl rfl rfl rfl rfl)))

end ListsAndFailures

/-- Settles O38, by the record of the page and by the result of its program. -/
theorem journalCommitsAreReported : Obligations.JournalCommitsAreReported := by
  unfold Obligations.JournalCommitsAreReported
  intro b p h j x s hrun hwho hreq halone hstop hstate hp hpage quiet page ended t changed
  refine ⟨fun snap e hquiet hrecord hfind honly => ⟨?capturing, ?kept, ?frozen⟩, ?released, ?retiredList, ?failed⟩
  case capturing =>
    intro blocks hjobs hsnap hopen
    exact ⟨capturing_commits hrun hwho hreq halone hstop hstate hpage hquiet hrecord hfind honly hjobs hsnap hopen,
      fun last v hclosing hlast hdue hctl hasked husable hserved => capturing_commits_due hrun hwho hreq halone hstop hstate
        hpage hquiet hrecord hfind honly hjobs hsnap hopen hclosing hlast hdue hctl hasked husable hserved⟩
  case kept =>
    intro hjobs hsnap hclosing
    exact kept_commits hrun hwho hreq halone hstop hstate hpage hquiet hrecord hfind honly hjobs hsnap hclosing
  case frozen =>
    intro r hjobs hsnap hcurrent hroom
    exact frozen_commits hrun hwho hreq halone hstate hpage hquiet hrecord hfind honly hjobs hsnap hcurrent hroom
  case released =>
    intro e r hrecord hjobs hfind hcurrent hroom log freed
    refine ⟨fun hquiet hahead =>
        released_commits hrun hwho hreq halone hstate hpage hrecord hjobs hfind hcurrent hroom hquiet hahead,
      fun c hahead hready hfault hnoPage hcandidate hlow hhigh hlive => ?_⟩
    exact released_searches hrun hwho hreq halone hstate hpage hrecord hjobs hfind hcurrent hroom hahead hready hfault
      hnoPage hcandidate hlow hhigh hlive
  case retiredList =>
    intro bs c rest hquiet hrecord hjobs
    exact retiredList_commits hrun hwho hreq halone hstop hstate hpage hquiet hrecord hjobs
  case failed =>
    intro q k rest hq hquiet hjobs hb hcur hnext
    exact append_fails hrun hwho hreq halone hstop hstate hpage hquiet hp hq hjobs hcur hnext

end Sys2Proof.Machine
end

section
/-! PROOF. Compactions of the Directory Area (06, R114 to R118). -/

set_option Elab.async false

namespace Sys2Proof.Machine

variable {s t u v : State} {j : Job} {r : PageRecord} {set : List Nat} {pos : Nat} {x : Running}

/-! ### The Journal Writer's results by its state -/

theorem journalProgrammed_appending {d : PageData} {ok : Bool} (h : s.jrnl.state = .appending) :
    journalProgrammed d ok s = if ok then appendCommitted (recordOf d) s else appendFailed s := by
  rw [journalProgrammed, h]

theorem journalProgrammed_compacting {d : PageData} {ok : Bool} (h : s.jrnl.state = .compacting) :
    journalProgrammed d ok s = if ok then copyCommitted (recordOf d) s else copyFailed s := by
  rw [journalProgrammed, h]

theorem journalErased_compacting {ok : Bool} (h : s.jrnl.state = .compacting) :
    journalErased ok s = if ok then compactErased s else directoryFault s := by
  rw [journalErased, h]

/-! ### The compaction set (R114 to R116) -/

theorem copySet_of (h : CompactionSet s.dir set) : copySet s.dir = set := by
  obtain ⟨hrise, hperm⟩ := h
  have hsorted : ((sortedEntries s.dir).map Entry.num).Pairwise (· ≤ ·) :=
    List.pairwise_map.mpr (sortBy_ascending Entry.num s.dir.entries)
  have hcopy : (copySet s.dir).Pairwise (· ≤ ·) :=
    hsorted.sublist ((List.filter_sublist).map Entry.num)
  have hsame : (copySet s.dir).Perm set :=
    (((sortBy_perm Entry.num s.dir.entries).filter _).map Entry.num).trans hperm.symm
  exact hsame.eq_of_pairwise (fun a b _ _ => Nat.le_antisymm) hcopy (hrise.imp Nat.le_of_lt)

theorem copyRecord_of {e : Entry} {st : SnapState} (h : snapState e.journaled = some st) :
    copyRecord e = snapshotRecord e st e.blocks := by
  rw [copyRecord]
  cases hj : e.journaled <;> rw [hj] at h <;> simp only [snapState, Option.some.injEq, reduceCtorEq] at h <;> subst h <;> rfl

theorem setRecord_of (h : SetRecord s set pos r) : setRecord s set pos = r := by
  rcases h with ⟨rfl, rfl⟩ | ⟨e, st, hpos, hnum, hfind, hstate, rfl⟩
  · rw [setRecord, Nat.add_sub_cancel, List.getElem?_eq_none (Nat.le_refl _)]
  · rw [setRecord, hnum]
    dsimp only
    rw [entryRecord, hfind]
    exact copyRecord_of hstate

/-! ### A compaction with the array to itself -/

/-- The COPY page of the set position in hand is under program. -/
def copyHanded (r : PageRecord) (u : State) : State :=
  pageHanded .journal .journal u.jrnl.comp.target u.jrnl.comp.page
    (.journal { role := .copy (u.jrnl.comp.set.length + 1) u.jrnl.comp.pos, nextNumber := u.dir.nextNumber, record := r })
    { u with jrnl := { u.jrnl with jobs := coveredBy r u.jrnl.jobs } }

section Alone

variable (hready : s.seqr.part = .ready) (hfree : s.arr.running = none) (halone : ArrayAlone s.arr)
include hready hfree halone

theorem beginCompaction_begun : beginCompaction s = compactionBegun s := by
  have htarget : compactTarget s.jrnl.cur = if s.jrnl.cur = some 0 then 1 else 0 := by
    cases hcur : s.jrnl.cur with
    | none => rfl
    | some d => simp [compactTarget]
  have hle : (if s.jrnl.cur = some 0 then 1 else 0) ≤ 3 := by split <;> omega
  rw [beginCompaction, htarget]
  exact arrayAsk_journalErase (by simp [hready]) (by simpa using hfree) (by simpa using halone) hle

theorem programCopy_handed (hseq : s.log.nextPageSeq < 281474976710655) (htarget : s.jrnl.comp.target ≤ 1)
    (hpage : s.jrnl.comp.page ≤ 15) (hrecord : SetRecord s s.jrnl.comp.set s.jrnl.comp.pos r) :
    programCopy s = copyHanded r s := by
  rw [programCopy, setRecord_of hrecord, programJournal_alone hready hfree halone hseq htarget hpage, ← coveredBy_eq]
  rfl

theorem compactAgain_begun (hbegun : s.jrnl.comp.begun < 3) : compactAgain s = compactionBegun s :=
  (if_pos hbegun).trans (beginCompaction_begun hready hfree halone)

end Alone

theorem compactAgain_spent (hbegun : 3 ≤ s.jrnl.comp.begun) : compactAgain s = directoryFault s :=
  if_neg (Nat.not_lt.mpr hbegun)

/-! ### A directory that cannot be used (R118) -/

/-- The part once the directory has been given up for a store fault. -/
def directoryDead (v : State) : State := { v with
  raised := { v.raised with events := v.raised.events ++ [(.log, .storeFault .directoryErase)] },
  jrnl := { v.jrnl with state := .idle, jobs := [], usable := false, comp := Compaction.initial, profStep := 0 } }

theorem FaultTaken.jrnl (h : FaultTaken u v) : v.jrnl = u.jrnl := by
  obtain ⟨-, rfl⟩ | ⟨-, p, -, rfl⟩ | ⟨-, e, -, ⟨-, rfl⟩ | ⟨-, p, -, rfl⟩⟩ := h <;> rfl

theorem FaultTaken.port (h : FaultTaken u v) (q : Port) : v.port q = u.port q := by
  obtain ⟨-, rfl⟩ | ⟨-, p, -, rfl⟩ | ⟨-, e, -, ⟨-, rfl⟩ | ⟨-, p, -, rfl⟩⟩ := h <;> cases q <;> rfl

/-- The state that a happening in `u` reaches when it gives the directory up, `o` its outcome, `j` the only job. -/
def DirectoryEnds (j : Job) (s u : State) (o : Host.Outcome State Fault Refusal) : Prop :=
  ∀ v, FaultTaken { u with log := { u.log with condition := .fault .directoryErase } } v → inFault s.log = false →
    ((∀ n, j ≠ .released n ∧ j ≠ .frozen n) → o = .next (directoryDead v))
    ∧ ∀ n r, j = .released n ∨ j = .frozen n → s.mgmt.current = some { req := r, stage := .journal } →
      ReplyRoom r s → o = .next (replied r .storeFault [] (directoryDead v))

theorem directoryFault_eq (hfault : inFault s.log = false) (hjobs : s.jrnl.jobs = [j]) (hjob : isProfileJob j = false)
    (htaken : FaultTaken { s with log := { s.log with condition := .fault .directoryErase } } v) :
    directoryFault s = serveNext (endFaulted j { directoryDead v with
      jrnl := { v.jrnl with usable := false, jobs := [], comp := Compaction.initial } }) := by
  have hjournal : v.jrnl = s.jrnl := htaken.jrnl
  have hlist : journalJobs v.jrnl.jobs = [j] := by rw [hjournal, hjobs]; simp [journalJobs, hjob]
  have hprofile : profileJobs v.jrnl.jobs = [] := by rw [hjournal, hjobs]; simp [profileJobs, hjob]
  rw [directoryFault, logFault_taken hfault htaken]
  dsimp only
  rw [hlist, hprofile]
  rfl

theorem directoryFault_ends (hstop : NoStop s) (hmgmt : u.mgmt = s.mgmt) (hports : ∀ q, u.port q = s.port q)
    (hlog : u.log.condition = s.log.condition) (hjobs : u.jrnl.jobs = [j]) (hjob : isProfileJob j = false) :
    DirectoryEnds j s u (.next (settle (directoryFault u))) := by
  intro v htaken hfault
  have heq := directoryFault_eq ((inFault_same hlog).trans hfault) hjobs hjob htaken
  have hdead : LogQuiet (directoryDead v) := .inr (.inl (htaken.inFault rfl))
  have hmgmtV : v.mgmt = s.mgmt := htaken.mgmt.trans hmgmt
  let w : State := { directoryDead v with
    jrnl := { v.jrnl with usable := false, jobs := [], comp := Compaction.initial } }
  have hserved : serveNext w = directoryDead v := serveNext_none rfl
  refine ⟨fun hother => ?_, fun n r hown hcurrent hroom => ?_⟩
  · have hnone : endFaulted j w = w := by
      cases j with
      | released n => exact absurd rfl (hother n).1
      | frozen n => exact absurd rfl (hother n).2
      | _ => rfl
    rw [heq, hnone, hserved, settle_quiet (s := directoryDead v) (hstop.carry hmgmtV) hdead]
  · have hroomW : ReplyRoom r w := by
      obtain ⟨hup, hfree, hqueue⟩ := hroom
      have hport : w.port r.port = s.port r.port := by
        have hv := (htaken.port r.port).trans (hports r.port)
        cases hr : r.port <;> rw [hr] at hv <;> exact hv
      exact ⟨by rw [hport]; exact hup, by rw [hport]; exact hfree, by rw [← hqueue]; exact congrArg Management.queue hmgmtV⟩
    have hanswer : endFaulted j w = replied r .storeFault [] w := by
      rw [← respond_entered (s := w) ((congrArg Management.current hmgmtV).trans hcurrent) hroomW]
      rcases hown with rfl | rfl <;> rfl
    rw [heq, hanswer, replied_served rfl]
    exact congrArg _ (settle_quiet NoStop.after_reply hdead.after_reply)

/-! ### The pages of a compaction (R115, R117) -/

/-- The directory once a page's snapshot has committed. -/
def notedDir (record : PageRecord) (d : Directory) : Directory :=
  match record with
  | .snapshot v => { d with entries := d.entries.map (fun e => if e.num = v.num then { e with
      journaled := match v.state with
        | .capturing => .capturing
        | .kept => .kept
        | .frozen => .frozen } else e) }
  | _ => d

theorem notedDir_nextNumber (record : PageRecord) (d : Directory) : (notedDir record d).nextNumber = d.nextNumber := by
  cases record <;> rfl

theorem noteJournaled_eq (record : PageRecord) (s : State) :
    noteJournaled record s = { s with dir := notedDir record s.dir } := by
  cases record with
  | snapshot v =>
    have hstate : journaledOf v.state = (match v.state with
        | .capturing => .capturing
        | .kept => .kept
        | .frozen => .frozen : Journaled) := by cases v.state <;> rfl
    rw [noteJournaled, hstate]
    rfl
  | released n => rfl
  | retiredList bs => rfl

/-- The jobs behind the head once a page's record has committed. -/
def uncovered (record : PageRecord) (rest : List Job) : List Job :=
  match record with
  | .retiredList _ => rest.filter (fun k => decide (k ≠ .retiredList true))
  | _ => rest

theorem dropCovered_eq (record : PageRecord) (rest : List Job) : dropCovered record rest = uncovered record rest := by
  cases record with
  | retiredList bs => exact dropCovered_retiredList bs rest
  | snapshot v => rfl
  | released n => rfl

/-- The Journal Writer once the set is complete in its target, the head job before its append. -/
def switchedTo (record : PageRecord) (j : Job) (rest : List Job) (w : JournalWriter) : JournalWriter :=
  { w with cur := some w.comp.target, nextPage := w.comp.page + 1, jobs := j :: uncovered record rest }

theorem copyCommitted_next {record : PageRecord} {rest : List Job} (hjobs : s.jrnl.jobs = j :: rest)
    (hpos : s.jrnl.comp.pos ≤ s.jrnl.comp.set.length) :
    let t : State := { s with
      dir := notedDir record s.dir,
      jrnl := { s.jrnl with comp := { s.jrnl.comp with page := s.jrnl.comp.page + 1, pos := s.jrnl.comp.pos + 1 } } }
    copyCommitted record s = if s.jrnl.comp.page + 1 ≤ 15 then programCopy t else compactAgain t := by
  rw [copyCommitted, hjobs, noteJournaled_eq]
  exact if_pos hpos

theorem copyCommitted_last {record : PageRecord} {rest : List Job} (hjobs : s.jrnl.jobs = j :: rest)
    (hpos : s.jrnl.comp.pos = s.jrnl.comp.set.length + 1) : copyCommitted record s = appendAgain j { s with
      dir := notedDir record s.dir, jrnl := { switchedTo record j rest s.jrnl with state := .appending } } := by
  rw [copyCommitted, hjobs, noteJournaled_eq, switchedTo, ← dropCovered_eq]
  exact if_neg (by omega)

theorem copyFailed_eq :
    let t : State := { s with jrnl := { s.jrnl with
      comp := { s.jrnl.comp with page := s.jrnl.comp.page + 1 }, dirFailures := min counterMax (s.jrnl.dirFailures + 1) } }
    copyFailed s = if s.jrnl.comp.page + 1 ≤ 15 then programCopy t else compactAgain t := by
  rw [copyFailed, countDirFailure, bump_eq]
  rfl

/-! ### The clauses of O39 -/

section Clauses

variable {rest : List Job} (hready : s.seqr.part = .ready) (halone : ArrayAlone s.arr) (hstop : NoStop s)
  (hquiet : LogQuiet (s.setArr { s.arr with running := none })) (hjobs : s.jrnl.jobs = j :: rest)
  (hjob : isProfileJob j = false) (hseq : s.log.nextPageSeq < 281474976710655)

theorem compaction_begins (hready : s.seqr.part = .ready) (halone : ArrayAlone s.arr) (hjobs : s.jrnl.jobs = j :: rest)
    (hjob : isProfileJob j = false) (hfree : s.arr.running = none)
    (hnoPage : s.jrnl.cur = none ∨ (∃ b, s.jrnl.cur = some b ∧ b ≤ 1) ∧ 15 < s.jrnl.nextPage) :
    serveJobs s = compactionBegun s := by
  rw [serveJobs_cons hjobs, hjob, ← beginCompaction_begun hready hfree halone]
  change serveJournal j s = _
  rcases hnoPage with hnone | ⟨⟨b, hcur, -⟩, hfull⟩
  · simp only [serveJournal, hnone]
  · simp only [serveJournal, hcur, if_neg (Nat.not_le.mpr hfull)]

/-- A program that does not commit fails and touches its page alone. -/
theorem programPage_fails {b p : Nat} {h : PageHeader} {d : PageData} {q : ProgramEnd} (store : List (Nat × Page))
    (hq : q ≠ .committed) (hp : p ≤ 15) : (programPage store b p h d q).2 = false
      ∧ ∀ c n, n ≤ 15 → c ≠ b ∨ n ≠ p → pageAt (programPage store b p h d q).1 c n = pageAt store c n := by
  refine ⟨?_, fun c n hn hne => pageAt_programPage_ne hp hn hne h d q⟩
  cases hpage : pageAt store b p with
  | some y => rw [programPage_used hpage]
  | none =>
    cases q with
    | committed => exact absurd rfl hq
    | failedBlank => rw [programPage_failedBlank hpage]
    | failedWrite => rw [programPage_failedLater hpage h d (.inl rfl)]
    | failedCommit => rw [programPage_failedLater hpage h d (.inr rfl)]

theorem programPage_pair {b p : Nat} {h : PageHeader} {d : PageData} {q : ProgramEnd} {store : List (Nat × Page)} {ok : Bool}
    (hok : (programPage store b p h d q).2 = ok) :
    programPage store b p h d q = ((programPage store b p h d q).1, ok) := by
  rw [← hok]

theorem exec_journalPage {b p : Nat} {h : PageHeader} {g : JournalPage} (hrun : s.arr.running = some x)
    (halone : ArrayAlone s.arr) (hwho : x.who = .journal) (hreq : x.req = .program b p h (.journal g)) (q : ProgramEnd) :
    exec (.programPageEnd q) s = .next (settle (journalProgrammed (.journal g) (programPage s.store b p h (.journal g) q).2
      (freed (programPage s.store b p h (.journal g) q).1 s))) := by
  rw [exec_programPageEnd hrun hreq halone, hwho]
  rfl

theorem exec_journalErase {b : Nat} (hrun : s.arr.running = some x) (halone : ArrayAlone s.arr) (hwho : x.who = .journal)
    (hreq : x.req = .erase b) (q : EraseEnd) : exec (.eraseBlockEnd q) s
      = .next (settle (journalErased (decide (q = .erased)) (freed (eraseBlock s.store b q).1 s))) := by
  rw [exec_eraseBlockEnd hrun hreq halone, hwho]
  rfl

theorem third_append_fails {b : Nat} {h : PageHeader} {g : JournalPage} {q : ProgramEnd} (hrun : s.arr.running = some x)
    (halone : ArrayAlone s.arr) (hstop : NoStop s) (hjobs : s.jrnl.jobs = j :: rest)
    (hjob : isProfileJob j = false) (hwho : x.who = .journal) (hstate : s.jrnl.state = .appending)
    (hcur : s.jrnl.cur = some b)
    (hnext : s.jrnl.nextPage = 15) (hreq : x.req = .program b 15 h (.journal g)) (hq : q ≠ .committed)
    (hbegun : 3 ≤ s.jrnl.comp.begun) (hrest : rest = []) :
    DirectoryEnds j s { freed (programPage s.store b 15 h (.journal g) q).1 s with
      jrnl := { s.jrnl with nextPage := 16, dirFailures := min counterMax (s.jrnl.dirFailures + 1) } }
      (exec (.programPageEnd q) s) := by
  obtain ⟨hfails, -⟩ := programPage_fails (h := h) (d := .journal g) (b := b) (p := 15) s.store hq (Nat.le_refl 15)
  rw [exec_journalPage hrun halone hwho hreq, hfails]
  generalize (programPage s.store b 15 h (.journal g) q).1 = store
  let u : State := { freed store s with
    jrnl := { s.jrnl with nextPage := 16, dirFailures := min counterMax (s.jrnl.dirFailures + 1) } }
  have hfaults : journalProgrammed (.journal g) false (freed store s) = directoryFault u := by
    have hfailed := appendFailed_eq (s := freed store s) hjobs
    have hnoPage : ¬ u.jrnl.nextPage ≤ 15 := Nat.not_le.mpr (Nat.lt_succ_self 15)
    have hagain : appendAgain j u = compactAgain u := by
      simp only [appendAgain, show u.jrnl.cur = some b from hcur, if_neg hnoPage]
    rw [journalProgrammed_appending (s := freed store s) hstate]
    refine hfailed.trans ?_
    change appendAgain j { freed store s with jrnl := { s.jrnl with
      nextPage := s.jrnl.nextPage + 1, dirFailures := min counterMax (s.jrnl.dirFailures + 1) } } = _
    rw [hnext]
    exact hagain.trans (compactAgain_spent hbegun)
  rw [hfaults]
  exact directoryFault_ends hstop rfl (fun q => by cases q <;> rfl) rfl (hrest ▸ hjobs) hjob

section Compacting

variable (hready : s.seqr.part = .ready) (halone : ArrayAlone s.arr) (hstop : NoStop s)
  (hquiet : LogQuiet (s.setArr { s.arr with running := none })) (hjobs : s.jrnl.jobs = j :: rest)
  (hjob : isProfileJob j = false) (hseq : s.log.nextPageSeq < 281474976710655)
  (hrun : s.arr.running = some x) (hwho : x.who = .journal) (hstate : s.jrnl.state = .compacting)
  (htarget : s.jrnl.comp.target ≤ 1)
include hready halone hstop hquiet hseq hrun hwho hstate htarget

theorem target_erased (hreq : x.req = .erase s.jrnl.comp.target) (hset : CompactionSet s.dir set)
    (hrecord : SetRecord s set 1 r) : exec (.eraseBlockEnd .erased) s
      = .next (copyHanded r { freed (eraseBlock s.store s.jrnl.comp.target .erased).1 s with
        jrnl := { s.jrnl with comp := { s.jrnl.comp with page := 0, set := set, pos := 1 } } }) := by
  rw [exec_journalErase hrun halone hwho hreq]
  generalize (eraseBlock s.store s.jrnl.comp.target .erased).1 = store
  let u : State := { freed store s with
    jrnl := { s.jrnl with comp := { s.jrnl.comp with page := 0, set := set, pos := 1 } } }
  have hcopies : journalErased true (freed store s) = copyHanded r u := by
    have hcopy : programCopy u = copyHanded r u :=
      programCopy_handed (s := u) hready rfl halone hseq htarget (Nat.zero_le 15) hrecord
    rw [journalErased_compacting (s := freed store s) hstate, ← hcopy]
    change compactErased (freed store s) = _
    rw [compactErased]
    exact congrArg (fun l => programCopy { freed store s with
      jrnl := { s.jrnl with comp := { s.jrnl.comp with page := 0, set := l, pos := 1 } } }) (copySet_of hset)
  refine congrArg Host.Outcome.next ((congrArg settle hcopies).trans (settle_quiet hstop ?_))
  exact hquiet.operation rfl halone rfl rfl rfl rfl nofun

omit hready hquiet hseq htarget in
include hjobs hjob in
theorem target_lost {q : EraseEnd} (hreq : x.req = .erase s.jrnl.comp.target) (hq : q ≠ .erased) (hrest : rest = []) :
    DirectoryEnds j s (freed (eraseBlock s.store s.jrnl.comp.target q).1 s) (exec (.eraseBlockEnd q) s) := by
  rw [exec_journalErase hrun halone hwho hreq, decide_eq_false hq]
  generalize (eraseBlock s.store s.jrnl.comp.target q).1 = store
  rw [journalErased_compacting (s := freed store s) hstate]
  exact directoryFault_ends hstop rfl (fun q => by cases q <;> rfl) rfl (hrest ▸ hjobs) hjob

omit hready hseq htarget in
/-- What a COPY page leads to when its program has ended: a page under program, or an erase. -/
theorem copy_ends {h : PageHeader} {g : JournalPage} {q : ProgramEnd} {y : Running}
    (hreq : x.req = .program s.jrnl.comp.target s.jrnl.comp.page h (.journal g)) {ok : Bool} {store : List (Nat × Page)}
    (hpage : programPage s.store s.jrnl.comp.target s.jrnl.comp.page h (.journal g) q = (store, ok))
    (hleads : (if ok then copyCommitted g.record (freed store s) else copyFailed (freed store s)) = v)
    (hmgmt : v.mgmt = s.mgmt) (hseqr : v.seqr = s.seqr) (hcond : v.log.condition = s.log.condition)
    (hpacker : v.packer = s.packer) (harr : v.arr = { s.arr with running := some y }) (hy : y.who ≠ .logWriter) :
    exec (.programPageEnd q) s = .next v := by
  rw [exec_journalPage hrun halone hwho hreq, hpage, journalProgrammed_compacting (s := freed store s) hstate]
  change Host.Outcome.next (settle (if ok then copyCommitted g.record (freed store s) else copyFailed (freed store s))) = _
  rw [hleads]
  exact congrArg _ (settle_quiet (hstop.carry hmgmt) (hquiet.operation rfl halone hseqr hcond hpacker harr hy))

section Committed

variable {h : PageHeader} {g : JournalPage}
  (hreq : x.req = .program s.jrnl.comp.target s.jrnl.comp.page h (.journal g))
  (hpage : pageAt s.store s.jrnl.comp.target s.jrnl.comp.page = none)
include hjobs hreq hpage

/-- The part once a COPY page has committed. -/
def copyWritten (h : PageHeader) (g : JournalPage) (s : State) : State := {
  freed (setPage s.store s.jrnl.comp.target s.jrnl.comp.page (some (writtenPage h (.journal g)))) s with
    dir := notedDir g.record s.dir }

/-- The part once its set goes on behind the page. -/
def copyMoved (h : PageHeader) (g : JournalPage) (s : State) : State := { copyWritten h g s with
  jrnl := { s.jrnl with comp := { s.jrnl.comp with page := s.jrnl.comp.page + 1, pos := s.jrnl.comp.pos + 1 } } }

theorem copy_goes_on (hpos : s.jrnl.comp.pos ≤ s.jrnl.comp.set.length) (hleft : s.jrnl.comp.page < 15)
    (hrecord : SetRecord { s with dir := notedDir g.record s.dir } s.jrnl.comp.set (s.jrnl.comp.pos + 1) r) :
    exec (.programPageEnd .committed) s = .next (copyHanded r (copyMoved h g s)) := by
  refine copy_ends halone hstop hquiet hrun hwho hstate hreq (programPage_committed hpage h _) ?_
    rfl rfl rfl rfl rfl nofun
  have hcopy : programCopy (copyMoved h g s) = copyHanded r (copyMoved h g s) :=
    programCopy_handed (s := copyMoved h g s) hready rfl halone hseq htarget hleft hrecord
  have hnext := copyCommitted_next (s := freed (setPage s.store s.jrnl.comp.target s.jrnl.comp.page
    (some (writtenPage h (.journal g)))) s) (record := g.record) hjobs hpos
  rw [← hcopy]
  exact hnext.trans (if_pos hleft)

omit hseq htarget in
theorem copy_begins_again (hpos : s.jrnl.comp.pos ≤ s.jrnl.comp.set.length) (hlast : s.jrnl.comp.page = 15)
    (hbegun : s.jrnl.comp.begun < 3) :
    exec (.programPageEnd .committed) s = .next (compactionBegun (copyWritten h g s)) := by
  refine copy_ends halone hstop hquiet hrun hwho hstate hreq (programPage_committed hpage h _) ?_
    rfl rfl rfl rfl rfl nofun
  have hagain : compactAgain (copyMoved h g s) = compactionBegun (copyMoved h g s) :=
    compactAgain_begun (s := copyMoved h g s) hready rfl halone hbegun
  have hnext := copyCommitted_next (s := freed (setPage s.store s.jrnl.comp.target s.jrnl.comp.page
    (some (writtenPage h (.journal g)))) s) (record := g.record) hjobs hpos
  have hfull : ¬ s.jrnl.comp.page + 1 ≤ 15 := by omega
  exact (hnext.trans (if_neg hfull)).trans hagain

/-- The part once the target has become current, the head job before its append. -/
def copySwitched (h : PageHeader) (g : JournalPage) (j : Job) (rest : List Job) (s : State) : State :=
  { copyWritten h g s with jrnl := switchedTo g.record j rest s.jrnl }

theorem copy_appends (hpos : s.jrnl.comp.pos = s.jrnl.comp.set.length + 1) (hleft : s.jrnl.comp.page < 15)
    (hrecord : JobRecord { s with dir := notedDir g.record s.dir } j r) :
    exec (.programPageEnd .committed) s = .next (pageHanded .journal .journal s.jrnl.comp.target (s.jrnl.comp.page + 1)
      (.journal { role := .append, nextNumber := s.dir.nextNumber, record := r })
      { copyWritten h g s with jrnl := { switchedTo g.record j rest s.jrnl with
        state := .appending, jobs := coveredBy r (switchedTo g.record j rest s.jrnl).jobs } }) := by
  refine copy_ends halone hstop hquiet hrun hwho hstate hreq (programPage_committed hpage h _) ?_
    rfl rfl rfl rfl rfl nofun
  let u : State := { copySwitched h g j rest s with
    jrnl := { switchedTo g.record j rest s.jrnl with state := .appending } }
  have hlast := copyCommitted_last (s := freed (setPage s.store s.jrnl.comp.target s.jrnl.comp.page
    (some (writtenPage h (.journal g)))) s) (record := g.record) hjobs hpos
  have hjobRecord : jobRecord u j = r := by
    rw [← jobRecord_of hrecord]
    cases j <;> rfl
  have happend : appendAgain j u = programJournal s.jrnl.comp.target (s.jrnl.comp.page + 1) .append r u := by
    rw [appendAgain_eq (t := u) (.inl ⟨⟨s.jrnl.comp.target, rfl⟩, hleft⟩), ← hjobRecord]
    exact if_pos hleft
  refine hlast.trans (happend.trans ?_)
  rw [programJournal_alone (s := u) hready rfl halone hseq htarget hleft, coveredBy_eq,
    ← notedDir_nextNumber g.record s.dir]
  rfl

omit hseq htarget in
theorem copy_compacts_again (hpos : s.jrnl.comp.pos = s.jrnl.comp.set.length + 1) (hlast : s.jrnl.comp.page = 15)
    (hbegun : s.jrnl.comp.begun < 3) :
    exec (.programPageEnd .committed) s = .next (compactionBegun (copySwitched h g j rest s)) := by
  refine copy_ends halone hstop hquiet hrun hwho hstate hreq (programPage_committed hpage h _) ?_
    rfl rfl rfl rfl rfl nofun
  let u : State := { copySwitched h g j rest s with
    jrnl := { switchedTo g.record j rest s.jrnl with state := .appending } }
  have hcommitted := copyCommitted_last (s := freed (setPage s.store s.jrnl.comp.target s.jrnl.comp.page
    (some (writtenPage h (.journal g)))) s) (record := g.record) hjobs hpos
  have hfull : ¬ u.jrnl.nextPage ≤ 15 := by change ¬ s.jrnl.comp.page + 1 ≤ 15; omega
  have hagain : appendAgain j u = compactAgain u := by
    rw [appendAgain]
    exact if_neg hfull
  exact hcommitted.trans (hagain.trans (compactAgain_begun (s := u) hready rfl halone hbegun))

end Committed

section Failed

variable {h : PageHeader} {g : JournalPage} {q : ProgramEnd}
  (hreq : x.req = .program s.jrnl.comp.target s.jrnl.comp.page h (.journal g)) (hq : q ≠ .committed)
include hreq hq

/-- The part once a COPY page has failed. -/
def copyLost (store : List (Nat × Page)) (s : State) : State := { freed store s with jrnl := { s.jrnl with
  comp := { s.jrnl.comp with page := s.jrnl.comp.page + 1 }, dirFailures := min counterMax (s.jrnl.dirFailures + 1) } }

theorem copy_tries_again (hleft : s.jrnl.comp.page < 15) (hrecord : SetRecord s s.jrnl.comp.set s.jrnl.comp.pos r) :
    exec (.programPageEnd q) s = .next (copyHanded r
      (copyLost (programPage s.store s.jrnl.comp.target s.jrnl.comp.page h (.journal g) q).1 s)) := by
  obtain ⟨hfails, -⟩ := programPage_fails (b := s.jrnl.comp.target) (h := h) (d := .journal g) s.store hq (Nat.le_of_lt hleft)
  refine copy_ends halone hstop hquiet hrun hwho hstate hreq (programPage_pair hfails) ?_ rfl rfl rfl rfl rfl nofun
  generalize (programPage s.store s.jrnl.comp.target s.jrnl.comp.page h (.journal g) q).1 = store
  have hcopy : programCopy (copyLost store s) = copyHanded r (copyLost store s) :=
    programCopy_handed (s := copyLost store s) hready rfl halone hseq htarget hleft hrecord
  rw [← hcopy]
  exact (copyFailed_eq (s := freed store s)).trans (if_pos hleft)

omit hseq htarget in
theorem failed_copy_begins_again (hlast : s.jrnl.comp.page = 15) (hbegun : s.jrnl.comp.begun < 3) :
    exec (.programPageEnd q) s = .next (compactionBegun
      (copyLost (programPage s.store s.jrnl.comp.target s.jrnl.comp.page h (.journal g) q).1 s)) := by
  obtain ⟨hfails, -⟩ := programPage_fails (b := s.jrnl.comp.target) (h := h) (d := .journal g) s.store hq
    (Nat.le_of_eq hlast)
  refine copy_ends halone hstop hquiet hrun hwho hstate hreq (programPage_pair hfails) ?_ rfl rfl rfl rfl rfl nofun
  generalize (programPage s.store s.jrnl.comp.target s.jrnl.comp.page h (.journal g) q).1 = store
  have hfull : ¬ s.jrnl.comp.page + 1 ≤ 15 := by omega
  have hagain : compactAgain (copyLost store s) = compactionBegun (copyLost store s) :=
    compactAgain_begun (s := copyLost store s) hready rfl halone hbegun
  exact ((copyFailed_eq (s := freed store s)).trans (if_neg hfull)).trans hagain

omit hready hseq hquiet htarget in
include hjobs hjob in
theorem third_compaction_fails (hlast : s.jrnl.comp.page = 15) (hbegun : 3 ≤ s.jrnl.comp.begun) (hrest : rest = []) :
    DirectoryEnds j s (copyLost (programPage s.store s.jrnl.comp.target s.jrnl.comp.page h (.journal g) q).1 s)
      (exec (.programPageEnd q) s) := by
  obtain ⟨hfails, -⟩ := programPage_fails (b := s.jrnl.comp.target) (h := h) (d := .journal g) s.store hq
    (Nat.le_of_eq hlast)
  rw [exec_journalPage hrun halone hwho hreq, hfails]
  generalize (programPage s.store s.jrnl.comp.target s.jrnl.comp.page h (.journal g) q).1 = store
  have hfull : ¬ s.jrnl.comp.page + 1 ≤ 15 := by omega
  have hfaults : journalProgrammed (.journal g) false (freed store s) = directoryFault (copyLost store s) := by
    rw [journalProgrammed_compacting (s := freed store s) hstate, ← compactAgain_spent (s := copyLost store s) hbegun]
    exact (copyFailed_eq (s := freed store s)).trans (if_neg hfull)
  rw [hfaults]
  exact directoryFault_ends hstop rfl (fun q => by cases q <;> rfl) rfl (hrest ▸ hjobs) hjob

end Failed

end Compacting

end Clauses

/-- Settles O39, by how the compaction's operation ended and by the page and the position that it has reached. -/
theorem compactionsCopyTheDirectory : Obligations.CompactionsCopyTheDirectory := by
  unfold Obligations.CompactionsCopyTheDirectory
  intro j rest s hready halone hstop hquiet hjobs hsave hclear hseq free begin copy dead ends
  have hjob := isProfileJob_eq_false hsave hclear
  have hends : ∀ u o, (rest = [] → DirectoryEnds j s u o) → ends u o :=
    fun u o h v htaken hfault hrest => h hrest v htaken hfault
  refine ⟨fun hfree hnoPage => compaction_begins hready halone hjobs hjob hfree hnoPage,
    fun x b h g q hrun hwho hstate hcur hnext hreq hq hbegun => ⟨_, hends _ _ fun hrest =>
      third_append_fails hrun halone hstop hjobs hjob hwho hstate hcur hnext hreq hq hbegun hrest,
      (programPage_fails s.store hq (Nat.le_refl 15)).2⟩,
    fun x target hrun hwho hstate htarget hle => ?_⟩
  subst htarget
  refine ⟨fun hreq => ⟨fun set r hset hrecord => ?_, fun q hq => ⟨_, hends _ _ fun hrest =>
      target_lost halone hstop hjobs hjob hrun hwho hstate hreq hq hrest, pageAt_eraseBlock_other _ q⟩⟩,
    fun h g hreq hp hpage => ?_⟩
  · have hblank := fun hstore : StoreWf s => pageAt_erased hstore s.jrnl.comp.target
    have hexec := target_erased hready halone hstop hquiet hseq hrun hwho hstate hle hreq hset hrecord
    generalize (eraseBlock s.store s.jrnl.comp.target .erased).1 = store at hblank hexec
    exact ⟨store, hexec, hblank⟩
  intro c noted written switched failed
  refine ⟨fun r hpos hrecord hleft => ?_, fun hpos hlast hbegun => ?_, fun hpos hleft r hrecord => ?_,
    fun hpos hlast hbegun => ?_, fun q hq => ⟨_, (programPage_fails (h := h) (d := .journal g) s.store hq hp).2,
      fun r hrecord hleft => ?_,
      fun hlast hbegun => ?_, fun hlast hbegun => hends _ _ fun hrest => ?_⟩⟩
  · exact copy_goes_on hready halone hstop hquiet hjobs hseq hrun hwho hstate hle hreq hpage hpos hleft hrecord
  · exact copy_begins_again hready halone hstop hquiet hjobs hrun hwho hstate hreq hpage hpos hlast hbegun
  · exact copy_appends hready halone hstop hquiet hjobs hseq hrun hwho hstate hle hreq hpage hpos hleft hrecord
  · exact copy_compacts_again hready halone hstop hquiet hjobs hrun hwho hstate hreq hpage hpos hlast hbegun
  · exact copy_tries_again hready halone hstop hquiet hseq hrun hwho hstate hle hreq hq hleft hrecord
  · exact failed_copy_begins_again hready halone hstop hquiet hrun hwho hstate hreq hq hlast hbegun
  · exact third_compaction_fails halone hstop hjobs hjob hrun hwho hstate hreq hq hlast hbegun hrest

end Sys2Proof.Machine
end

section
/-! PROOF. Profile jobs (06, R121 to R123). -/

set_option Elab.async false

namespace Sys2Proof.Machine

variable {s t u v : State} {r : Request} {x : Running} {st : Status} {result : Bytes}

theorem journalProgrammed_profile {d : PageData} {ok : Bool} (h : s.jrnl.state = .profile) :
    journalProgrammed d ok s = if ok then profileCommitted s else profileFailed s := by
  rw [journalProgrammed, h]

theorem journalErased_profile {ok : Bool} (h : s.jrnl.state = .profile) :
    journalErased ok s = if ok then profileErased s else profileEraseFailed s := by
  rw [journalErased, h]

/-- The block of the Profile Area that a job is to erase first. -/
def otherProfile (w : JournalWriter) : Nat := if w.validBlock = some 2 then 3 else 2

theorem profileTarget_eq (w : JournalWriter) : profileTarget w.validBlock = otherProfile w := by
  rw [otherProfile]
  cases w.validBlock with
  | none => rfl
  | some b => simp [profileTarget]

theorem otherProfile_range (w : JournalWriter) : 2 ≤ otherProfile w ∧ otherProfile w ≤ 3 := by
  rw [otherProfile]
  split <;> omega

/-- A PROFILE page that is handed in alone is under program with the next page sequence. -/
theorem programProfile_handed {page : Nat} {d : PageData} (hready : s.seqr.part = .ready) (hfree : s.arr.running = none)
    (halone : ArrayAlone s.arr) (hseq : s.log.nextPageSeq < 281474976710655) (hp : page ≤ 15) :
    programProfile page d s = pageHanded .journal .profile (otherProfile s.jrnl) page d s := by
  obtain ⟨hlow, hhigh⟩ := otherProfile_range s.jrnl
  have hkind : kindOfBlock (otherProfile s.jrnl) = .profile := by
    rw [kindOfBlock, if_neg (by omega), if_pos hhigh]
  rw [programProfile, drawPageSeq_below hseq, profileTarget_eq]
  dsimp only
  rw [arrayAsk_journal (by simp [hready]) (by simpa using hfree) (by simpa using halone) hhigh hp hkind.symm]
  rfl

/-- The part once its only profile job has ended with an answer. -/
def profileEnded (r : Request) (w : JournalWriter) (st : Status) (result : Bytes) (s : State) : State :=
  replied r st result { s with
    jrnl := { w with state := .idle, jobs := [], comp := Compaction.initial, profStep := 0 } }

theorem endProfile_ended {j : Job} (hjobs : s.jrnl.jobs = [j])
    (hcurrent : s.mgmt.current = some { req := r, stage := .journal }) (hroom : ReplyRoom r s) :
    endProfile st result s = profileEnded r s.jrnl st result s := by
  let w : State := { s with jrnl := { s.jrnl with jobs := s.jrnl.jobs.drop 1 } }
  have hnone : w.jrnl.jobs = [] := congrArg (List.drop 1) hjobs
  have hanswer : respond st result w = replied r st result w := respond_entered (s := w) hcurrent hroom
  change serveNext (respond st result w) = _
  rw [hanswer, replied_served hnone]
  rfl

theorem profileFailed_ended {j : Job} (hjobs : s.jrnl.jobs = [j])
    (hcurrent : s.mgmt.current = some { req := r, stage := .journal }) (hroom : ReplyRoom r s) : profileFailed s
      = profileEnded r { s.jrnl with profFailures := min counterMax (s.jrnl.profFailures + 1) } .storeFault [] s := by
  rw [profileFailed, bump_eq]
  exact endProfile_ended (s := { s with jrnl := { s.jrnl with profFailures := min counterMax (s.jrnl.profFailures + 1) } })
    hjobs hcurrent hroom

/-! ### The clauses of O40 -/

section Clauses

variable {j : Job} {w : JournalWriter} {store : List (Nat × Page)} {y : Running}
  (hcurrent : s.mgmt.current = some { req := r, stage := .journal })
  (hquiet : LogQuiet (s.setArr { s.arr with running := none }))

include hquiet

/-- The answer of a profile job ends its happening. -/
theorem profileEnded_settles :
    settle (profileEnded r w st result (freed store s)) = profileEnded r w st result (freed store s) :=
  settle_quiet NoStop.after_reply (LogQuiet.after_reply (hquiet.carry rfl rfl rfl rfl rfl rfl))

include hcurrent

/-- The next operation of a profile job ends the happening of the one before. -/
theorem profileOperation_settles (halone : ArrayAlone s.arr) (hmgmt : v.mgmt = s.mgmt) (hseqr : v.seqr = s.seqr)
    (hcond : v.log.condition = s.log.condition) (hpacker : v.packer = s.packer)
    (harr : v.arr = { s.arr with running := some y }) (hy : y.who = .journal) : settle v = v := by
  have hstop : NoStop s := by
    rw [NoStop, hcurrent]
    rintro c ⟨⟩
    exact ⟨nofun, nofun⟩
  refine settle_quiet (hstop.carry hmgmt) (hquiet.operation rfl halone hseqr hcond hpacker harr ?_)
  rw [hy]
  nofun

variable (hready : s.seqr.part = .ready) (halone : ArrayAlone s.arr) (hrun : s.arr.running = some x)
  (hwho : x.who = .journal) (hstate : s.jrnl.state = .profile) (hroom : ReplyRoom r s)

section Erases

variable {b : Nat} {q : EraseEnd} (hreq : x.req = .erase b)

omit hcurrent hquiet in
include halone hrun hwho hstate hreq in
theorem exec_profileErase : exec (.eraseBlockEnd q) s = .next (settle (if decide (q = .erased)
    then profileErased (freed (eraseBlock s.store b q).1 s) else profileEraseFailed (freed (eraseBlock s.store b q).1 s))) := by
  rw [exec_journalErase hrun halone hwho hreq]
  generalize (eraseBlock s.store b q).1 = store
  rw [journalErased_profile (s := freed store s) hstate]

include halone hrun hwho hstate hreq

include hready in
theorem save_erased {f : Profile} (hjobs : s.jrnl.jobs = [.saveProfile f]) (hseq : s.log.nextPageSeq < 281474976710655) :
    exec (.eraseBlockEnd .erased) s = .next (pageHanded .journal .profile (otherProfile s.jrnl) 0
      (.profile0 (s.jrnl.generation + 1) f.settings f.dflt f.managers f.notify)
      { freed (eraseBlock s.store b .erased).1 s with jrnl := { s.jrnl with profStep := 1 } }) := by
  rw [exec_profileErase halone hrun hwho hstate hreq]
  generalize (eraseBlock s.store b .erased).1 = store
  let u : State := { freed store s with jrnl := { s.jrnl with profStep := 1 } }
  have hnext : profileErased (freed store s) = pageHanded .journal .profile (otherProfile s.jrnl) 0
      (.profile0 (s.jrnl.generation + 1) f.settings f.dflt f.managers f.notify) u := by
    have hhanded := programProfile_handed (s := u) (d := .profile0 (s.jrnl.generation + 1) f.settings f.dflt f.managers f.notify)
      hready rfl halone hseq (Nat.zero_le 15)
    rw [← show otherProfile u.jrnl = otherProfile s.jrnl from rfl, ← hhanded]
    unfold profileErased
    change (match s.jrnl.jobs with | .saveProfile p :: _ => _ | .clearProfile :: _ => _ | _ => _) = _
    rw [hjobs]
    rfl
  refine congrArg Host.Outcome.next ((congrArg settle hnext).trans ?_)
  exact profileOperation_settles hcurrent hquiet halone rfl rfl rfl rfl rfl rfl

include hroom in
theorem save_erase_fails {f : Profile} (hjobs : s.jrnl.jobs = [.saveProfile f]) (hq : q ≠ .erased) :
    exec (.eraseBlockEnd q) s = .next (profileEnded r
      { s.jrnl with profFailures := min counterMax (s.jrnl.profFailures + 1) } .storeFault []
      (freed (eraseBlock s.store b q).1 s)) := by
  rw [exec_profileErase halone hrun hwho hstate hreq, decide_eq_false hq]
  generalize (eraseBlock s.store b q).1 = store
  have hfails : profileEraseFailed (freed store s) = profileFailed (freed store s) := by
    unfold profileEraseFailed
    change (match s.jrnl.jobs with | .saveProfile _ :: _ => _ | .clearProfile :: _ => _ | _ => _) = _
    rw [hjobs]
  have hended := hfails.trans (profileFailed_ended (s := freed store s) hjobs hcurrent hroom)
  exact congrArg _ ((congrArg settle hended).trans (profileEnded_settles hquiet))

include hready in
theorem clear_first_erased (hjobs : s.jrnl.jobs = [.clearProfile]) (hstep : s.jrnl.profStep = 0) :
    exec (.eraseBlockEnd .erased) s = .next (eraseHanded .journal (5 - otherProfile s.jrnl)
      { freed (eraseBlock s.store b .erased).1 s with jrnl := { s.jrnl with profStep := 1 } }) := by
  rw [exec_profileErase halone hrun hwho hstate hreq]
  generalize (eraseBlock s.store b .erased).1 = store
  let u : State := { freed store s with jrnl := { s.jrnl with profStep := 1 } }
  have hnext : profileErased (freed store s) = eraseHanded .journal (5 - otherProfile s.jrnl) u := by
    obtain ⟨hlow, -⟩ := otherProfile_range s.jrnl
    rw [← arrayAsk_journalErase (s := u) (ne_of_value hready (by decide)) rfl halone (by omega), ← profileTarget_eq]
    unfold profileErased
    change (match s.jrnl.jobs with | .saveProfile p :: _ => _ | .clearProfile :: _ => _ | _ => _) = _
    rw [hjobs]
    exact if_pos hstep
  refine congrArg Host.Outcome.next ((congrArg settle hnext).trans ?_)
  exact profileOperation_settles hcurrent hquiet halone rfl rfl rfl rfl rfl rfl

include hroom

theorem clear_first_fails (hjobs : s.jrnl.jobs = [.clearProfile]) (hstep : s.jrnl.profStep = 0) (hq : q ≠ .erased) :
    exec (.eraseBlockEnd q) s = .next (profileEnded r
      { s.jrnl with profFailures := min counterMax (s.jrnl.profFailures + 1) } .storeFault []
      (freed (eraseBlock s.store b q).1 s)) := by
  rw [exec_profileErase halone hrun hwho hstate hreq, decide_eq_false hq]
  generalize (eraseBlock s.store b q).1 = store
  have hfails : profileEraseFailed (freed store s) = profileFailed (freed store s) := by
    unfold profileEraseFailed
    change (match s.jrnl.jobs with | .saveProfile _ :: _ => _ | .clearProfile :: _ => _ | _ => _) = _
    rw [hjobs]
    exact if_pos hstep
  have hended := hfails.trans (profileFailed_ended (s := freed store s) hjobs hcurrent hroom)
  exact congrArg _ ((congrArg settle hended).trans (profileEnded_settles hquiet))

theorem clear_second_erased (hjobs : s.jrnl.jobs = [.clearProfile]) (hstep : s.jrnl.profStep = 1) :
    exec (.eraseBlockEnd .erased) s = .next (profileEnded r { s.jrnl with validBlock := none, generation := 0 } .ok []
      (freed (eraseBlock s.store b .erased).1 s)) := by
  rw [exec_profileErase halone hrun hwho hstate hreq]
  generalize (eraseBlock s.store b .erased).1 = store
  let u : State := { freed store s with jrnl := { s.jrnl with validBlock := none, generation := 0 } }
  have hnext : profileErased (freed store s) = endProfile .ok [] u := by
    unfold profileErased
    change (match s.jrnl.jobs with | .saveProfile p :: _ => _ | .clearProfile :: _ => _ | _ => _) = _
    rw [hjobs]
    exact if_neg (by change s.jrnl.profStep ≠ 0; omega)
  have hended := hnext.trans (endProfile_ended (s := u) hjobs hcurrent hroom)
  exact congrArg _ ((congrArg settle hended).trans (profileEnded_settles hquiet))

theorem clear_second_fails (hjobs : s.jrnl.jobs = [.clearProfile]) (hstep : s.jrnl.profStep = 1) (hq : q ≠ .erased) :
    exec (.eraseBlockEnd q) s = .next (profileEnded r
      { s.jrnl with validBlock := none, generation := 0, profFailures := min counterMax (s.jrnl.profFailures + 1) }
      .storeFault [] (freed (eraseBlock s.store b q).1 s)) := by
  rw [exec_profileErase halone hrun hwho hstate hreq, decide_eq_false hq]
  generalize (eraseBlock s.store b q).1 = store
  let u : State := { freed store s with jrnl := { s.jrnl with validBlock := none, generation := 0 } }
  have hfails : profileEraseFailed (freed store s) = profileFailed u := by
    unfold profileEraseFailed
    change (match s.jrnl.jobs with | .saveProfile _ :: _ => _ | .clearProfile :: _ => _ | _ => _) = _
    rw [hjobs]
    exact if_neg (by change s.jrnl.profStep ≠ 0; omega)
  have hended := hfails.trans (profileFailed_ended (s := u) hjobs hcurrent hroom)
  exact congrArg _ ((congrArg settle hended).trans (profileEnded_settles hquiet))

end Erases

section Programs

variable {f : Profile} {p : Nat} {h : PageHeader} {d : PageData} {q : ProgramEnd} {target : Nat}
  (hreq : x.req = .program target p h d) (hjobs : s.jrnl.jobs = [.saveProfile f])

omit hcurrent hquiet in
include halone hrun hwho hstate hreq in
theorem exec_profilePage {ok : Bool} (hpage : programPage s.store target p h d q = (store, ok)) :
    exec (.programPageEnd q) s
      = .next (settle (if ok then profileCommitted (freed store s) else profileFailed (freed store s))) := by
  rw [exec_programPageEnd hrun hreq halone, hwho, hpage, ← journalProgrammed_profile (s := freed store s) (d := d) hstate]
  rfl

omit hcurrent hquiet in
include hjobs in
theorem profileCommitted_save : profileCommitted (freed store s) = if s.jrnl.profStep = 1
    then programProfile 1 (.profile1 (s.jrnl.generation + 1) f.rules)
      { freed store s with jrnl := { s.jrnl with profStep := 2 } }
    else endProfile .ok (be 4 (s.jrnl.generation + 1)) { freed store s with
      jrnl := { s.jrnl with validBlock := some (otherProfile s.jrnl), generation := s.jrnl.generation + 1 } } := by
  rw [← profileTarget_eq]
  unfold profileCommitted
  change (match s.jrnl.jobs with | .saveProfile p :: _ => _ | _ => _) = _
  rw [hjobs]
  rfl

include halone hrun hwho hstate hreq hjobs

include hready in
theorem save_first_page (hpage : pageAt s.store target p = none) (hstep : s.jrnl.profStep = 1)
    (hseq : s.log.nextPageSeq < 281474976710655) :
    exec (.programPageEnd .committed) s = .next (pageHanded .journal .profile (otherProfile s.jrnl) 1
      (.profile1 (s.jrnl.generation + 1) f.rules)
      { freed (setPage s.store target p (some (writtenPage h d))) s with jrnl := { s.jrnl with profStep := 2 } }) := by
  rw [exec_profilePage halone hrun hwho hstate hreq (programPage_committed hpage h d)]
  generalize setPage s.store target p (some (writtenPage h d)) = store
  let u : State := { freed store s with jrnl := { s.jrnl with profStep := 2 } }
  have hnext : profileCommitted (freed store s) = pageHanded .journal .profile (otherProfile s.jrnl) 1
      (.profile1 (s.jrnl.generation + 1) f.rules) u :=
    (profileCommitted_save hjobs).trans ((if_pos hstep).trans
      (programProfile_handed (s := u) hready rfl halone hseq (by decide)))
  refine congrArg Host.Outcome.next ((congrArg settle hnext).trans ?_)
  exact profileOperation_settles hcurrent hquiet halone rfl rfl rfl rfl rfl rfl

include hroom

theorem save_switches (hpage : pageAt s.store target p = none) (hstep : s.jrnl.profStep = 2) :
    exec (.programPageEnd .committed) s = .next (profileEnded r
      { s.jrnl with validBlock := some (otherProfile s.jrnl), generation := s.jrnl.generation + 1 } .ok
      (be 4 (s.jrnl.generation + 1)) (freed (setPage s.store target p (some (writtenPage h d))) s)) := by
  rw [exec_profilePage halone hrun hwho hstate hreq (programPage_committed hpage h d)]
  generalize setPage s.store target p (some (writtenPage h d)) = store
  have hstepTwo : s.jrnl.profStep ≠ 1 := by omega
  have hnext := (profileCommitted_save (store := store) hjobs).trans ((if_neg hstepTwo).trans
    (endProfile_ended (s := { freed store s with
      jrnl := { s.jrnl with validBlock := some (otherProfile s.jrnl), generation := s.jrnl.generation + 1 } })
      hjobs hcurrent hroom))
  exact congrArg _ ((congrArg settle hnext).trans (profileEnded_settles hquiet))

theorem save_page_fails (hp : p ≤ 15) (hq : q ≠ .committed) :
    exec (.programPageEnd q) s = .next (profileEnded r
      { s.jrnl with profFailures := min counterMax (s.jrnl.profFailures + 1) } .storeFault []
      (freed (programPage s.store target p h d q).1 s)) := by
  obtain ⟨hfails, -⟩ := programPage_fails (b := target) (h := h) (d := d) s.store hq hp
  rw [exec_profilePage halone hrun hwho hstate hreq (programPage_pair hfails)]
  generalize (programPage s.store target p h d q).1 = store
  have hended := profileFailed_ended (s := freed store s) hjobs hcurrent hroom
  exact congrArg _ ((congrArg settle hended).trans (profileEnded_settles hquiet))

end Programs

end Clauses

/-- Settles O40, by the job, the step that it has reached and how the operation ended. -/
theorem profileJobsSaveAndClear : Obligations.ProfileJobsSaveAndClear := by
  unfold Obligations.ProfileJobsSaveAndClear
  intro r x s hready halone hrun hwho hstate hcurrent hroom hquiet hseq target generation free ended failed cleared erased
    others
  have hblank : ∀ b, erased b (eraseBlock s.store b .erased).1 := fun b hstore => pageAt_erased hstore b
  have hothers : ∀ b q, others b (eraseBlock s.store b q).1 := fun b q => pageAt_eraseBlock_other b q
  refine ⟨fun f hjobs => ⟨fun hreq => ⟨⟨_, hblank target, ?saved⟩, fun q hq => ⟨_, hothers target q, ?saveLost⟩⟩,
    fun p h d hreq hp hpage => ⟨fun hstep => ?page, fun hstep => ?switch, fun q hq =>
      ⟨_, (programPage_fails (h := h) (d := d) s.store hq hp).2, ?pageLost⟩⟩⟩,
    fun b hjobs hreq _ _ => ⟨fun hstep hb => ⟨⟨_, hblank b, ?first⟩, fun q hq => ⟨_, hothers b q, ?firstLost⟩⟩,
      fun hstep => ⟨⟨_, hblank b, ?second⟩, fun q hq => ⟨_, hothers b q, ?secondLost⟩⟩⟩⟩
  case saved => exact save_erased hcurrent hquiet hready halone hrun hwho hstate hreq hjobs hseq
  case saveLost => exact save_erase_fails hcurrent hquiet halone hrun hwho hstate hroom hreq hjobs hq
  case page => exact save_first_page hcurrent hquiet hready halone hrun hwho hstate hreq hjobs hpage hstep hseq
  case switch => exact save_switches hcurrent hquiet halone hrun hwho hstate hroom hreq hjobs hpage hstep
  case pageLost => exact save_page_fails hcurrent hquiet halone hrun hwho hstate hroom hreq hjobs hp hq
  case first =>
    subst hb
    exact clear_first_erased hcurrent hquiet hready halone hrun hwho hstate hreq hjobs hstep
  case firstLost => exact clear_first_fails hcurrent hquiet halone hrun hwho hstate hroom hreq hjobs hstep hq
  case second => exact clear_second_erased hcurrent hquiet halone hrun hwho hstate hroom hreq hjobs hstep
  case secondLost => exact clear_second_fails hcurrent hquiet halone hrun hwho hstate hroom hreq hjobs hstep hq

end Sys2Proof.Machine
end

section
/-! PROOF. The reads of the mount scan: the Profile Area (11, R183). -/

set_option Elab.async false

namespace Sys2Proof.Machine

variable {s t u v : State} {x : Running} {b p k m : Nat} {step : ScanStep} {store : List (Nat × Page)}

/-! ### Operations of the mount scan -/

theorem settle_mounting (hpart : s.seqr.part = .mounting) (hcurrent : s.mgmt.current = none) : settle s = s := by
  refine settle_quiet ?_ (.inl (ne_of_value hpart (by decide)))
  rw [NoStop, hcurrent]
  nofun

theorem scanAsk_read (hpart : s.seqr.part = .mounting) (hfree : s.arr.running = none) (halone : ArrayAlone s.arr)
    (hb : b ≤ 1023) (hp : p ≤ 15) : scanAsk step (.read b p) s
      = readHanded .sequencer b p { s with seqr := { s.seqr with scan := step } } := by
  rw [scanAsk_runs hpart hfree halone (by simp [mayAsk, hb, hp, Config.lastLogBlock])
    (fun _ => ArrayReq.noConfusion)]
  rfl

theorem exec_mountRead (hrun : s.arr.running = some x) (hwho : x.who = .sequencer) (hreq : x.req = .read b p)
    (halone : ArrayAlone s.arr) : exec .readPageEnd s
      = .next (settle (mountReadDone (readPage s.store b p) (freed s.store s))) := by
  change execReadPageEnd s = _
  rw [execReadPageEnd, hrun]
  dsimp only
  rw [hreq, hwho]
  dsimp only
  rw [arrayFree_alone halone]
  rfl

theorem exec_readPageEnd_none (h : ∀ x, s.arr.running = some x → ∀ b p, x.req ≠ .read b p) :
    exec .readPageEnd s = .next s := by
  change execReadPageEnd s = _
  rw [execReadPageEnd]
  cases hrun : s.arr.running with
  | none => rfl
  | some x =>
    cases hreq : x.req with
    | read b p => exact absurd hreq (h x hrun b p)
    | program b p h d => simp only [hreq]
    | erase b => simp only [hreq]

section Dispatch

variable {r : ReadResult} {num : Nat}

theorem mountReadDone_profile (h : s.seqr.scan = .profile k) : mountReadDone r s = mountProfile k r s := by
  rw [mountReadDone, h]

theorem mountReadDone_journal (h : s.seqr.scan = .journal k) : mountReadDone r s = mountJournal k r s := by
  rw [mountReadDone, h]

theorem mountReadDone_logHead (h : s.seqr.scan = .logHead b) : mountReadDone r s = mountLogHead b r s := by
  rw [mountReadDone, h]

theorem mountReadDone_logRest (h : s.seqr.scan = .logRest b p) : mountReadDone r s = mountLogRest b p r s := by
  rw [mountReadDone, h]

theorem mountReadDone_newest (h : s.seqr.scan = .newest b p) : mountReadDone r s = mountNewest b p r s := by
  rw [mountReadDone, h]

theorem mountReadDone_lastBlock (h : s.seqr.scan = .lastBlock num b p) : mountReadDone r s = mountLastBlock num b p r s := by
  rw [mountReadDone, h]

end Dispatch

/-- A read of the mount scan that hands in the next one. -/
theorem mountRead_reads {r : ReadResult} {c n : Nat} (hread : mountReadDone r t = scanAsk step (.read c n) u)
    (hpart : u.seqr.part = .mounting) (hfree : u.arr.running = none) (halone : ArrayAlone u.arr)
    (hcurrent : u.mgmt.current = none) (hc : c ≤ 1023) (hn : n ≤ 15) : settle (mountReadDone r t)
      = readHanded .sequencer c n { u with seqr := { u.seqr with scan := step } } := by
  rw [hread, scanAsk_read hpart hfree halone hc hn]
  exact settle_mounting hpart hcurrent

/-! ### What a read gives (R45) -/

/-- The header of a page that has a valid one. -/
def validHeader : Option Page → Option PageHeader
  | none => none
  | some g => if g.mark = .present ∧ g.headerFlaw = 0 then some g.header else none

/-- What a page reads as. -/
def readOf : Option Page → ReadResult
  | none => .blank
  | some g =>
    if g.mark = .present ∧ g.headerFlaw = 0 then
      if g.dataFlaw = 0 then .committed g.header (storedChecks g) g.data else .corrupt g.header (storedChecks g)
    else .uncommitted

theorem readPage_eq (store : List (Nat × Page)) (b p : Nat) : readPage store b p = readOf (pageAt store b p) := by
  rw [readPage]
  cases pageAt store b p with
  | none => rfl
  | some g =>
    by_cases hvalid : g.mark = .present ∧ g.headerFlaw = 0
    · have hnot : ¬ (g.mark ≠ .present ∨ g.headerFlaw ≠ 0) := by
        obtain ⟨hmark, hflaw⟩ := hvalid
        simp [hmark, hflaw]
      simp only [readOf, if_pos hvalid, if_neg hnot, ite_not]
    · have hbad : g.mark ≠ .present ∨ g.headerFlaw ≠ 0 := Classical.not_and_iff_not_or_not.mp hvalid
      simp only [readOf, if_neg hvalid, if_pos hbad]

theorem headerOf_readOf (page : Option Page) : headerOf (readOf page) = validHeader page := by
  cases page with
  | none => rfl
  | some g =>
    by_cases hvalid : g.mark = .present ∧ g.headerFlaw = 0
    · by_cases hdata : g.dataFlaw = 0
      · simp only [readOf, validHeader, if_pos hvalid, if_pos hdata, headerOf]
      · simp only [readOf, validHeader, if_pos hvalid, if_neg hdata, headerOf]
    · simp only [readOf, validHeader, if_neg hvalid, headerOf]

/-- The highest page sequence seen once a page has been read. -/
def seenSeq (m : Nat) : Option Page → Nat
  | none => m
  | some g => if g.mark = .present ∧ g.headerFlaw = 0 then max m g.header.pageSeq else m

theorem seeSeq_readOf (m : Nat) (page : Option Page) : seeSeq m (readOf page) = seenSeq m page := by
  rw [seeSeq, headerOf_readOf]
  cases page with
  | none => rfl
  | some g =>
    by_cases hvalid : g.mark = .present ∧ g.headerFlaw = 0
    · simp only [validHeader, seenSeq, if_pos hvalid]
    · simp only [validHeader, seenSeq, if_neg hvalid]

/-! ### The profile taken (R120, R183) -/

/-- Two pages hold a valid profile of a generation. -/
def ProfileRead (page0 page1 : ReadResult) (g : Nat) (f : Profile) : Prop :=
  ∃ h0 c0 h1 c1, page0 = .committed h0 c0 (.profile0 g f.settings f.dflt f.managers f.notify)
    ∧ page1 = .committed h1 c1 (.profile1 g f.rules) ∧ h0.kind = .profile ∧ h1.kind = .profile ∧ g ≠ 0
    ∧ profileValid f = true

theorem readProfile_iff {page0 page1 : ReadResult} {g : Nat} {f : Profile} :
    readProfile page0 page1 = some (g, f) ↔ ProfileRead page0 page1 g f := by
  constructor
  · intro h
    unfold readProfile at h
    split at h
    · rename_i h0 c0 g0 settings dflt managers notify h1 c1 g1 rules
      dsimp only at h
      split at h
      · rename_i hvalid
        obtain ⟨hkind0, hkind1, rfl, hg, hprofile⟩ := hvalid
        obtain ⟨rfl, rfl⟩ := Prod.mk.inj (Option.some.inj h)
        exact ⟨h0, c0, h1, c1, rfl, rfl, hkind0, hkind1, hg, hprofile⟩
      · exact absurd h nofun
    · exact absurd h nofun
  · rintro ⟨h0, c0, h1, c1, rfl, rfl, hkind0, hkind1, hg, hprofile⟩
    exact if_pos ⟨hkind0, hkind1, rfl, hg, hprofile⟩

theorem readProfile_none {page0 page1 : ReadResult} (h : ∀ g f, ¬ ProfileRead page0 page1 g f) :
    readProfile page0 page1 = none := by
  cases hread : readProfile page0 page1 with
  | none => rfl
  | some y => exact absurd (readProfile_iff.mp hread) (h y.1 y.2)

theorem endPhase1_reads {got : List ReadResult} {r0 r1 r2 r3 : ReadResult} {w : State} (hgot : got = [r0, r1, r2, r3])
    (hchoice : (match chooseProfile (readProfile r0 r1) (readProfile r2 r3) with
      | none => s
      | some (b, g, f) => installProfile b g f s) = w) :
    endPhase1 got s = scanAsk (.journal 0) (.read 0 0) (setPhase 2 w) := by
  rw [← hchoice, hgot]
  rfl

/-- The part with a profile installed. -/
def profileInstalled (b g : Nat) (f : Profile) (s : State) : State := { s with
  cls := { s.cls with rules := f.rules.map (fun e => { e with hits := 0 }), dflt := f.dflt },
  ctl := { s.ctl with settings := f.settings }, mgmt := { s.mgmt with managers := f.managers },
  notice := { s.notice with settings := f.notify },
  jrnl := { s.jrnl with validBlock := some b, generation := g } }

theorem chooseProfile_low {r0 r1 r2 r3 : ReadResult} {g : Nat} {f : Profile} (hvalid : ProfileRead r0 r1 g f)
    (hlower : ∀ h y, ProfileRead r2 r3 h y → h < g) :
    chooseProfile (readProfile r0 r1) (readProfile r2 r3) = some (2, g, f) := by
  rw [readProfile_iff.mpr hvalid]
  cases hother : readProfile r2 r3 with
  | none => rfl
  | some y =>
    have hbelow := hlower y.1 y.2 (readProfile_iff.mp hother)
    exact if_neg (Nat.not_lt.mpr (Nat.le_of_lt hbelow))

theorem chooseProfile_high {r0 r1 r2 r3 : ReadResult} {g : Nat} {f : Profile} (hvalid : ProfileRead r2 r3 g f)
    (hlower : ∀ h y, ProfileRead r0 r1 h y → h < g) :
    chooseProfile (readProfile r0 r1) (readProfile r2 r3) = some (3, g, f) := by
  rw [readProfile_iff.mpr hvalid]
  cases hother : readProfile r0 r1 with
  | none => rfl
  | some y => exact if_pos (hlower y.1 y.2 (readProfile_iff.mp hother))

/-- Settles O33, by the page that has been read and, behind the last one, by the profile that is valid. -/
theorem mountReadsTheProfilePages : Obligations.MountReadsTheProfilePages := by
  unfold Obligations.MountReadsTheProfilePages
  intro s
  refine ⟨exec_readPageEnd_none, fun k x hk hpart hscan hrun hwho hreq halone hcurrent => ?_⟩
  intro page result seen q
  let t : State := { s with arr := { s.arr with running := none }, seqr := q }
  have hseen : seeSeq s.seqr.maxSeq result = seen := seeSeq_readOf s.seqr.maxSeq page
  have hread : mountReadDone (readPage s.store (2 + k / 2) (k % 2)) (freed s.store s) = mountReadDone result (freed s.store s) :=
    congrArg (mountReadDone · _) (readPage_eq s.store _ _)
  have hdone : mountReadDone result (freed s.store s)
      = if k < 3 then scanAsk (.profile (k + 1)) (profileRead (k + 1)) t else endPhase1 q.profileGot t := by
    rw [mountReadDone_profile (s := freed s.store s) hscan, mountProfile]
    change (if k < 3 then scanAsk _ _ (State.setSeqr _ { s.seqr with maxSeq := seeSeq s.seqr.maxSeq result, profileGot := _ })
      else endPhase1 _ (State.setSeqr _ { s.seqr with maxSeq := seeSeq s.seqr.maxSeq result, profileGot := _ })) = _
    rw [hseen]
    rfl
  rw [exec_mountRead hrun hwho hreq halone, hread]
  refine ⟨fun hlow => congrArg _ ?_, ?_⟩
  · exact mountRead_reads (hdone.trans (if_pos hlow)) hpart rfl halone hcurrent (by omega) (by omega)
  · rintro rfl r0 r1 r2 hgot valid goesOn installed
    have hends : ∀ w, (match chooseProfile (readProfile r0 r1) (readProfile r2 result) with
        | none => t
        | some (b, g, f) => installProfile b g f t) = w → w.seqr = q → w.arr = t.arr → w.mgmt.current = none →
        settle (mountReadDone result (freed s.store s))
          = readHanded .sequencer 0 0 { w with seqr := { q with phase := 2, scan := .journal 0 } } := by
      intro w hchoice hseqr harr hnone
      have hgotAll : q.profileGot = [r0, r1, r2, result] := by
        change s.seqr.profileGot ++ [result] = _
        rw [hgot]
        rfl
      have hphase := hdone.trans ((if_neg (by decide)).trans (endPhase1_reads hgotAll hchoice))
      rw [mountRead_reads hphase (by change w.seqr.part = _; rw [hseqr]; exact hpart) (congrArg ArrayCtl.running harr)
        (by change ArrayAlone w.arr; rw [harr]; exact halone) hnone (by decide) (by decide), ← hseqr]
      rfl
    refine ⟨fun g f hvalid hlower => congrArg _ ?_, fun g f hvalid hlower => congrArg _ ?_, fun hnone => congrArg _ ?_⟩
    · exact hends (profileInstalled 2 g f t) (by rw [chooseProfile_low hvalid hlower]; rfl) rfl rfl hcurrent
    · exact hends (profileInstalled 3 g f t) (by rw [chooseProfile_high hvalid hlower]; rfl) rfl rfl hcurrent
    · exact hends t (by
        rw [readProfile_none fun g f => (hnone g f).1, readProfile_none fun g f => (hnone g f).2]
        rfl) rfl rfl hcurrent

end Sys2Proof.Machine
end

section
/-! PROOF. The journal replay of the mount scan (11, R184). -/

set_option Elab.async false

namespace Sys2Proof.Machine

variable {s t : State} {x y : JPage} {pages : List JPage} {n b k : Nat}

/-! ### The reads of phase 2 -/

theorem readOf_eq_blank {page : Option Page} : readOf page = .blank ↔ page = none := by
  cases page with
  | none => exact ⟨fun _ => rfl, fun _ => rfl⟩
  | some g =>
    refine ⟨fun h => ?_, nofun⟩
    simp only [readOf] at h
    split at h
    · split at h <;> exact absurd h nofun
    · exact absurd h nofun

/-- Where the Directory Area blocks end once the k-th page has been read. -/
theorem noteEnd_readOf (q : Sequencer) {page : Option Page} (hk : k < 32) :
    noteEnd q (k / 16) (k % 16) (readOf page) = { q with
      dirEnd0 := if page ≠ none ∧ k < 16 then k + 1 else q.dirEnd0,
      dirEnd1 := if page ≠ none ∧ 16 ≤ k then k - 15 else q.dirEnd1 } := by
  rw [noteEnd]
  by_cases hpage : page = none
  · have h0 : ¬ (page ≠ none ∧ k < 16) := fun h => h.1 hpage
    have h1 : ¬ (page ≠ none ∧ 16 ≤ k) := fun h => h.1 hpage
    rw [if_pos (readOf_eq_blank.mpr hpage), if_neg h0, if_neg h1]
  · rw [if_neg (fun h => hpage (readOf_eq_blank.mp h))]
    by_cases hlow : k < 16
    · have hblock : k / 16 = 0 := by omega
      have hpageNo : k % 16 = k := by omega
      have h1 : ¬ (page ≠ none ∧ 16 ≤ k) := by omega
      rw [if_pos hblock, hpageNo, if_pos ⟨hpage, hlow⟩, if_neg h1]
    · have hblock : ¬ k / 16 = 0 := by omega
      have hpageNo : k % 16 + 1 = k - 15 := by omega
      have h0 : ¬ (page ≠ none ∧ k < 16) := fun h => hlow h.2
      rw [if_neg hblock, hpageNo, if_neg h0, if_pos ⟨hpage, Nat.le_of_not_lt hlow⟩]

/-- The journal page that takes part in replay, of a page of the store. -/
def replayPage (b : Nat) : Option Page → List JPage
  | none => []
  | some g => match g.data with
    | .journal j =>
      if g.mark = .present ∧ g.headerFlaw = 0 ∧ g.dataFlaw = 0 ∧ g.header.kind = .journal then [(b, g.header, j)] else []
    | _ => []

theorem journalPageOf_readOf (b : Nat) (page : Option Page) : (journalPageOf b (readOf page)).toList = replayPage b page := by
  cases page with
  | none => rfl
  | some g =>
    by_cases hvalid : g.mark = .present ∧ g.headerFlaw = 0
    · by_cases hflaw : g.dataFlaw = 0
      · have hread : readOf (some g) = .committed g.header (storedChecks g) g.data := by
          simp only [readOf, if_pos hvalid, if_pos hflaw]
        rw [hread, replayPage]
        cases g.data with
        | journal j =>
          obtain ⟨hmark, hheader⟩ := hvalid
          by_cases hkind : g.header.kind = .journal
          · simp [journalPageOf, hmark, hheader, hflaw, hkind]
          · simp [journalPageOf, hkind]
        | _ => rfl
      · have hread : readOf (some g) = .corrupt g.header (storedChecks g) := by
          simp only [readOf, if_pos hvalid, if_neg hflaw]
        have hnot : ¬ (g.mark = .present ∧ g.headerFlaw = 0 ∧ g.dataFlaw = 0 ∧ g.header.kind = .journal) :=
          fun ⟨_, _, hdata, _⟩ => hflaw hdata
        rw [hread, replayPage]
        cases g.data with
        | journal j => exact (if_neg hnot).symm
        | _ => rfl
    · have hread : readOf (some g) = .uncommitted := by simp only [readOf, if_neg hvalid]
      rw [hread, replayPage]
      cases g.data with
      | journal j => exact (if_neg (fun ⟨hmark, hheader, _⟩ => hvalid ⟨hmark, hheader⟩)).symm
      | _ => rfl

/-! ### The newest page of a kind -/

/-- The newest page of a kind among pages. -/
def Newest (pages : List JPage) (x : JPage) (kind : JPage → Prop) : Prop :=
  x ∈ pages ∧ kind x ∧ ∀ y ∈ pages, kind y → y.2.1.pageSeq ≤ x.2.1.pageSeq

/-- In order of page sequence no page of its kind stands behind the newest one. -/
theorem newest_split {kind : JPage → Prop} (hdistinct : (pages.map (fun x => x.2.1.pageSeq)).Nodup)
    (h : Newest pages x kind) : ∃ pre post, sortPages pages = pre ++ x :: post ∧ ∀ y ∈ post, ¬ kind y := by
  obtain ⟨hmem, -, hnewest⟩ := h
  have hperm := sortBy_perm (fun x : JPage => x.2.1.pageSeq) pages
  have hrise := sortBy_ascending (fun x : JPage => x.2.1.pageSeq) pages
  have hkeys := (hperm.map (fun x : JPage => x.2.1.pageSeq)).nodup_iff.mpr hdistinct
  obtain ⟨pre, post, hsplit⟩ := List.append_of_mem (hperm.mem_iff.mpr hmem)
  refine ⟨pre, post, hsplit, fun y hy hkind => ?_⟩
  rw [hsplit] at hrise hkeys
  have hle : x.2.1.pageSeq ≤ y.2.1.pageSeq := List.rel_of_pairwise_cons (List.pairwise_append.mp hrise).2.1 hy
  have hpages : y ∈ pages := hperm.mem_iff.mp (by rw [hsplit]; exact List.mem_append_right _ (List.mem_cons_of_mem _ hy))
  have hsame : x.2.1.pageSeq = y.2.1.pageSeq := Nat.le_antisymm hle (hnewest y hpages hkind)
  rw [List.map_append, List.map_cons] at hkeys
  have hnotin := (List.nodup_cons.mp (List.nodup_append.mp hkeys).2.1).1
  exact hnotin (hsame ▸ List.mem_map_of_mem hy)

theorem mem_sortPages : x ∈ sortPages pages ↔ x ∈ pages := (sortBy_perm _ pages).mem_iff

/-! ### Entries (R184) -/

/-- A page names a recording. -/
def Names (j : JournalPage) (n : Nat) : Prop := (∃ v, j.record = .snapshot v ∧ v.num = n) ∨ j.record = .released n

theorem replayEntry_other {j : JournalPage} {es : List Entry} (h : ¬ Names j n) :
    (replayEntry es j).filter (fun e => decide (e.num = n)) = es.filter (fun e => decide (e.num = n)) := by
  have hkeep : ∀ m, m ≠ n → (es.filter (fun e => decide (e.num ≠ m))).filter (fun e => decide (e.num = n))
      = es.filter (fun e => decide (e.num = n)) := by
    intro m hm
    rw [List.filter_filter]
    refine List.filter_congr fun e _ => ?_
    by_cases he : e.num = n
    · simp [he, hm.symm]
    · simp [he]
  rw [replayEntry]
  cases hrecord : j.record with
  | snapshot v =>
    have hnum : v.num ≠ n := fun heq => h (.inl ⟨v, hrecord, heq⟩)
    have hentry : (entryOf v).num ≠ n := hnum
    simp only [List.filter_append, hkeep v.num hnum, List.filter_cons, decide_eq_false hentry, List.filter_nil,
      Bool.false_eq_true, if_false, List.append_nil]
  | released m => exact hkeep m (fun heq => h (.inr (heq ▸ hrecord)))
  | retiredList bs => rfl

theorem replayEntry_snapshot {j : JournalPage} {es : List Entry} {v : Snapshot} (h : j.record = .snapshot v) :
    (replayEntry es j).filter (fun e => decide (e.num = v.num)) = [entryOf v] := by
  have hnone : (es.filter (fun e => decide (e.num ≠ v.num))).filter (fun e => decide (e.num = v.num)) = [] := by
    rw [List.filter_filter]
    refine List.filter_eq_nil_iff.mpr fun e _ => ?_
    by_cases he : e.num = v.num <;> simp [he]
  have hentry : (entryOf v).num = v.num := rfl
  rw [replayEntry, h]
  simp only [List.filter_append, hnone, List.filter_cons, decide_eq_true hentry, List.filter_nil, if_true,
    List.nil_append]

theorem replayEntry_released {j : JournalPage} {es : List Entry} (h : j.record = .released n) :
    (replayEntry es j).filter (fun e => decide (e.num = n)) = [] := by
  rw [replayEntry, h]
  simp only [List.filter_filter]
  refine List.filter_eq_nil_iff.mpr fun e _ => ?_
  by_cases he : e.num = n <;> simp [he]

theorem foldl_replayEntry_other {js : List JournalPage} {es : List Entry} (h : ∀ j ∈ js, ¬ Names j n) :
    (js.foldl replayEntry es).filter (fun e => decide (e.num = n)) = es.filter (fun e => decide (e.num = n)) := by
  induction js generalizing es with
  | nil => rfl
  | cons j js ih =>
    rw [List.foldl_cons, ih (fun i hi => h i (List.mem_cons_of_mem _ hi)), replayEntry_other (h j List.mem_cons_self)]

theorem mem_replayEntry {j : JournalPage} {es : List Entry} {e : Entry} (h : e ∈ replayEntry es j) :
    e ∈ es ∨ Names j e.num := by
  rw [replayEntry] at h
  cases hrecord : j.record with
  | snapshot v =>
    rw [hrecord] at h
    rcases List.mem_append.mp h with hold | hnew
    · exact .inl (List.mem_filter.mp hold).1
    · obtain rfl := List.mem_singleton.mp hnew
      exact .inr (.inl ⟨v, hrecord, rfl⟩)
  | released m =>
    rw [hrecord] at h
    exact .inl (List.mem_filter.mp h).1
  | retiredList bs =>
    rw [hrecord] at h
    exact .inl h

theorem mem_foldl_replayEntry {js : List JournalPage} {es : List Entry} {e : Entry} (h : e ∈ js.foldl replayEntry es) :
    e ∈ es ∨ ∃ j ∈ js, Names j e.num := by
  induction js generalizing es with
  | nil => exact .inl h
  | cons j js ih =>
    rcases ih h with hmem | ⟨i, hi, hnames⟩
    · rcases mem_replayEntry hmem with hes | hnames
      · exact .inl hes
      · exact .inr ⟨j, List.mem_cons_self, hnames⟩
    · exact .inr ⟨i, List.mem_cons_of_mem _ hi, hnames⟩

/-! ### The Retired List (R184) -/

/-- A page carries a Retired List. -/
def Lists (j : JournalPage) : Prop := ∃ bs, j.record = .retiredList bs

theorem replayRetired_other {j : JournalPage} {bs : List Nat} (h : ¬ Lists j) : replayRetired bs j = bs := by
  rw [replayRetired]
  cases hrecord : j.record with
  | retiredList xs => exact absurd ⟨xs, hrecord⟩ h
  | snapshot v => rfl
  | released m => rfl

theorem foldl_replayRetired_other {js : List JournalPage} {bs : List Nat} (h : ∀ j ∈ js, ¬ Lists j) :
    js.foldl replayRetired bs = bs := by
  induction js generalizing bs with
  | nil => rfl
  | cons j js ih =>
    rw [List.foldl_cons, ih (fun i hi => h i (List.mem_cons_of_mem _ hi)), replayRetired_other (h j List.mem_cons_self)]

/-! ### The current block (R114, R184) -/

/-- The compaction set of a block is complete. -/
def CompleteSet (pages : List JPage) (b : Nat) : Prop := ∃ size, 1 ≤ size ∧ ∀ pos, 1 ≤ pos → pos ≤ size →
  ∃ x ∈ pages, x.1 = b ∧ x.2.2.role = .copy size pos

theorem hasCopy_iff {size pos : Nat} : hasCopy pages b size pos = true ↔ ∃ x ∈ pages, x.1 = b ∧ x.2.2.role = .copy size pos := by
  rw [hasCopy, List.any_eq_true]
  refine exists_congr fun x => and_congr_right fun _ => ?_
  rw [Bool.and_eq_true, decide_eq_true_iff]
  refine and_congr_right fun _ => ?_
  cases x.2.2.role with
  | copy m q => simp
  | append => simp

theorem copiesUpTo_iff {size m : Nat} : copiesUpTo pages b size m = true
    ↔ ∀ pos, 1 ≤ pos → pos ≤ m → ∃ x ∈ pages, x.1 = b ∧ x.2.2.role = .copy size pos := by
  induction m with
  | zero => exact ⟨fun _ pos hlow hhigh => absurd (Nat.le_trans hlow hhigh) (by decide), fun _ => rfl⟩
  | succ m ih =>
    rw [copiesUpTo, Bool.and_eq_true, ih, hasCopy_iff]
    constructor
    · rintro ⟨hbelow, hlast⟩ pos hlow hhigh
      rcases Nat.lt_or_eq_of_le hhigh with hlt | rfl
      · exact hbelow pos hlow (Nat.le_of_lt_succ hlt)
      · exact hlast
    · exact fun h => ⟨fun pos hlow hhigh => h pos hlow (Nat.le_succ_of_le hhigh), h _ (Nat.succ_pos m) (Nat.le_refl _)⟩

theorem setComplete_iff : setComplete pages b = true ↔ CompleteSet pages b := by
  rw [setComplete, List.any_eq_true]
  constructor
  · rintro ⟨x, -, hx⟩
    obtain ⟨-, hrole⟩ := Bool.and_eq_true_iff.mp hx
    cases hr : x.2.2.role with
    | append => simp [hr] at hrole
    | copy m q =>
      rw [hr] at hrole
      obtain ⟨hsize, hcopies⟩ := Bool.and_eq_true_iff.mp hrole
      exact ⟨m, of_decide_eq_true hsize, copiesUpTo_iff.mp hcopies⟩
  · rintro ⟨size, hsize, hcopies⟩
    obtain ⟨x, hmem, hblock, hrole⟩ := hcopies 1 (Nat.le_refl 1) hsize
    refine ⟨x, hmem, ?_⟩
    rw [hrole]
    simp [hblock, hsize, copiesUpTo_iff.mpr hcopies]

theorem currentBlock_newest (hdistinct : (pages.map (fun x => x.2.1.pageSeq)).Nodup)
    (h : Newest pages x (fun y => CompleteSet pages y.1)) : currentBlock pages = some x.1 := by
  obtain ⟨pre, post, hsplit, hpost⟩ := newest_split hdistinct h
  obtain ⟨-, hcomplete, -⟩ := h
  have hnone : post.filter (fun y => setComplete pages y.1) = [] :=
    List.filter_eq_nil_iff.mpr fun y hy hset => hpost y hy (setComplete_iff.mp hset)
  rw [currentBlock, hsplit, List.filter_append, 
    List.filter_cons_of_pos (p := fun y : JPage => setComplete pages y.1) (setComplete_iff.mpr hcomplete), hnone]
  simp

theorem currentBlock_none (h : ∀ x ∈ pages, ¬ CompleteSet pages x.1) : currentBlock pages = none := by
  have hnone : (sortPages pages).filter (fun y => setComplete pages y.1) = [] :=
    List.filter_eq_nil_iff.mpr fun y hy hset => h y (mem_sortPages.mp hy) (setComplete_iff.mp hset)
  rw [currentBlock, hnone]
  rfl

/-! ### The end of phase 2 -/

/-- The journal pages in order of page sequence. -/
def replayed (s : State) : List JournalPage := (sortPages s.seqr.jpages).map (fun x => x.2.2)

/-- The state in which phase 2 has formed the directory and phase 3 begins. -/
def replayDone (s : State) : State := { s with
  dir := { entries := (replayed s).foldl replayEntry [], nextNumber := ((replayed s).getLast?).elim 1 JournalPage.nextNumber },
  log := { s.log with retired := (replayed s).foldl replayRetired [] },
  seqr := { s.seqr with
    phase := 3, scan := .logHead 4, dirCur := currentBlock s.seqr.jpages,
    dirNext := currentNext s.seqr (currentBlock s.seqr.jpages), jpages := [], profileGot := [] } }

theorem endPhase2_eq (hpart : s.seqr.part = .mounting) (hfree : s.arr.running = none) (halone : ArrayAlone s.arr) :
    endPhase2 s = readHanded .sequencer 4 0 (replayDone s) := by
  rw [endPhase2]
  exact scanAsk_read (s := { replayDone s with seqr := { (replayDone s).seqr with scan := s.seqr.scan } }) hpart hfree halone
    (by decide) (by decide)

theorem replayed_split {kind : JPage → Prop} (hdistinct : (s.seqr.jpages.map (fun x => x.2.1.pageSeq)).Nodup)
    (h : Newest s.seqr.jpages x kind) : ∃ (pre : List JournalPage) (post : List JPage),
      replayed s = pre ++ x.2.2 :: post.map (fun y : JPage => y.2.2)
      ∧ ∀ y ∈ post, ¬ kind y := by
  obtain ⟨pre, post, hsplit, hpost⟩ := newest_split hdistinct h
  exact ⟨pre.map (fun y => y.2.2), post, by rw [replayed, hsplit, List.map_append, List.map_cons], hpost⟩

theorem replay_entry (hdistinct : (s.seqr.jpages.map (fun x => x.2.1.pageSeq)).Nodup)
    (h : Newest s.seqr.jpages x (fun y => Names y.2.2 n)) :
    (∀ v, x.2.2.record = .snapshot v →
      (replayDone s).dir.entries.filter (fun e => decide (e.num = n)) = [{ entryOf v with num := n }])
    ∧ (x.2.2.record = .released n → ∀ e ∈ (replayDone s).dir.entries, e.num ≠ n) := by
  obtain ⟨pre, post, hsplit, hpost⟩ := replayed_split hdistinct h
  obtain ⟨-, hnames, -⟩ := h
  have hothers : ∀ j ∈ post.map (fun y : JPage => y.2.2), ¬ Names j n := by
    intro j hj
    obtain ⟨y, hy, rfl⟩ := List.mem_map.mp hj
    exact hpost y hy
  have hlast : (replayDone s).dir.entries.filter (fun e => decide (e.num = n))
      = (replayEntry (pre.foldl replayEntry []) x.2.2).filter (fun e => decide (e.num = n)) := by
    change ((replayed s).foldl replayEntry []).filter _ = _
    rw [hsplit, List.foldl_append, List.foldl_cons, foldl_replayEntry_other hothers]
  refine ⟨fun v hrecord => ?_, fun hrecord e he hnum => ?_⟩
  · have hnum : v.num = n := by
      rcases hnames with ⟨w, hw, rfl⟩ | hreleased
      · exact congrArg Snapshot.num (PageRecord.snapshot.inj (hrecord.symm.trans hw))
      · exact absurd (hrecord.symm.trans hreleased) nofun
    subst hnum
    exact hlast.trans (replayEntry_snapshot hrecord)
  · have hmem : e ∈ (replayDone s).dir.entries.filter (fun e => decide (e.num = n)) :=
      List.mem_filter.mpr ⟨he, decide_eq_true hnum⟩
    rw [hlast, replayEntry_released hrecord] at hmem
    exact absurd hmem List.not_mem_nil

theorem replay_retired {bs : List Nat} (hdistinct : (s.seqr.jpages.map (fun x => x.2.1.pageSeq)).Nodup)
    (h : Newest s.seqr.jpages x (fun y => Lists y.2.2)) (hrecord : x.2.2.record = .retiredList bs) :
    (replayDone s).log.retired = bs := by
  obtain ⟨pre, post, hsplit, hpost⟩ := replayed_split hdistinct h
  have hothers : ∀ j ∈ post.map (fun y : JPage => y.2.2), ¬ Lists j := by
    intro j hj
    obtain ⟨y, hy, rfl⟩ := List.mem_map.mp hj
    exact hpost y hy
  change (replayed s).foldl replayRetired [] = bs
  rw [hsplit, List.foldl_append, List.foldl_cons, foldl_replayRetired_other hothers, replayRetired, hrecord]

theorem mem_replayed {j : JournalPage} (h : j ∈ replayed s) : ∃ x ∈ s.seqr.jpages, x.2.2 = j := by
  obtain ⟨x, hx, rfl⟩ := List.mem_map.mp h
  exact ⟨x, mem_sortPages.mp hx, rfl⟩

theorem replay_nextNumber (hdistinct : (s.seqr.jpages.map (fun x => x.2.1.pageSeq)).Nodup)
    (h : Newest s.seqr.jpages x (fun _ => True)) : (replayDone s).dir.nextNumber = x.2.2.nextNumber := by
  obtain ⟨pre, post, hsplit, hpost⟩ := replayed_split hdistinct h
  have hnone : post = [] := List.eq_nil_iff_forall_not_mem.mpr fun y hy => hpost y hy trivial
  change ((replayed s).getLast?).elim 1 JournalPage.nextNumber = _
  rw [hsplit, hnone]
  simp

/-- Settles O34: each read by the page and its place, the end of the phase by the newest page of each kind. -/
theorem replayFormsTheDirectory : Obligations.ReplayFormsTheDirectory := by
  unfold Obligations.ReplayFormsTheDirectory
  refine ⟨fun k x s hk hpart hscan hrun hwho hreq halone hcurrent => ?_, fun s hpart hfree halone => ?_⟩
  · intro page kept seen q
    let t : State := { s with arr := { s.arr with running := none }, seqr := q }
    have hnoted : ({ noteEnd s.seqr (k / 16) (k % 16) (readOf page) with
        jpages := (noteEnd s.seqr (k / 16) (k % 16) (readOf page)).jpages ++ (journalPageOf (k / 16) (readOf page)).toList,
        maxSeq := seeSeq (noteEnd s.seqr (k / 16) (k % 16) (readOf page)).maxSeq (readOf page) } : Sequencer) = q := by
      rw [noteEnd_readOf s.seqr hk, journalPageOf_readOf, seeSeq_readOf]
      rfl
    have hdone : mountReadDone (readPage s.store (k / 16) (k % 16)) (freed s.store s)
        = if k < 31 then scanAsk (.journal (k + 1)) (.read ((k + 1) / 16) ((k + 1) % 16)) t else endPhase2 t := by
      rw [readPage_eq, mountReadDone_journal (s := freed s.store s) hscan]
      exact congrArg (fun q => let t : State := { s with arr := { s.arr with running := none }, seqr := q }
        if k < 31 then scanAsk (.journal (k + 1)) (.read ((k + 1) / 16) ((k + 1) % 16)) t else endPhase2 t) hnoted
    rw [exec_mountRead hrun hwho hreq halone]
    refine ⟨fun hlow => congrArg _ ?_, fun hlast => congrArg _ ?_⟩
    · exact mountRead_reads (hdone.trans (if_pos hlow)) hpart rfl halone hcurrent (by omega) (by omega)
    · have hended : mountReadDone (readPage s.store (k / 16) (k % 16)) (freed s.store s) = endPhase2 t :=
        hdone.trans (if_neg (by omega))
      rw [hended, endPhase2_eq (s := t) hpart rfl halone]
      exact settle_mounting hpart hcurrent
  · intro pages hdistinct names lists complete newest t
    have ht : t = readHanded .sequencer 4 0 (replayDone s) := endPhase2_eq hpart hfree halone
    have hdir : t.dir = (replayDone s).dir := (congrArg State.dir ht :)
    have hretired : t.log.retired = (replayDone s).log.retired :=
      (congrArg (fun u : State => u.log.retired) ht :)
    have hcur : t.seqr.dirCur = currentBlock pages := congrArg (fun u : State => u.seqr.dirCur) ht
    have hnext : t.seqr.dirNext = currentNext s.seqr (currentBlock pages) :=
      congrArg (fun u : State => u.seqr.dirNext) ht
    rw [hdir, hretired, hcur, hnext]
    refine ⟨fun x n h => ?entry, fun e he => ?named, fun x bs h hrecord => replay_retired hdistinct h hrecord, fun h => ?none,
      fun x h => replay_nextNumber hdistinct h, fun hnone => ?first, fun x h => ?current, fun h => ?noCurrent, ?_⟩
    case entry =>
      obtain ⟨hsnapshot, hreleased⟩ := replay_entry hdistinct h
      refine ⟨fun v hrecord => (hsnapshot v hrecord).trans ?_, hreleased⟩
      cases hstate : v.state <;> simp [entryOf, journaledOf, hstate]
    case named =>
      rcases mem_foldl_replayEntry he with hold | ⟨j, hj, hnames⟩
      · exact absurd hold List.not_mem_nil
      · obtain ⟨x, hx, rfl⟩ := mem_replayed hj
        exact ⟨x, hx, hnames⟩
    case none =>
      refine foldl_replayRetired_other fun j hj => ?_
      obtain ⟨x, hx, rfl⟩ := mem_replayed hj
      exact h x hx
    case first =>
      have hpages : s.seqr.jpages = [] := hnone
      change ((replayed s).getLast?).elim 1 JournalPage.nextNumber = 1
      rw [replayed, hpages]
      rfl
    case current =>
      rw [currentBlock_newest hdistinct h]
      exact ⟨rfl, rfl⟩
    case noCurrent =>
      rw [currentBlock_none h]
      exact ⟨rfl, rfl⟩
    · rw [ht]
      rfl

end Sys2Proof.Machine
end

section
/-! PROOF. The log scan of the mount (11, R185, R186). -/

set_option Elab.async false

namespace Sys2Proof.Machine

variable {s t : State} {b p c f : Nat} {r : ReadResult} {h : PageHeader} {l : LogManager} {e : BlockEntry}

/-! ### Sparse tables -/

section Tables

variable {α : Type} {xs : List (Nat × α)} {k low : Nat} {v : α}

theorem risingAbove_pairwise (hrise : risingAbove low xs = true) :
    (∀ x ∈ xs, low < x.1) ∧ xs.Pairwise (fun x y => x.1 < y.1) := by
  induction xs generalizing low with
  | nil => exact ⟨nofun, .nil⟩
  | cons a rest ih =>
    obtain ⟨hlow, hrest⟩ : low < a.1 ∧ risingAbove a.1 rest = true := by simpa [risingAbove] using hrise
    obtain ⟨habove, hpairs⟩ := ih hrest
    refine ⟨fun x hx => ?_, .cons habove hpairs⟩
    rcases List.mem_cons.mp hx with rfl | hmem
    · exact hlow
    · exact Nat.lt_trans hlow (habove x hmem)

theorem sparseWf_pairwise (hwf : sparseWf xs = true) : xs.Pairwise (fun x y => x.1 < y.1) := by
  cases xs with
  | nil => exact .nil
  | cons a rest =>
    obtain ⟨habove, hpairs⟩ := risingAbove_pairwise (low := a.1) (xs := rest) hwf
    exact .cons habove hpairs

theorem lookup_of_mem (hpairs : xs.Pairwise (fun x y => x.1 < y.1)) (hmem : (k, v) ∈ xs) : lookup xs k = some v := by
  induction xs with
  | nil => exact absurd hmem List.not_mem_nil
  | cons a rest ih =>
    obtain ⟨habove, hrest⟩ := List.pairwise_cons.mp hpairs
    rcases List.mem_cons.mp hmem with rfl | hlater
    · exact if_pos rfl
    · have hne : a.1 ≠ k := Nat.ne_of_lt (habove _ hlater)
      exact (if_neg hne).trans (ih hrest hlater)

theorem mem_of_lookup (hlook : lookup xs k = some v) : (k, v) ∈ xs := by
  induction xs with
  | nil => exact absurd hlook nofun
  | cons a rest ih =>
    rw [lookup] at hlook
    split at hlook
    · rename_i hkey
      obtain rfl := Option.some.inj hlook
      exact hkey ▸ List.mem_cons_self
    · exact List.mem_cons_of_mem _ (ih hlook)

theorem mem_iff_lookup (hwf : sparseWf xs = true) : (k, v) ∈ xs ↔ lookup xs k = some v :=
  ⟨lookup_of_mem (sparseWf_pairwise hwf), mem_of_lookup⟩

end Tables

theorem blockEntry_of_mem (hwf : sparseWf l.table = true) (hmem : (b, e) ∈ l.table) : blockEntry l b = e := by
  rw [blockEntry, (mem_iff_lookup hwf).mp hmem, Option.getD_some]

/-- A block whose entry is not the initial one is listed. -/
theorem mem_of_blockEntry (h : blockEntry l b = e) (hne : e ≠ BlockEntry.initial) : (b, e) ∈ l.table := by
  rw [blockEntry] at h
  cases hlook : lookup l.table b with
  | none =>
    rw [hlook] at h
    exact absurd h.symm hne
  | some y =>
    rw [hlook] at h
    exact mem_of_lookup (h ▸ hlook)

/-! ### The last of what a fold prefers -/

/-- A fold that its preferred element settles from everything that the other elements leave. -/
theorem foldl_settles {α β : Type} {step : α → β → α} {P : α → Prop} {top acc : α} {x : β} {xs : List β}
    (hstays : ∀ y ∈ xs, step top y = top) (hreaches : ∀ a, P a → step a x = top)
    (hkeeps : ∀ a, P a → ∀ y ∈ xs, P (step a y)) (hmem : x ∈ xs) (hacc : P acc) : xs.foldl step acc = top := by
  have hrest : ∀ ys : List β, (∀ y ∈ ys, step top y = top) → ys.foldl step top = top := by
    intro ys
    induction ys with
    | nil => exact fun _ => rfl
    | cons y ys ih =>
      intro hys
      rw [List.foldl_cons, hys y List.mem_cons_self]
      exact ih fun z hz => hys z (List.mem_cons_of_mem _ hz)
  have hbefore : ∀ (ys : List β) (a : α), (∀ a, P a → ∀ y ∈ ys, P (step a y)) → P a → P (ys.foldl step a) := by
    intro ys
    induction ys with
    | nil => exact fun a _ ha => ha
    | cons y ys ih =>
      exact fun a hys ha => ih _ (fun a ha z hz => hys a ha z (List.mem_cons_of_mem _ hz)) (hys a ha y List.mem_cons_self)
  obtain ⟨pre, post, rfl⟩ := List.append_of_mem hmem
  rw [List.foldl_append, List.foldl_cons, hreaches _ (hbefore pre acc (fun a ha y hy => hkeeps a ha y
    (List.mem_append_left _ hy)) hacc)]
  exact hrest post fun y hy => hstays y (List.mem_append_right _ (List.mem_cons_of_mem _ hy))

/-! ### The block with the highest first sequence (R186) -/

/-- One block taken into the search for the highest first sequence. -/
def topStep (l : LogManager) (acc : Option Nat) (x : Nat × BlockEntry) : Option Nat :=
  match x.2.firstSeq with
  | none => acc
  | some f => match acc with
    | none => some x.1
    | some b => if firstSeqOf l b ≤ f then some x.1 else some b

theorem topBlock_eq (l : LogManager) : topBlock l = l.table.foldl (topStep l) none := rfl

theorem topStep_some {acc : Option Nat} {x : Nat × BlockEntry} (hfirst : x.2.firstSeq = some f) :
    topStep l acc x = match acc with
      | none => some x.1
      | some b => if firstSeqOf l b ≤ f then some x.1 else some b := by
  rw [topStep, hfirst]

theorem topStep_none {acc : Option Nat} {x : Nat × BlockEntry} (hfirst : x.2.firstSeq = none) : topStep l acc x = acc := by
  rw [topStep, hfirst]

theorem topBlock_highest (hwf : sparseWf l.table = true) (hfirst : (blockEntry l b).firstSeq = some f)
    (hothers : ∀ c g, c ≠ b → (blockEntry l c).firstSeq = some g → g < f) : topBlock l = some b := by
  have hseq : firstSeqOf l b = f := by rw [firstSeqOf, hfirst, Option.getD_some]
  have hlisted : ∀ x ∈ l.table, blockEntry l x.1 = x.2 := fun x hx => blockEntry_of_mem hwf hx
  have hmem : (b, blockEntry l b) ∈ l.table := mem_of_blockEntry rfl fun heq => by
    rw [heq] at hfirst
    exact absurd hfirst nofun
  rw [topBlock_eq]
  refine foldl_settles (P := fun acc => acc = none ∨ ∃ c, acc = some c ∧ firstSeqOf l c ≤ f) (x := (b, blockEntry l b))
    (fun y hy => ?stays) (fun acc hacc => ?reaches) (fun acc hacc y hy => ?keeps) hmem (.inl rfl)
  case stays =>
    cases hy' : y.2.firstSeq with
    | none => exact topStep_none hy'
    | some g =>
      rw [topStep_some hy']
      by_cases hb : y.1 = b
      · simp [hb]
      · have hlow : g < f := hothers y.1 g hb (by rw [hlisted y hy]; exact hy')
        exact if_neg (by omega)
  case reaches =>
    rw [topStep_some (x := (b, blockEntry l b)) hfirst]
    rcases hacc with rfl | ⟨c, rfl, hc⟩
    · rfl
    · exact if_pos hc
  case keeps =>
    cases hy' : y.2.firstSeq with
    | none =>
      rw [topStep_none hy']
      exact hacc
    | some g =>
      have hown : firstSeqOf l y.1 = g := by rw [firstSeqOf, hlisted y hy, hy', Option.getD_some]
      have hle : g ≤ f := by
        by_cases hb : y.1 = b
        · exact Nat.le_of_eq (hown.symm.trans (hb ▸ hseq))
        · exact Nat.le_of_lt (hothers y.1 g hb (by rw [hlisted y hy]; exact hy'))
      rw [topStep_some hy']
      rcases hacc with rfl | ⟨c, rfl, hc⟩
      · exact .inr ⟨y.1, rfl, hown ▸ hle⟩
      · dsimp only
        split
        · exact .inr ⟨y.1, rfl, hown ▸ hle⟩
        · exact .inr ⟨c, rfl, hc⟩

theorem topBlock_none (hwf : sparseWf l.table = true) (hnone : ∀ c, (blockEntry l c).firstSeq = none) :
    topBlock l = none := by
  have hfold : ∀ xs : List (Nat × BlockEntry), (∀ x ∈ xs, x.2.firstSeq = none) → xs.foldl (topStep l) none = none := by
    intro xs
    induction xs with
    | nil => exact fun _ => rfl
    | cons x xs ih =>
      intro hxs
      rw [List.foldl_cons, topStep_none (hxs x List.mem_cons_self)]
      exact ih fun y hy => hxs y (List.mem_cons_of_mem _ hy)
  exact hfold l.table fun x hx => by rw [← blockEntry_of_mem hwf hx]; exact hnone x.1

/-! ### The newest page (R186) -/

theorem newestPage_eq (q : Sequencer) : newestPage q = (q.heads ++ q.tails).foldl newerPage none := by
  rw [newestPage, List.foldl_append]

theorem newestPage_of {q : Sequencer} (hmem : (b, h) ∈ q.heads ++ q.tails)
    (hnewest : ∀ y ∈ q.heads ++ q.tails, y ≠ (b, h) → y.2.firstSeq < h.firstSeq) : newestPage q = some (b, h) := by
  rw [newestPage_eq]
  have hle : ∀ y ∈ q.heads ++ q.tails, y.2.firstSeq ≤ h.firstSeq := fun y hy => by
    by_cases heq : y = (b, h)
    · exact Nat.le_of_eq (congrArg (fun x : Nat × PageHeader => x.2.firstSeq) heq)
    · exact Nat.le_of_lt (hnewest y hy heq)
  refine foldl_settles (P := fun acc => acc = none ∨ acc = some (b, h) ∨ ∃ y, acc = some y ∧ y.2.firstSeq < h.firstSeq)
    (x := (b, h)) (fun y hy => if_neg (Nat.not_lt.mpr (hle y hy))) (fun acc hacc => ?reaches) (fun acc hacc y hy => ?keeps) hmem
    (.inl rfl)
  case reaches =>
    rcases hacc with rfl | rfl | ⟨y, rfl, hlow⟩
    · rfl
    · exact ite_self _
    · exact if_pos hlow
  case keeps =>
    have hnew : some y = some (b, h) ∨ ∃ z, some y = some z ∧ z.2.firstSeq < h.firstSeq := by
      by_cases heq : y = (b, h)
      · exact .inl (congrArg some heq)
      · exact .inr ⟨y, rfl, hnewest y hy heq⟩
    rcases hacc with rfl | rfl | ⟨z, rfl, hlow⟩
    · exact .inr hnew
    · exact .inr (.inl (if_neg (Nat.not_lt.mpr (hle y hy))))
    · rw [newerPage]
      split
      · exact .inr hnew
      · exact .inr (.inr ⟨z, rfl, hlow⟩)

/-! ### The History List of the mount (R186) -/

theorem mem_filledBlocks (hwf : sparseWf l.table = true) : c ∈ filledBlocks l ↔ (blockEntry l c).state = .filled := by
  rw [filledBlocks, (sortBy_perm _ _).mem_iff, List.mem_map]
  constructor
  · rintro ⟨x, hx, rfl⟩
    obtain ⟨hmem, hfilled⟩ := List.mem_filter.mp hx
    rw [blockEntry_of_mem hwf hmem]
    exact of_decide_eq_true hfilled
  · intro hfilled
    have hmem : (c, blockEntry l c) ∈ l.table := mem_of_blockEntry rfl fun heq => by
      rw [heq] at hfilled
      exact absurd hfilled nofun
    exact ⟨_, List.mem_filter.mpr ⟨hmem, decide_eq_true hfilled⟩, rfl⟩

theorem filledBlocks_nodup (hwf : sparseWf l.table = true) : (filledBlocks l).Nodup := by
  rw [filledBlocks, (sortBy_perm _ _).nodup_iff]
  have hpairs := (sparseWf_pairwise hwf).filter (fun x => decide (x.2.state = .filled))
  exact List.pairwise_map.mpr (hpairs.imp Nat.ne_of_lt)

theorem filledBlocks_ascending (l : LogManager) :
    (filledBlocks l).Pairwise (fun c d => firstSeqOf l c ≤ firstSeqOf l d) := sortBy_ascending _ _

/-- The log once the block of the newest page has become FILLED when it was STALE. -/
def blockRevived (b : Nat) (s : State) : LogManager :=
  if (blockEntry s.log b).state = .stale then setBlockEntry s.log b { blockEntry s.log b with
    state := .filled, firstSeq := (lookup s.seqr.heads b).map PageHeader.firstSeq,
    firstPage := (lookup s.seqr.heads b).map PageHeader.pageSeq }
  else s.log

theorem reviveBlock_eq (b : Nat) (s : State) : reviveBlock b s = { s with log := blockRevived b s } := by
  rw [reviveBlock, blockRevived]
  split <;> rfl

theorem blockRevived_wf (hwf : sparseWf s.log.table = true) (b : Nat) : sparseWf (blockRevived b s).table = true := by
  rw [blockRevived]
  split
  · exact sparseWf_putAt _ _ _ hwf
  · exact hwf

/-- The state once the sequences have been set from the newest page. -/
def sequencesSet (b : Nat) (h : PageHeader) (s : State) : State := { s with
  log := { blockRevived b s with
    lastCommitted := h.firstSeq + h.count - 1, ringPos := b, nextPageSeq := afterSeq (max s.seqr.maxSeq h.pageSeq),
    history := filledBlocks (blockRevived b s) },
  packer := { s.packer with nextSeq := h.firstSeq + h.count - 1 + 1 }, ctl := { s.ctl with lastRun := h.run } }

/-- The state once they have been set with no page found. -/
def sequencesFirst (s : State) : State := { s with
  log := { s.log with
    lastCommitted := 0, ringPos := 1023, nextPageSeq := afterSeq s.seqr.maxSeq, history := filledBlocks s.log },
  packer := { s.packer with nextSeq := 1 } }

theorem setSequences_some (hnewest : newestPage s.seqr = some (b, h)) : setSequences s = sequencesSet b h s := by
  rw [setSequences, hnewest]
  dsimp only
  rw [reviveBlock_eq]
  rfl

theorem setSequences_none (hnewest : newestPage s.seqr = none) : setSequences s = sequencesFirst s := by
  rw [setSequences, hnewest]
  rfl

/-- The log that the History List of the mount is formed from. -/
theorem setSequences_history (hwf : sparseWf s.log.table = true) : ∃ l : LogManager, sparseWf l.table = true
    ∧ (setSequences s).log.history = filledBlocks l ∧ (setSequences s).log.table = l.table := by
  cases hnewest : newestPage s.seqr with
  | none =>
    rw [setSequences_none hnewest]
    exact ⟨s.log, hwf, rfl, rfl⟩
  | some y =>
    rw [setSequences_some (b := y.1) (h := y.2) hnewest]
    exact ⟨blockRevived y.1 s, blockRevived_wf hwf y.1, rfl, rfl⟩

theorem afterSeq_below {m : Nat} (hm : m < 281474976710655) : afterSeq m = m + 1 := if_pos hm

/-! ### Reads of the log scan (R185) -/

/-- The Sequencer once a page of a block has been noted. -/
def pageSeen (b : Nat) (valid : Option PageHeader) (q : Sequencer) : Sequencer :=
  match valid with
  | none => q
  | some h => if h.kind = .log
    then { q with
      heads := if (lookup q.heads b).isSome then q.heads else putAt q.heads b (some h),
      tails := putAt q.tails b (some h) }
    else q

theorem logPageOf_readOf (page : Option Page) :
    logPageOf (readOf page) = (validHeader page).bind (fun h => if h.kind = .log then some h else none) := by
  rw [logPageOf, headerOf_readOf]
  cases validHeader page <;> rfl

theorem noteRead_readOf (b : Nat) (page : Option Page) (s : State) :
    noteRead b (readOf page) s = { s with seqr := pageSeen b (validHeader page) s.seqr } := by
  rw [noteRead, logPageOf_readOf]
  cases validHeader page with
  | none => rfl
  | some h =>
    by_cases hkind : h.kind = .log
    · simp only [Option.bind_some, if_pos hkind, pageSeen]
      rfl
    · simp only [Option.bind_some, if_neg hkind, pageSeen]

/-- A block entered in the Block Table. -/
def blockScanned (b : Nat) (st : BlockState) (head : Option PageHeader) (l : LogManager) : LogManager :=
  setBlockEntry l b
    { state := st, hold := 0, firstSeq := head.map PageHeader.firstSeq, firstPage := head.map PageHeader.pageSeq }

/-- The log once a block has been entered, with its first page and whether page 0 is a committed log page. -/
def logScanned (b : Nat) (page0 : Bool) (head : Option PageHeader) (l : LogManager) : LogManager :=
  if b ∈ l.retired then blockScanned b .retired head l
  else if page0 = true then blockScanned b .filled head l
  else blockScanned b .stale none l

/-- A block whose page 0 is no committed log page is STALE or RETIRED. -/
theorem logScanned_rest (b : Nat) (head : Option PageHeader) (l : LogManager) : logScanned b false head l
    = if b ∈ l.retired then blockScanned b .retired head l else blockScanned b .stale none l := rfl

theorem enterBlock_eq (page0 : Bool) :
    enterBlock b page0 s = { s with log := logScanned b page0 (lookup s.seqr.heads b) s.log } := by
  rw [enterBlock, scannedEntry, logScanned]
  by_cases hretired : b ∈ s.log.retired
  · rw [if_pos (List.contains_iff_mem.mpr hretired), if_pos hretired]
    rfl
  · rw [if_neg (fun h => hretired (List.contains_iff_mem.mp h)), if_neg hretired]
    cases page0 <;> rfl

/-- The next block of the scan is read, or the scan goes on to the newest block, once a block has been entered. -/
theorem scanBlock_settles {q : Sequencer} {w : LogManager} (hpart : q.part = .mounting) (halone : ArrayAlone s.arr)
    (hcurrent : s.mgmt.current = none) :
    settle (scanBlock b { s with seqr := q, log := w, arr := { s.arr with running := none } })
      = if b < 1023 then readHanded .sequencer (b + 1) 0
          { s with seqr := { q with scan := .logHead (b + 1) }, log := w }
        else settle (scanNewest { s with seqr := q, log := w, arr := { s.arr with running := none } }) := by
  let t : State := { s with seqr := q, log := w, arr := { s.arr with running := none } }
  by_cases hlast : b < 1023
  · have hnext : scanBlock b t = scanAsk (.logHead (b + 1)) (.read (b + 1) 0) t := if_pos hlast
    rw [if_pos hlast]
    refine (congrArg settle (hnext.trans (scanAsk_read (s := t) hpart rfl halone (by omega) (by decide)))).trans ?_
    exact settle_mounting hpart hcurrent
  · rw [if_neg hlast]
    exact congrArg settle (if_neg hlast)

theorem readOf_eq_uncommitted {page : Option Page} :
    readOf page = .uncommitted ↔ page ≠ none ∧ validHeader page = none := by
  cases page with
  | none => exact ⟨nofun, fun h => absurd rfl h.1⟩
  | some g =>
    by_cases hvalid : g.mark = .present ∧ g.headerFlaw = 0
    · have hread : readOf (some g) ≠ .uncommitted := by
        simp only [readOf, if_pos hvalid]
        split <;> nofun
      exact ⟨fun h => absurd h hread, fun ⟨_, h⟩ => by simp only [validHeader, if_pos hvalid, reduceCtorEq] at h⟩
    · simp only [readOf, validHeader, if_neg hvalid, ne_eq, reduceCtorEq, not_false_eq_true, and_self]

theorem mountLogHead_read (hr : r ≠ .uncommitted) :
    mountLogHead b r s = scanBlock b (enterBlock b (logPageOf r).isSome (noteRead b r s)) := by
  cases r with
  | uncommitted => exact absurd rfl hr
  | _ => rfl

theorem logPageOf_isSome (page : Option Page) :
    (logPageOf (readOf page)).isSome = true ↔ ∃ h, validHeader page = some h ∧ h.kind = .log := by
  rw [logPageOf_readOf]
  cases validHeader page with
  | none => simp
  | some h => by_cases hkind : h.kind = .log <;> simp [hkind]

theorem pageSeen_other {valid : Option PageHeader} {q : Sequencer} (hother : ∀ h, valid = some h → h.kind ≠ .log) :
    pageSeen b valid q = q := by
  cases valid with
  | none => rfl
  | some h => exact if_neg (hother h rfl)

theorem pageSeen_part (b : Nat) (valid : Option PageHeader) (q : Sequencer) : (pageSeen b valid q).part = q.part := by
  cases valid with
  | none => rfl
  | some h =>
    rw [pageSeen]
    split <;> rfl

section Reads

variable {x : Running} (hpart : s.seqr.part = .mounting) (hrun : s.arr.running = some x) (hwho : x.who = .sequencer)
  (hreq : x.req = .read b p) (halone : ArrayAlone s.arr) (hcurrent : s.mgmt.current = none)
include hpart hrun hwho hreq halone hcurrent

omit hpart in
/-- A page of the block under scan has been read, and its next page is to be read. -/
theorem logScan_page {q : Sequencer} {step : ScanStep} {n : Nat} (hq : q.part = .mounting) (hb : b ≤ 1023) (hn : n ≤ 15)
    (hnext : mountReadDone (readOf (pageAt s.store b p)) (freed s.store s)
      = scanAsk step (.read b n) { freed s.store s with seqr := q }) :
    exec .readPageEnd s = .next (readHanded .sequencer b n { s with seqr := { q with scan := step } }) := by
  rw [exec_mountRead hrun hwho hreq halone, readPage_eq]
  exact congrArg _ (mountRead_reads hnext hq rfl halone hcurrent hb hn)

/-- The block under scan is entered. -/
theorem logScan_block {page0 : Bool} {q : Sequencer} {w : LogManager}
    (hnext : mountReadDone (readOf (pageAt s.store b p)) (freed s.store s)
      = scanBlock b (enterBlock b page0 (noteRead b (readOf (pageAt s.store b p)) (freed s.store s))))
    (hq : pageSeen b (validHeader (pageAt s.store b p)) s.seqr = q) (hw : logScanned b page0 (lookup q.heads b) s.log = w) :
    exec .readPageEnd s = if b < 1023 then .next (readHanded .sequencer (b + 1) 0
        { s with seqr := { q with scan := .logHead (b + 1) }, log := w })
      else .next (settle (scanNewest { s with seqr := q, log := w, arr := { s.arr with running := none } })) := by
  have hentered : enterBlock b page0 (noteRead b (readOf (pageAt s.store b p)) (freed s.store s))
      = { s with seqr := q, log := w, arr := { s.arr with running := none } } := by
    rw [noteRead_readOf, enterBlock_eq, ← hw, ← hq]
    rfl
  have hmounting : q.part = .mounting := by rw [← hq, pageSeen_part]; exact hpart
  have hsettles := scanBlock_settles (b := b) (s := s) (q := q) (w := w) hmounting halone hcurrent
  rw [exec_mountRead hrun hwho hreq halone, readPage_eq, hnext, hentered, hsettles]
  split <;> rfl

end Reads

/-- Settles O35: the reads by their step, the end of the phase by the highest block and the newest page. -/
theorem theLogScanEntersEveryBlock : Obligations.TheLogScanEntersEveryBlock := by
  unfold Obligations.TheLogScanEntersEveryBlock
  refine ⟨fun b p x s hlow hhigh hp hpart hrun hwho hreq halone hcurrent => ?reads,
    fun b f s hpart hfree halone hwf hlow hhigh hfirst hothers => ?top, fun s hwf hnone => ?none, fun s hwf => ?sequences⟩
  case top =>
    rw [scanNewest, topBlock_highest hwf hfirst hothers]
    exact scanAsk_read hpart hfree halone hhigh (by decide)
  case none =>
    rw [scanNewest, topBlock_none hwf hnone]
    rfl
  case sequences =>
    intro t pages
    obtain ⟨l, hl, hhistory, htable⟩ := setSequences_history hwf
    have hentry : ∀ c, blockEntry t.log c = blockEntry l c := fun c => by rw [blockEntry, htable, blockEntry]
    have hseq : ∀ c, firstSeqOf t.log c = firstSeqOf l c := fun c => by rw [firstSeqOf, hentry, firstSeqOf]
    refine ⟨fun c => ?_, ?_, ?_, fun b h hmem hnewest hbelow => ?_, fun hpages hbelow => ?_⟩
    · rw [hhistory, hentry]
      exact mem_filledBlocks hl
    · rw [hhistory]
      exact filledBlocks_nodup hl
    · rw [hhistory]
      exact (filledBlocks_ascending l).imp fun {c d} hle => by rw [hseq, hseq]; exact hle
    · have ht : t = sequencesSet b h s := setSequences_some (newestPage_of hmem hnewest)
      rw [ht, sequencesSet, afterSeq_below hbelow]
      rfl
    · have hnone : newestPage s.seqr = none := by
        rw [newestPage_eq]
        exact congrArg (List.foldl newerPage none) hpages
      have ht : t = sequencesFirst s := setSequences_none hnone
      rw [ht, sequencesFirst, afterSeq_below hbelow]
  case reads =>
    intro valid noted next nextBlock entered head
    have hnoted : noted = pageSeen b (validHeader (pageAt s.store b p)) s.seqr := rfl
    have hseen : noted.part = .mounting := by rw [hnoted, pageSeen_part]; exact hpart
    have hread : noteRead b (readOf (pageAt s.store b p)) (freed s.store s) = { freed s.store s with seqr := noted } :=
      noteRead_readOf _ _ _
    refine ⟨fun hscan hzero => ⟨fun hnone hpage => ?uncommitted, fun hpage => ?entered⟩,
      fun hscan => ⟨fun hp => ?rest, fun hlast => ?last⟩, fun hscan hp => ?newest, fun hscan hlast => ?ended⟩
    case uncommitted =>
      subst hzero
      have hr : readOf (pageAt s.store b 0) = .uncommitted := readOf_eq_uncommitted.mpr ⟨hpage, hnone⟩
      refine logScan_page hrun hwho hreq halone hcurrent hpart hhigh (by decide) ?_
      rw [mountReadDone_logHead (s := freed s.store s) hscan, hr]
      rfl
    case entered =>
      subst hzero
      have hr : readOf (pageAt s.store b 0) ≠ .uncommitted := fun h => by
        obtain ⟨hblank, hnone⟩ := readOf_eq_uncommitted.mp h
        exact hpage.elim (fun hsome => hsome hnone) hblank
      have hnext := (mountReadDone_logHead (s := freed s.store s) hscan).trans (mountLogHead_read hr)
      have hblock := fun q w => logScan_block (q := q) (w := w) hpart hrun hwho hreq halone hcurrent hnext
      refine ⟨fun hretired => hblock _ _ rfl (if_pos hretired), fun hretired hlog => ?_, fun hretired hother => ?_⟩
      · exact hblock _ _ rfl ((if_neg hretired).trans (if_pos ((logPageOf_isSome _).mpr hlog)))
      · have hnotLog : ¬ (logPageOf (readOf (pageAt s.store b 0))).isSome = true := fun h => by
          obtain ⟨g, hg, hkind⟩ := (logPageOf_isSome _).mp h
          exact hother g hg hkind
        refine hblock _ _ ?_ ((if_neg hretired).trans (if_neg hnotLog))
        exact pageSeen_other hother
    case rest =>
      refine logScan_page hrun hwho hreq halone hcurrent hseen hhigh hp ?_
      rw [mountReadDone_logRest (s := freed s.store s) hscan, mountLogRest, hread]
      exact if_pos hp
    case last =>
      subst hlast
      have hnext : mountReadDone (readOf (pageAt s.store b 15)) (freed s.store s)
          = scanBlock b (enterBlock b false (noteRead b (readOf (pageAt s.store b 15)) (freed s.store s))) := by
        rw [mountReadDone_logRest (s := freed s.store s) hscan, mountLogRest]
        exact if_neg (by decide)
      refine logScan_block hpart hrun hwho hreq halone hcurrent hnext rfl ?_
      exact logScanned_rest b _ s.log
    case newest =>
      refine logScan_page hrun hwho hreq halone hcurrent hseen hhigh hp ?_
      rw [mountReadDone_newest (s := freed s.store s) hscan, mountNewest, hread]
      exact if_pos hp
    case ended =>
      subst hlast
      rw [exec_mountRead hrun hwho hreq halone, readPage_eq, mountReadDone_newest (s := freed s.store s) hscan, mountNewest,
        hread]
      rfl

end Sys2Proof.Machine
end

section
/-! PROOF. The end of the mount scan (11, R190, R191). -/

set_option Elab.async false

namespace Sys2Proof.Machine

variable {s t u v w : State} {b c : Nat} {x y : Running} {store : List (Nat × Page)}

/-! ### Becoming READY (R191) -/

/-- The Sequencer once the part is READY. -/
def seqrReady (q : Sequencer) : Sequencer := { q with
  part := .ready, phase := 0, scan := .none, dirEnd0 := 0, dirEnd1 := 0, dirCur := none, dirNext := 16, leftCur := none,
  leftNext := 16, maxSeq := 0, heads := [], tails := [], work := [], comp := Compaction.initial, dirFault := false,
  retiredNow := none }

/-- The part READY with STARTED raised. -/
def partReady (s : State) : State := { s with
  seqr := seqrReady s.seqr,
  jrnl := { s.jrnl with
    cur := s.seqr.dirCur, nextPage := s.seqr.dirNext, state := .idle, jobs := [], usable := !s.seqr.dirFault },
  raised := { s.raised with events := s.raised.events ++ [(.sequencer, .started s.seqr.cause)] } }

/-- A retirement of phase 6 asks for its job and is announced. -/
def retirementTold (now : Option Nat) (s : State) : State :=
  match now with
  | none => s
  | some b => raiseEvent .log (.blockRetired b .erase s.log.retired.length) (askJob (.retiredList false) s)

/-- A log in FAULT is announced. -/
def faultTold (s : State) : State :=
  match s.log.condition with
  | .fault cause => raiseEvent .log (.storeFault cause) s
  | _ => s

/-- The erase of a second candidate is handed in. -/
def secondErase (s : State) : State :=
  match s.log.ahead with
  | .underWay b => (arrayAsk .eraseAhead (.erase b) s).1
  | _ => s

/-- Autostart begins a run. -/
def autostarted (s : State) : State := if s.ctl.settings.autostart then (startCapture s).1 else s

theorem becomeReady_eq (s : State) : becomeReady s
    = autostarted (secondErase (faultTold (retirementTold s.seqr.retiredNow (partReady s)))) := rfl

theorem faultTold_fault {cause : FaultCause} (h : s.log.condition = .fault cause) :
    faultTold s = raiseEvent .log (.storeFault cause) s := by
  rw [faultTold, h]

theorem faultTold_serving (h : inFault s.log = false) : faultTold s = s := by
  rw [faultTold]
  cases hcond : s.log.condition with
  | fault cause =>
    rw [inFault, hcond] at h
    exact absurd h nofun
  | _ => rfl

theorem secondErase_none (h : ∀ c, s.log.ahead ≠ .underWay c) : secondErase s = s := by
  rw [secondErase]
  split
  · rename_i c hc
    exact absurd hc (h c)
  · rfl

/-- An erase that is handed in while an operation runs waits in its slot. -/
theorem arrayAsk_erase_waits {who : Requester} (hrun : s.arr.running = some y) (hmay : mayAsk who (.erase c) = true) :
    (arrayAsk who (.erase c) s).1 = s.setArr (setSlot s.arr (some (.erase c)) who) := by
  have hsuspends : suspends s.arr y (.erase c) = false := by
    rw [suspends]
    cases y.req <;> rfl
  rw [arrayAsk, if_neg (by rw [hmay]; decide), if_neg (by simp [readsErasing]), hrun]
  dsimp only
  rw [hsuspends]
  rfl

theorem secondErase_waits (hahead : s.log.ahead = .underWay c) (hrun : s.arr.running = some y) (hlow : 4 ≤ c)
    (hhigh : c ≤ 1023) : secondErase s = s.setArr { s.arr with eraseAhead := some (.erase c) } := by
  rw [secondErase, hahead]
  exact arrayAsk_erase_waits hrun (isLogBlock_iff.mpr ⟨hlow, hhigh⟩)

/-! ### Autostart (R86) -/

theorem startCapture_refused (h : inFault s.log = true ∨ 281474976710654 < s.packer.nextSeq) : (startCapture s).1 = s := by
  rw [startCapture]
  by_cases hfault : inFault s.log = true
  · rw [if_pos hfault]
  · rw [if_neg hfault]
    by_cases hstate : s.ctl.state ≠ .stopped
    · rw [if_pos hstate]
    · have hnot : acceptsRunStart s.packer = false := by
        have hmax : ¬ s.packer.nextSeq ≤ ordinaryMax := Nat.not_le.mpr (h.resolve_left hfault)
        simp [acceptsRunStart, hmax]
      rw [if_neg hstate, if_pos hnot]

/-- `v` is `u` once autostart has begun a run, where it is ON and no fault and no exhausted sequence space forbids it. -/
def Autostarts (u v : State) : Prop :=
  (u.ctl.settings.autostart = false ∧ v = u)
    ∨ (u.ctl.settings.autostart = true ∧ (inFault u.log = true ∨ 281474976710654 < u.packer.nextSeq) ∧ v = u)
    ∨ u.ctl.settings.autostart = true ∧ ∃ origin, RunBegun origin u v

theorem autostarted_of (h : Autostarts u v) : autostarted u = v := by
  rcases h with ⟨hoff, rfl⟩ | ⟨hon, hrefused, rfl⟩ | ⟨hon, origin, hbegun⟩
  · exact if_neg (ne_true_of_eq_false hoff)
  · exact (if_pos hon).trans (startCapture_refused hrefused)
  · obtain ⟨hstart, -⟩ := startCapture_begun hbegun
    rw [autostarted, if_pos hon, hstart]

theorem autostarted_refused (h : inFault s.log = true) : autostarted s = s := by
  rw [autostarted, startCapture_refused (.inl h), ite_self]

theorem RunBegun.mgmt {origin : Nat} (h : RunBegun origin s v) : v.mgmt = s.mgmt := by
  obtain ⟨-, -, -, -, ⟨i, -, -, -, rfl⟩ | ⟨q, -, -, ⟨j, -, rfl⟩ | ⟨-, rfl⟩⟩⟩ := h <;> rfl

theorem Autostarts.mgmt (h : Autostarts u v) : v.mgmt = u.mgmt := by
  rcases h with ⟨-, rfl⟩ | ⟨-, -, rfl⟩ | ⟨-, origin, hbegun⟩
  · rfl
  · rfl
  · exact RunBegun.mgmt hbegun

/-- A part that has become READY with no buffer waiting ends its happening. -/
theorem settle_started (hcurrent : u.mgmt.current = none) (hstarts : Autostarts u v) (hempty : waitingBuffer v = none) :
    settle (autostarted u) = v := by
  rw [autostarted_of hstarts]
  refine settle_quiet ?_ (.inr (.inr (.inr hempty)))
  rw [NoStop, hstarts.mgmt, hcurrent]
  nofun

/-! ### The Sequencer's erase of phase 6 (R190) -/

theorem exec_mountErase (hrun : s.arr.running = some x) (hwho : x.who = .sequencer) (hreq : x.req = .erase b)
    (halone : ArrayAlone s.arr) (q : EraseEnd) : exec (.eraseBlockEnd q) s
      = .next (settle (mountEraseDone (decide (q = .erased)) (freed (eraseBlock s.store b q).1 s))) := by
  rw [exec_eraseBlockEnd hrun hreq halone, hwho]
  rfl

theorem mountEraseDone_firstErase {ok : Bool} (h : s.seqr.scan = .firstErase b) :
    mountEraseDone ok s = firstErased b ok s := by
  rw [mountEraseDone, h]

/-- The part READY once phase 6 has left the log as `l`. -/
def mountReady (l : LogManager) (store : List (Nat × Page)) (s : State) : State := partReady { freed store s with
  seqr := { s.seqr with phase := 7 }, log := l }

/-- The log once a block has been retired in phase 6. -/
def firstRetired (b : Nat) (l : LogManager) : LogManager := { setBlockEntry l b { blockEntry l b with state := .retired } with
  ahead := .none, retired := l.retired ++ [b] }

theorem firstErased_erased : firstErased b true (freed store s) = becomeReady { freed store s with
    seqr := { s.seqr with phase := 7 },
    log := { setBlockEntry s.log b { blockEntry s.log b with state := .erased } with ahead := .prepared b } } := rfl

theorem firstErased_limit (hfull : 32 ≤ s.log.retired.length + 1) : firstErased b false (freed store s)
    = becomeReady { freed store s with
      seqr := { s.seqr with retiredNow := some b, phase := 7 },
      log := { firstRetired b s.log with condition := .fault .retiredLimit } } := by
  rw [firstErased, if_neg Bool.false_ne_true]
  refine if_pos ?_
  rw [List.length_append]
  exact hfull

theorem firstErased_failed (hroom : s.log.retired.length + 1 < 32) : firstErased b false (freed store s)
    = becomeReady { freed store s with
      seqr := { s.seqr with retiredNow := some b, phase := 7 },
      log := (candidate (firstRetired b s.log)).elim (firstRetired b s.log) (chosenLog (firstRetired b s.log)) } := by
  have hnot : ¬ Config.retiredMax ≤ (s.log.retired ++ [b]).length := by
    rw [List.length_append]
    exact Nat.not_le.mpr hroom
  rw [firstErased, if_neg Bool.false_ne_true]
  refine (if_neg hnot).trans ?_
  change (match candidate (firstRetired b s.log) with | none => _ | some c => _) = _
  cases candidate (firstRetired b s.log) <;> rfl

/-- The RETIRED_LIST job of phase 6 runs at once, since the writer is IDLE. -/
theorem listAsked_out (hidle : u.jrnl.state = .idle) (h : JobAsked (.retiredList false) u w) :
    ∃ y, w.arr.running = some y := by
  obtain ⟨-, -, ⟨hbusy, -⟩ | ⟨-, -, -, -, -, j, rest, -, -, -, hserved⟩⟩ := h
  · exact absurd hidle hbusy
  · obtain ⟨d, c, -, -, -, -, rfl⟩ | ⟨-, rfl⟩ := hserved
    · exact ⟨_, rfl⟩
    · exact ⟨_, rfl⟩

theorem listAsked_log (h : JobAsked (.retiredList false) u w) :
    w.log = { u.log with nextPageSeq := w.log.nextPageSeq } := by
  obtain ⟨-, -, ⟨-, rfl⟩ | ⟨-, -, -, -, -, j, rest, -, -, -, hserved⟩⟩ := h
  · rfl
  · obtain ⟨d, c, -, -, -, -, rfl⟩ | ⟨-, rfl⟩ := hserved <;> rfl

/-- The state with events raised behind those before. -/
def alsoRaised (es : List (EventSource × Event)) (u : State) : State :=
  u.setRaised { u.raised with events := u.raised.events ++ es }

theorem retirementTold_some (h : JobAsked (.retiredList false) u w) : retirementTold (some b) u
    = alsoRaised [(.log, .blockRetired b .erase u.log.retired.length)] w := by
  rw [retirementTold, askJob_asked h (fun _ => Job.noConfusion) Job.noConfusion]
  rfl

/-- The retirement of a block in phase 6, as the part tells it. -/
def blockGone (b : Nat) (s : State) : EventSource × Event := (.log, .blockRetired b .erase (s.log.retired.length + 1))

theorem retirement_told {l : LogManager} (hretired : l.retired = s.log.retired ++ [b])
    (h : JobAsked (.retiredList false) (mountReady l store s) w) :
    retirementTold (some b) (mountReady l store s) = alsoRaised [blockGone b s] w := by
  have hsize : (mountReady l store s).log.retired.length = s.log.retired.length + 1 := by
    change l.retired.length = _
    rw [hretired, List.length_append]
    rfl
  rw [retirementTold_some h, hsize]
  rfl

theorem firstErase_limit (hfull : 32 ≤ s.log.retired.length + 1) (hasked : JobAsked (.retiredList false)
      (mountReady { firstRetired b s.log with condition := .fault .retiredLimit } store s) v) :
    firstErased b false (freed store s) = alsoRaised [blockGone b s, (.log, .storeFault .retiredLimit)] v
    ∧ inFault v.log = true := by
  have hlog := listAsked_log hasked
  have hcond : v.log.condition = .fault .retiredLimit := by rw [hlog]; rfl
  have hfault : inFault v.log = true := by rw [inFault, hcond]
  refine ⟨?_, hfault⟩
  let t : State := alsoRaised [blockGone b s, (.log, .storeFault .retiredLimit)] v
  have hsecond : secondErase t = t := secondErase_none fun c hc => by
    have hahead : v.log.ahead = .none := by rw [hlog]; rfl
    exact absurd (hahead.symm.trans hc) nofun
  have htold : faultTold (alsoRaised [blockGone b s] v) = t := by
    rw [faultTold_fault (s := alsoRaised [blockGone b s] v) hcond]
    change alsoRaised [(.log, .storeFault .retiredLimit)] (alsoRaised [blockGone b s] v) = t
    simp only [alsoRaised, t, State.setRaised, List.append_assoc, List.cons_append, List.nil_append]
  rw [firstErased_limit hfull, becomeReady_eq]
  change autostarted (secondErase (faultTold (retirementTold (some b) (mountReady
    { firstRetired b s.log with condition := .fault .retiredLimit } store s)))) = t
  rw [retirement_told rfl hasked, htold, hsecond]
  exact autostarted_refused hfault

theorem firstErase_none (hroom : s.log.retired.length + 1 < 32) (hnormal : s.log.condition = .normal)
    (hnone : candidate (firstRetired b s.log) = none)
    (hasked : JobAsked (.retiredList false) (mountReady (firstRetired b s.log) store s) w) :
    firstErased b false (freed store s) = autostarted (alsoRaised [blockGone b s] w) := by
  have hlog := listAsked_log hasked
  have hserving : inFault (alsoRaised [blockGone b s] w).log = false := by
    have hcond : w.log.condition = .normal := by rw [hlog]; exact hnormal
    change inFault w.log = false
    rw [inFault, hcond]
  have hsecond : secondErase (alsoRaised [blockGone b s] w) = alsoRaised [blockGone b s] w := secondErase_none fun c hc => by
    have hahead : w.log.ahead = .none := by rw [hlog]; rfl
    exact absurd (hahead.symm.trans hc) nofun
  rw [firstErased_failed hroom, hnone, becomeReady_eq]
  change autostarted (secondErase (faultTold (retirementTold (some b) (mountReady (firstRetired b s.log) store s)))) = _
  rw [retirement_told rfl hasked, faultTold_serving hserving, hsecond]

theorem firstErase_second (hroom : s.log.retired.length + 1 < 32) (hnormal : s.log.condition = .normal)
    (hcandidate : candidate (firstRetired b s.log) = some c) (hlow : 4 ≤ c) (hhigh : c ≤ 1023)
    (hasked : JobAsked (.retiredList false) (mountReady (chosenLog (firstRetired b s.log) c) store s) w) :
    firstErased b false (freed store s) = autostarted (let z := alsoRaised [blockGone b s] w
      z.setArr { z.arr with eraseAhead := some (.erase c) }) := by
  have hlog := listAsked_log hasked
  obtain ⟨y, hrun⟩ := listAsked_out rfl hasked
  have hserving : inFault (alsoRaised [blockGone b s] w).log = false := by
    have hcond : w.log.condition = .normal := by rw [hlog]; exact hnormal
    change inFault w.log = false
    rw [inFault, hcond]
  have hahead : (alsoRaised [blockGone b s] w).log.ahead = .underWay c := by
    change w.log.ahead = _
    rw [hlog]
    rfl
  rw [firstErased_failed hroom, hcandidate, becomeReady_eq]
  change autostarted (secondErase (faultTold (retirementTold (some b)
    (mountReady (chosenLog (firstRetired b s.log) c) store s)))) = _
  rw [retirement_told rfl hasked, faultTold_serving hserving, secondErase_waits hahead hrun hlow hhigh]

/-- Settles O15, by how the erase ended, by the size of the Retired List and by the second search. -/
theorem phaseSixEraseMakesThePartReady : Obligations.PhaseSixEraseMakesThePartReady := by
  unfold Obligations.PhaseSixEraseMakesThePartReady
  intro b x s hrun hwho hreq halone hstore hpart hscan hnow hnormal hcurrent hwaits becomes started
  have hbecomes : ∀ l store, becomes (mountReady l store s) l [] store := fun l store =>
    ⟨rfl, rfl, rfl, rfl, rfl, rfl⟩
  have hexec : ∀ q, exec (.eraseBlockEnd q) s = .next (settle (firstErased b (decide (q = .erased))
      (freed (eraseBlock s.store b q).1 s))) := fun q => by
    rw [exec_mountErase hrun hwho hreq halone]
    generalize (eraseBlock s.store b q).1 = store
    rw [mountEraseDone_firstErase (s := freed store s) hscan]
  refine ⟨?erased, fun q hq hfault => ?failed⟩
  case erased =>
    have hblank := pageAt_erased hstore b
    have hend := hexec .erased
    generalize (eraseBlock s.store b .erased).1 = store at hblank hend
    let l : LogManager := { setBlockEntry s.log b { blockEntry s.log b with state := .erased } with ahead := .prepared b }
    let u : State := mountReady l store s
    refine ⟨store, hblank, u, hbecomes l store, fun v hstarts hempty => ?_⟩
    have hready : firstErased b true (freed store s) = autostarted u := by
      have hserving : inFault u.log = false := by rw [inFault, show u.log.condition = .normal from hnormal]
      rw [firstErased_erased, becomeReady_eq]
      change autostarted (secondErase (faultTold (retirementTold s.seqr.retiredNow u))) = _
      rw [hnow, retirementTold, faultTold_serving hserving, secondErase_none (s := u) nofun]
    rw [hend]
    exact congrArg _ ((congrArg settle hready).trans (settle_started hcurrent hstarts hempty))
  case failed =>
    intro retired size gone raise
    refine ⟨_, pageAt_eraseBlock_other b q, fun hfull => ⟨_, hbecomes _ _, fun v hasked => ?_⟩,
      fun hroom hnone => ⟨_, hbecomes _ _, fun w v hasked hstarts hempty => ?_⟩,
      fun c hroom hcandidate hlow hhigh => ⟨_, hbecomes _ _, fun w v hasked hstarts hempty => ?_⟩⟩
    all_goals rw [hexec q, decide_eq_false hq]
    all_goals generalize (eraseBlock s.store b q).1 = store at hasked ⊢
    all_goals have hmgmt : _ = s.mgmt := (congrArg State.mgmt hasked.frame :)
    all_goals have hctl : _ = s.ctl := (congrArg State.ctl hasked.frame :)
    all_goals have hpacker : _ = s.packer := (congrArg State.packer hasked.frame :)
    · obtain ⟨hend, hinFault⟩ := firstErase_limit hfull hasked
      have hsettled : settle (alsoRaised [blockGone b s, (.log, .storeFault .retiredLimit)] v)
          = alsoRaised [blockGone b s, (.log, .storeFault .retiredLimit)] v := by
        refine settle_quiet ?_ (.inr (.inl hinFault))
        rw [NoStop, show (alsoRaised _ v).mgmt = s.mgmt from hmgmt, hcurrent]
        nofun
      exact congrArg _ ((congrArg settle hend).trans hsettled)
    all_goals have hstarted : ∀ z : State, z.ctl = s.ctl → z.packer = s.packer → started z v → Autostarts z v :=
      fun z hctl hpacker h => by rw [Autostarts, hctl, hpacker]; exact h
    · exact congrArg _ ((congrArg settle (firstErase_none hroom hnormal hnone hasked)).trans
        (settle_started ((congrArg Management.current hmgmt).trans hcurrent) (hstarted _ hctl hpacker hstarts) hempty))
    · exact congrArg _ ((congrArg settle (firstErase_second hroom hnormal hcandidate hlow hhigh hasked)).trans
        (settle_started ((congrArg Management.current hmgmt).trans hcurrent) (hstarted _ hctl hpacker hstarts) hempty))

end Sys2Proof.Machine
end

section
/-! PROOF. Interrupted recordings at the mount (11, R187 to R190). -/

set_option Elab.async false

namespace Sys2Proof.Machine

variable {s t u v : State} {b c d n num page target : Nat} {x y : Running} {store : List (Nat × Page)} {e : Entry}
  {r : PageRecord} {set : List Nat} {l : LogManager} {step : ScanStep}

/-! ### The completed list (R187) -/

/-- A first sequence lies above the last block of a list (R187; log 33). -/
def Above (s : State) (e : Entry) (f : Nat) : Prop :=
  match e.blocks.getLast? with
  | none => e.first ≤ f
  | some b => match (blockEntry s.log b).firstSeq, lookup s.seqr.heads b with
    | some g, _ => g < f
    | none, some h => h.firstSeq < f
    | none, none => e.first ≤ f

theorem extendsAbove_iff {f : Nat} : extendsAbove s e f = true ↔ Above s e f := by
  rw [extendsAbove, Above]
  cases e.blocks.getLast? with
  | none => exact decide_eq_true_iff
  | some b =>
    dsimp only
    cases (blockEntry s.log b).firstSeq with
    | some g => exact decide_eq_true_iff
    | none =>
      rw [headPage]
      cases lookup s.seqr.heads b with
      | some h => exact decide_eq_true_iff
      | none => exact decide_eq_true_iff

/-- The pages that extend a list, in the order of the extension. -/
def extensionPages (s : State) (e : Entry) : List (Nat × PageHeader) :=
  sortBy (fun x : Nat × PageHeader => x.2.firstSeq) (s.seqr.heads.filter (fun x => decide (x.2.capturing = e.num)
    && extendsAbove s e x.2.firstSeq && !e.blocks.contains x.1))

theorem extension_eq (s : State) (e : Entry) : extension s e = (extensionPages s e).map (fun x => x.1) := rfl

theorem mem_extensionPages {x : Nat × PageHeader} : x ∈ extensionPages s e
    ↔ x ∈ s.seqr.heads ∧ x.2.capturing = e.num ∧ Above s e x.2.firstSeq ∧ x.1 ∉ e.blocks := by
  rw [extensionPages, (sortBy_perm _ _).mem_iff, List.mem_filter, Bool.and_eq_true, Bool.and_eq_true, decide_eq_true_iff,
    extendsAbove_iff, Bool.not_eq_true', and_assoc]
  simp

theorem mem_extension (hwf : sparseWf s.seqr.heads = true) : c ∈ extension s e
    ↔ c ∉ e.blocks ∧ ∃ h, lookup s.seqr.heads c = some h ∧ h.capturing = e.num ∧ Above s e h.firstSeq := by
  rw [extension_eq, List.mem_map]
  constructor
  · rintro ⟨x, hx, rfl⟩
    obtain ⟨hmem, hcapturing, habove, hnot⟩ := mem_extensionPages.mp hx
    exact ⟨hnot, x.2, (mem_iff_lookup hwf).mp hmem, hcapturing, habove⟩
  · rintro ⟨hnot, h, hlook, hcapturing, habove⟩
    exact ⟨(c, h), mem_extensionPages.mpr ⟨mem_of_lookup hlook, hcapturing, habove, hnot⟩, rfl⟩

theorem extension_nodup (hwf : sparseWf s.seqr.heads = true) : (extension s e).Nodup := by
  have hkeys := (sparseWf_pairwise hwf).filter (fun x => decide (x.2.capturing = e.num)
    && extendsAbove s e x.2.firstSeq && !e.blocks.contains x.1)
  have hperm := (sortBy_perm (fun x : Nat × PageHeader => x.2.firstSeq) (s.seqr.heads.filter (fun x =>
    decide (x.2.capturing = e.num) && extendsAbove s e x.2.firstSeq && !e.blocks.contains x.1))).map (fun x => x.1)
  exact hperm.nodup_iff.mpr (List.pairwise_map.mpr (hkeys.imp Nat.ne_of_lt))

theorem extension_ascending (hwf : sparseWf s.seqr.heads = true) : (extension s e).Pairwise (fun c d =>
    ∀ g h, lookup s.seqr.heads c = some g → lookup s.seqr.heads d = some h → g.firstSeq ≤ h.firstSeq) := by
  have hrise : (extensionPages s e).Pairwise (fun x y => x.2.firstSeq ≤ y.2.firstSeq) := sortBy_ascending _ _
  rw [extension_eq, List.pairwise_map]
  refine hrise.imp_of_mem ?_
  intro x y hx hy hle g h hg hh
  obtain ⟨hmemX, -⟩ := mem_extensionPages.mp hx
  obtain ⟨hmemY, -⟩ := mem_extensionPages.mp hy
  obtain rfl : x.2 = g := Option.some.inj (((mem_iff_lookup hwf).mp hmemX).symm.trans hg)
  obtain rfl : y.2 = h := Option.some.inj (((mem_iff_lookup hwf).mp hmemY).symm.trans hh)
  exact hle

/-! ### Holds (R189) -/

theorem blockEntry_setBlockEntry_same {f : BlockEntry} (hne : f ≠ BlockEntry.initial) :
    blockEntry (setBlockEntry l b f) b = f := by
  rw [blockEntry, setBlockEntry, if_neg hne]
  exact congrArg (fun x => Option.getD x BlockEntry.initial) (lookup_putAt_some _ _ _)

theorem blockEntry_setBlockEntry_ne {f : BlockEntry} (hne : c ≠ b) :
    blockEntry (setBlockEntry l b f) c = blockEntry l c := by
  rw [blockEntry, setBlockEntry, blockEntry]
  exact congrArg (fun x => Option.getD x BlockEntry.initial) (lookup_putAt_ne _ _ _ _ hne)

theorem blockEntry_foldl_raiseHold (bs : List Nat) (l : LogManager) (b : Nat) :
    blockEntry (bs.foldl raiseHold l) b = { blockEntry l b with hold := (blockEntry l b).hold + bs.count b } := by
  induction bs generalizing l with
  | nil => rfl
  | cons c bs ih =>
    rw [List.foldl_cons, ih, raiseHold]
    by_cases hb : b = c
    · subst hb
      have hne : { blockEntry l b with hold := (blockEntry l b).hold + 1 } ≠ BlockEntry.initial := fun heq =>
        absurd (congrArg BlockEntry.hold heq) (Nat.succ_ne_zero _)
      rw [blockEntry_setBlockEntry_same hne, List.count_cons_self]
      dsimp only
      rw [Nat.add_right_comm, Nat.add_assoc]
    · rw [blockEntry_setBlockEntry_ne hb, List.count_cons_of_ne (Ne.symm hb)]

theorem count_flatten_blocks (es : List Entry) (hnodup : ∀ e ∈ es, e.blocks.Nodup) (b : Nat) :
    (es.map Entry.blocks).flatten.count b = (es.filter (fun e => decide (b ∈ e.blocks))).length := by
  induction es with
  | nil => rfl
  | cons e es ih =>
    rw [List.map_cons, List.flatten_cons, List.count_append, ih fun y hy => hnodup y (List.mem_cons_of_mem _ hy)]
    by_cases hmem : b ∈ e.blocks
    · rw [(hnodup e List.mem_cons_self).count, if_pos hmem,
        List.filter_cons_of_pos (p := fun e : Entry => decide (b ∈ e.blocks)) (decide_eq_true hmem),
        List.length_cons, Nat.add_comm]
    · rw [List.count_eq_zero_of_not_mem hmem,
        List.filter_cons_of_neg (p := fun e : Entry => decide (b ∈ e.blocks)) (by simpa using hmem), Nat.zero_add]

theorem computeHolds_entry (hnodup : ∀ e ∈ s.dir.entries, e.blocks.Nodup) (hzero : ∀ b, holdOf s.log b = 0) (b : Nat) :
    blockEntry (computeHolds s).log b = { blockEntry s.log b with
      hold := (s.dir.entries.filter (fun e => decide (b ∈ e.blocks))).length } := by
  change blockEntry ((s.dir.entries.map Entry.blocks).flatten.foldl raiseHold s.log) b = _
  rw [blockEntry_foldl_raiseHold, count_flatten_blocks _ hnodup, show (blockEntry s.log b).hold = 0 from hzero b, Nat.zero_add]

/-- The log with the holds of the directory's block lists. -/
def logHeld (dir : Directory) (l : LogManager) : LogManager := (dir.entries.map Entry.blocks).flatten.foldl raiseHold l

theorem logHeld_eq (dir : Directory) (l : LogManager) : logHeld dir l = { l with table := (logHeld dir l).table } := by
  rw [logHeld]
  generalize (dir.entries.map Entry.blocks).flatten = bs
  induction bs generalizing l with
  | nil => rfl
  | cons b bs ih =>
    rw [List.foldl_cons, ih (raiseHold l b)]
    rfl

/-! ### Operations of phase 4 (R188) -/

section Asks

variable (hpart : s.seqr.part = .mounting) (hfree : s.arr.running = none) (halone : ArrayAlone s.arr)
include hpart hfree halone

theorem scanAsk_erase (hb : b ≤ 1023) (hhold : isLogBlock b = true → holdOf s.log b = 0) : scanAsk step (.erase b) s
    = eraseHanded .sequencer b { s with seqr := { s.seqr with scan := step } } := by
  let t : State := { s with seqr := { s.seqr with scan := step } }
  have hmay : mayAsk .sequencer (.erase b) = true := decide_eq_true hb
  have hask := arrayAsk_single (s := t) hfree halone hmay (.inl ⟨hpart, rfl⟩) fun c hc hlog => by
    cases hc
    exact hhold hlog
  obtain ⟨-, -, -, -, -, -, hslot⟩ := halone
  have hslotSame : setSlot (setSlot s.arr (some (.erase b)) .sequencer) none .sequencer = s.arr := by
    simp [setSlot, ← hslot]
  rw [scanAsk]
  refine (congrArg Prod.fst hask).trans ?_
  simp only [startRequest]
  rw [show t.arr = s.arr from rfl, hslotSame]
  rfl

/-- A JOURNAL page of the mount that is handed in is under program with the next page sequence. -/
theorem mountProgram_handed {role : JournalRole} (hb : b ≤ 1) (hp : page ≤ 15)
    (hseq : s.log.nextPageSeq < 281474976710655) : mountProgram step b page role r s
      = pageHanded .sequencer .journal b page (.journal { role := role, nextNumber := s.dir.nextNumber, record := r })
        { s with seqr := { s.seqr with scan := step } } := by
  have hkind : kindOfBlock b = .journal := if_pos hb
  have hb' : b ≤ 1023 := by omega
  rw [mountProgram, drawPageSeq_below hseq]
  dsimp only
  rw [scanAsk_runs (s := s.setLog { s.log with nextPageSeq := s.log.nextPageSeq + 1 }) hpart hfree halone
    (by simp [mayAsk, ownHeader, hb', hp, hkind, Config.lastLogBlock]) (fun _ => ArrayReq.noConfusion)]
  rfl

/-- A compaction of the mount that begins. -/
def mountCompactBegun (num : Nat) (u : State) : State :=
  let target := if u.seqr.dirCur = some 0 then 1 else 0
  eraseHanded .sequencer target { u with seqr := { u.seqr with
    scan := .compErase num, leftCur := u.seqr.dirCur, leftNext := u.seqr.dirNext,
    comp := { target := target, page := 0, set := [], pos := 0, begun := u.seqr.comp.begun + 1 } } }

theorem mountCompact_begun : mountCompact num s = mountCompactBegun num s := by
  have htarget : compactTarget s.seqr.dirCur = if s.seqr.dirCur = some 0 then 1 else 0 := by
    cases s.seqr.dirCur with
    | none => rfl
    | some d => simp [compactTarget]
  have hle : (if s.seqr.dirCur = some 0 then 1 else 0) ≤ 3 := by split <;> omega
  rw [mountCompact, htarget, mountCompactBegun]
  refine scanAsk_erase (s := { s with seqr := { s.seqr with
    leftCur := s.seqr.dirCur, leftNext := s.seqr.dirNext, comp := _ } }) hpart hfree halone (Nat.le_trans hle (by decide)) ?_
  intro hlog
  obtain ⟨hlow, -⟩ := isLogBlock_iff.mp hlog
  omega

/-- The COPY page of the mount's set position in hand is under program. -/
def mountCopyHanded (num : Nat) (r : PageRecord) (u : State) : State :=
  pageHanded .sequencer .journal u.seqr.comp.target u.seqr.comp.page
    (.journal { role := .copy (u.seqr.comp.set.length + 1) u.seqr.comp.pos, nextNumber := u.dir.nextNumber, record := r })
    { u with seqr := { u.seqr with scan := .compCopy num } }

theorem mountCopy_handed (htarget : s.seqr.comp.target ≤ 1) (hp : s.seqr.comp.page ≤ 15)
    (hseq : s.log.nextPageSeq < 281474976710655) (hrecord : SetRecord s s.seqr.comp.set s.seqr.comp.pos r) :
    mountCopy num s = mountCopyHanded num r s := by
  rw [mountCopy, setRecord_of hrecord]
  exact mountProgram_handed hpart hfree halone htarget hp hseq

/-- The KEPT snapshot of a completed entry is under program. -/
def keptHanded (num d page : Nat) (f : Entry) (u : State) : State :=
  pageHanded .sequencer .journal d page
    (.journal { role := .append, nextNumber := u.dir.nextNumber, record := snapshotRecord f .kept f.blocks })
    { u with seqr := { u.seqr with scan := .append num } }

theorem journalEntry_appends (hfault : s.seqr.dirFault = false) (hcur : s.seqr.dirCur = some d) (hd : d ≤ 1)
    (hnext : s.seqr.dirNext ≤ 15) (hseq : s.log.nextPageSeq < 281474976710655) (hfind : findEntry s.dir num = some e) :
    journalEntry num s = some (keptHanded num d s.seqr.dirNext e s) := by
  have hstep : mountStep s.seqr = .append d s.seqr.dirNext := by
    rw [mountStep, hcur]
    exact if_pos hnext
  have hrecord : keptRecord s num = snapshotRecord e .kept e.blocks := by
    rw [keptRecord, entryRecord, hfind]
    rfl
  rw [journalEntry, if_neg (ne_true_of_eq_false hfault), hstep]
  dsimp only
  rw [hrecord, mountProgram_handed hpart hfree halone hd hnext hseq]
  rfl

theorem journalEntry_compacts (hfault : s.seqr.dirFault = false) (hnext : 15 < s.seqr.dirNext)
    (hbegun : s.seqr.comp.begun < 3) : journalEntry num s = some (mountCompactBegun num s) := by
  have hstep : mountStep s.seqr = .compact := by
    rw [mountStep]
    cases s.seqr.dirCur with
    | none => exact if_pos hbegun
    | some d => exact (if_neg (Nat.not_le.mpr hnext)).trans (if_pos hbegun)
  rw [journalEntry, if_neg (ne_true_of_eq_false hfault), hstep]
  exact congrArg some (mountCompact_begun hpart hfree halone)

end Asks

theorem journalEntry_spent (hnext : 15 < s.seqr.dirNext) (hbegun : 3 ≤ s.seqr.comp.begun) : journalEntry num s = none := by
  have hstep : mountStep s.seqr = .fault := by
    rw [mountStep]
    cases s.seqr.dirCur with
    | none => exact if_neg (Nat.not_lt.mpr hbegun)
    | some d => exact (if_neg (Nat.not_le.mpr hnext)).trans (if_neg (Nat.not_lt.mpr hbegun))
  rw [journalEntry, hstep]
  exact ite_self none

theorem journalAgain_some (h : journalEntry num s = some u) : journalAgain num s = u := by rw [journalAgain, h]

theorem journalAgain_none (h : journalEntry num s = none) : journalAgain num s = nextWork (mountDirFault s) := by
  rw [journalAgain, h]

theorem nextWork_none (h : s.seqr.work = []) : nextWork s = beginPhase5 s := by
  rw [nextWork, workOn, h]

/-! ### The end of phase 4 (R189, R190) -/

/-- The log that phase 5 leaves. -/
def logMounted (cond : LogCondition) (s : State) : LogManager := { logHeld s.dir s.log with condition := cond }

theorem mountCondition_held : mountCondition (computeHolds (setPhase 5 s)) = mountCondition s := by
  have hlog : (computeHolds (setPhase 5 s)).log.retired = s.log.retired := by
    change (logHeld s.dir s.log).retired = _
    rw [logHeld_eq]
  rw [mountCondition, hlog]
  rfl

theorem beginPhase5_eq {cond : LogCondition} (h : mountCondition s = cond) :
    beginPhase5 s = beginPhase6 { s with seqr := { s.seqr with phase := 5 }, log := logMounted cond s } := by
  rw [beginPhase5, mountCondition_held, h]
  rfl

theorem beginPhase5_faults {cause : FaultCause} (hcond : mountCondition s = .fault cause) (hahead : s.log.ahead = .none)
    (hnow : s.seqr.retiredNow = none) : beginPhase5 s = alsoRaised [(.log, .storeFault cause)]
      (partReady { s with seqr := { s.seqr with phase := 7 }, log := logMounted (.fault cause) s }) := by
  let t : State := partReady { s with seqr := { s.seqr with phase := 7 }, log := logMounted (.fault cause) s }
  have hfault : inFault (logMounted (.fault cause) s) = true := rfl
  have hready : beginPhase5 s = becomeReady { s with seqr := { s.seqr with phase := 7 }, log := logMounted (.fault cause) s } := by
    rw [beginPhase5_eq hcond, beginPhase6]
    exact if_pos hfault
  have hsecond : secondErase (alsoRaised [(.log, .storeFault cause)] t) = alsoRaised [(.log, .storeFault cause)] t :=
    secondErase_none fun c hc => by
      have hsame : t.log.ahead = s.log.ahead := by
        change (logHeld s.dir s.log).ahead = _
        rw [logHeld_eq]
      exact absurd ((hsame.trans hahead).symm.trans hc) nofun
  have htold : faultTold t = alsoRaised [(.log, .storeFault cause)] t := faultTold_fault rfl
  rw [hready, becomeReady_eq]
  change autostarted (secondErase (faultTold (retirementTold s.seqr.retiredNow t))) = _
  rw [hnow, retirementTold, htold, hsecond]
  exact autostarted_refused hfault

theorem beginPhase5_erases (hpart : s.seqr.part = .mounting) (hfree : s.arr.running = none) (halone : ArrayAlone s.arr)
    (hcond : mountCondition s = .normal) (hcandidate : candidate (logMounted .normal s) = some c) (hc : c ≤ 1023) :
    beginPhase5 s = eraseHanded .sequencer c { s with
      seqr := { s.seqr with phase := 6, scan := .firstErase c }, log := chosenLog (logMounted .normal s) c } := by
  have hserving : ¬ inFault (logMounted .normal s) = true := Bool.false_ne_true
  rw [beginPhase5_eq hcond, beginPhase6]
  refine (if_neg hserving).trans ?_
  change (match candidate (logMounted .normal s) with | none => _ | some b => _) = _
  rw [hcandidate]
  exact scanAsk_erase (s := { s with seqr := { s.seqr with phase := 6 }, log := chosenLog (logMounted .normal s) c }) hpart
    hfree halone hc (fun _ => holdOf_chosenLog hcandidate)

end Sys2Proof.Machine
end

section
/-! PROOF. Interrupted recordings at the mount: the results of phase 4 (11, R187, R188). -/

set_option Elab.async false

namespace Sys2Proof.Machine

variable {s t u v : State} {b c d n num page target : Nat} {x y : Running} {store : List (Nat × Page)} {e : Entry}
  {r : PageRecord} {set : List Nat} {l : LogManager} {step : ScanStep}

theorem findEntry_changeEntry {dir : Directory} {f : Entry → Entry} (hnum : ∀ e, (f e).num = e.num)
    (hfind : findEntry dir n = some e) : findEntry (changeEntry dir n f) n = some (f e) := by
  have hmap := findEntry_map (d := dir) (f := fun e => if e.num = n then f e else e) (n := n) fun e => by
    by_cases h : e.num = n
    · simp only [if_pos h, hnum]
    · simp only [if_neg h]
  rw [changeEntry, hmap, hfind, Option.map_some, if_pos (num_of_findEntry hfind)]

/-! ### Ends of the Sequencer's operations -/

theorem mountProgramDone_append {ok : Bool} (h : s.seqr.scan = .append num) :
    mountProgramDone ok s = mountAppended num ok s := by
  rw [mountProgramDone, h]

theorem mountProgramDone_compCopy {ok : Bool} (h : s.seqr.scan = .compCopy num) :
    mountProgramDone ok s = mountCopied num ok s := by
  rw [mountProgramDone, h]

theorem mountEraseDone_compErase {ok : Bool} (h : s.seqr.scan = .compErase num) :
    mountEraseDone ok s = mountCompErased num ok s := by
  rw [mountEraseDone, h]

theorem exec_mountProgram {p : Nat} {h : PageHeader} {k : PageData} {q : ProgramEnd} {ok : Bool}
    (hrun : s.arr.running = some x) (hwho : x.who = .sequencer) (hreq : x.req = .program b p h k) (halone : ArrayAlone s.arr)
    (hpage : programPage s.store b p h k q = (store, ok)) :
    exec (.programPageEnd q) s = .next (settle (mountProgramDone ok (freed store s))) := by
  rw [exec_programPageEnd hrun hreq halone, hwho, hpage]
  rfl

/-! ### The last pages of an interrupted recording (R187) -/

/-- The noted last pages once a page of a block has been read. -/
def tailNoted (b : Nat) (tails : List (Nat × PageHeader)) : Option Page → List (Nat × PageHeader)
  | none => tails
  | some g => if g.mark = .present ∧ g.headerFlaw = 0 ∧ g.header.kind = .log then putAt tails b (some g.header) else tails

theorem noteTail_readOf (b : Nat) (pg : Option Page) (s : State) :
    noteTail b (readOf pg) s = { s with seqr := { s.seqr with tails := tailNoted b s.seqr.tails pg } } := by
  rw [noteTail, logPageOf_readOf]
  cases pg with
  | none => rfl
  | some g =>
    by_cases hvalid : g.mark = .present ∧ g.headerFlaw = 0
    · by_cases hkind : g.header.kind = .log
      · simp only [validHeader, tailNoted, if_pos hvalid, Option.bind_some, if_pos hkind,
          if_pos (⟨hvalid.1, hvalid.2, hkind⟩ : g.mark = .present ∧ g.headerFlaw = 0 ∧ g.header.kind = .log)]
        rfl
      · have hnot : ¬ (g.mark = .present ∧ g.headerFlaw = 0 ∧ g.header.kind = .log) := fun ⟨_, _, h⟩ => hkind h
        simp only [validHeader, tailNoted, if_pos hvalid, Option.bind_some, if_neg hkind, if_neg hnot]
    · have hnot : ¬ (g.mark = .present ∧ g.headerFlaw = 0 ∧ g.header.kind = .log) :=
        fun ⟨hmark, hflaw, _⟩ => hvalid ⟨hmark, hflaw⟩
      simp only [validHeader, tailNoted, if_neg hvalid, Option.bind_none, if_neg hnot]

/-- An interrupted entry completed. -/
def interrupted (last : Nat) (f : Entry) : Entry :=
  { f with state := .kept, last := some last, reason := some .interrupted }

/-- The part once an interrupted recording's last page has been read and its entry completed. -/
def recordingCompleted (num b : Nat) (e : Entry) (s : State) : State :=
  let tails := tailNoted b s.seqr.tails (pageAt s.store b 15)
  { freed s.store s with
    dir := changeEntry s.dir num (fun f => { interrupted (interruptedLast e (lookup tails b)) f with blocks := e.blocks }),
    seqr := { s.seqr with tails := tails, work := s.seqr.work.drop 1, comp := Compaction.initial } }

/-! ### A Directory Area that fails the mount (R188) -/

/-- The outcome when the mount gives the Directory Area up, with no recording left. -/
def MountFails (store : List (Nat × Page)) (s : State) (o : Host.Outcome State Fault Refusal) : Prop :=
  s.seqr.work = [] → s.log.retired.length < 32 → s.log.ahead = .none → s.seqr.retiredNow = none →
    ∃ q : Sequencer, q.part = .ready ∧ q.own = s.seqr.own ∧ o = .next { freed store s with
      seqr := q,
      log := logMounted (.fault .directoryErase) s,
      jrnl := { s.jrnl with
        cur := s.seqr.leftCur, nextPage := s.seqr.leftNext, state := .idle, jobs := [], usable := false },
      raised := { s.raised with events := s.raised.events
        ++ [(.sequencer, .started s.seqr.cause), (.log, .storeFault .directoryErase)] } }

/-- The part with the Sequencer's place in the Directory Area and its compaction as they stand. -/
def mountAt (store : List (Nat × Page)) (comp : Compaction) (cur : Option Nat) (next : Nat) (s : State) : State :=
  { freed store s with seqr := { s.seqr with comp := comp, dirCur := cur, dirNext := next } }

theorem mount_fails (hcurrent : s.mgmt.current = none) (comp : Compaction) (cur : Option Nat) (next : Nat) :
    MountFails store s (.next (settle (nextWork (mountDirFault (mountAt store comp cur next s))))) := by
  intro hwork hroom hahead hnow
  let w : State := mountDirFault (mountAt store comp cur next s)
  have hcond : mountCondition w = .fault .directoryErase := (if_neg (Nat.not_le.mpr hroom)).trans (if_pos rfl)
  have hready := (nextWork_none (s := w) hwork).trans (beginPhase5_faults (s := w) hcond hahead hnow)
  refine ⟨seqrReady { w.seqr with phase := 7 }, rfl, rfl, ?_⟩
  rw [hready, settle_quiet]
  · simp only [alsoRaised, State.setRaised, partReady, List.append_assoc]
    rfl
  · intro c hc
    exact absurd (hc.symm.trans hcurrent) nofun
  · exact .inr (.inl rfl)

section Results

variable (hpart : s.seqr.part = .mounting) (hrun : s.arr.running = some x) (hwho : x.who = .sequencer)
  (halone : ArrayAlone s.arr) (hcurrent : s.mgmt.current = none) (hfault : s.seqr.dirFault = false)
  (hseq : s.log.nextPageSeq < 281474976710655)
include hpart hrun hwho halone hcurrent hfault hseq

theorem lastBlock_completes (hcur : s.seqr.dirCur = some d) (hd : d ≤ 1) (hfind : findEntry s.dir num = some e)
    (hscan : s.seqr.scan = .lastBlock num b 15) (hreq : x.req = .read b 15) (hnext : s.seqr.dirNext ≤ 15) :
    exec .readPageEnd s = .next (keptHanded num d s.seqr.dirNext
      (interrupted (interruptedLast e (lookup (tailNoted b s.seqr.tails (pageAt s.store b 15)) b)) e)
      (recordingCompleted num b e s)) := by
  let t : State := recordingCompleted num b e s
  have hcompleted := findEntry_changeEntry (f := fun f => { interrupted (interruptedLast e
    (lookup (tailNoted b s.seqr.tails (pageAt s.store b 15)) b)) f with blocks := e.blocks }) (fun _ => rfl) hfind
  have hentry := journalEntry_appends (s := t) hpart rfl halone hfault hcur hd hnext hseq hcompleted
  have hdone : mountReadDone (readOf (pageAt s.store b 15)) (freed s.store s) = (match journalEntry num t with
      | some s3 => s3
      | none => nextWork t) := by
    rw [mountReadDone_lastBlock (s := freed s.store s) hscan, mountLastBlock, noteTail_readOf]
    refine (if_neg (by decide)).trans ?_
    change (match findEntry s.dir num with | none => _ | some e => _) = _
    rw [hfind]
    rfl
  rw [exec_mountRead hrun hwho hreq halone, readPage_eq, hdone, hentry]
  exact congrArg _ (settle_mounting hpart hcurrent)

/-! ### The KEPT snapshot's program (R188) -/

section Appends

variable {h : PageHeader} {k : PageData} {q : ProgramEnd}
  (hreq : x.req = .program b s.seqr.dirNext h k) (hscan : s.seqr.scan = .append num) (hlast : s.seqr.dirNext ≤ 15)
include hreq hscan hlast

omit hpart hcurrent hfault hseq hlast in
theorem exec_mountAppend {ok : Bool} (hpage : programPage s.store b s.seqr.dirNext h k q = (store, ok)) :
    exec (.programPageEnd q) s = .next (settle (mountAppended num ok (freed store s))) := by
  rw [exec_mountProgram hrun hwho hreq halone hpage, mountProgramDone_append (s := freed store s) hscan]

/-- The part once a program of the KEPT snapshot has ended. -/
def appendOver (store : List (Nat × Page)) (s : State) : State :=
  { freed store s with seqr := { s.seqr with dirNext := s.seqr.dirNext + 1 } }

omit hpart hcurrent hfault hseq in
theorem exec_mountAppend_fails (hq : q ≠ .committed) : exec (.programPageEnd q) s
    = .next (settle (journalAgain num (appendOver (programPage s.store b s.seqr.dirNext h k q).1 s))) := by
  obtain ⟨hfails, -⟩ := programPage_fails (b := b) (h := h) (d := k) s.store hq hlast
  rw [exec_mountAppend hrun hwho halone hreq hscan (programPage_pair hfails)]
  rfl

theorem append_tries_again (hcur : s.seqr.dirCur = some d) (hd : d ≤ 1) (hfind : findEntry s.dir num = some e)
    (hq : q ≠ .committed) (hleft : s.seqr.dirNext < 15) : exec (.programPageEnd q) s
      = .next (keptHanded num d (s.seqr.dirNext + 1) e (appendOver (programPage s.store b s.seqr.dirNext h k q).1 s)) := by
  rw [exec_mountAppend_fails hrun hwho halone hreq hscan hlast hq]
  generalize (programPage s.store b s.seqr.dirNext h k q).1 = store
  have hentry := journalEntry_appends (s := appendOver store s) hpart rfl halone hfault hcur hd hleft hseq hfind
  rw [journalAgain_some hentry]
  exact congrArg _ (settle_mounting hpart hcurrent)

omit hseq in
theorem append_compacts (hq : q ≠ .committed) (hfull : s.seqr.dirNext = 15) (hbegun : s.seqr.comp.begun < 3) :
    exec (.programPageEnd q) s
      = .next (mountCompactBegun num (appendOver (programPage s.store b s.seqr.dirNext h k q).1 s)) := by
  rw [exec_mountAppend_fails hrun hwho halone hreq hscan hlast hq]
  generalize (programPage s.store b s.seqr.dirNext h k q).1 = store
  have hnext : 15 < (appendOver store s).seqr.dirNext := by change 15 < s.seqr.dirNext + 1; omega
  have hentry := journalEntry_compacts (s := appendOver store s) (num := num) hpart rfl halone hfault hnext hbegun
  rw [journalAgain_some hentry]
  exact congrArg _ (settle_mounting hpart hcurrent)

/-- The part once the KEPT snapshot has committed. -/
def keptJournaled (num : Nat) (store : List (Nat × Page)) (s : State) : State := { appendOver store s with
  dir := { s.dir with entries := s.dir.entries.map (fun f => if f.num = num then { f with journaled := .kept } else f) } }

omit hpart hcurrent hfault hseq hlast in
theorem append_commits (hpage : pageAt s.store b s.seqr.dirNext = none) (hwork : s.seqr.work = []) :
    exec (.programPageEnd .committed) s = .next (settle (beginPhase5
      (keptJournaled num (setPage s.store b s.seqr.dirNext (some (writtenPage h k))) s))) := by
  rw [exec_mountAppend hrun hwho halone hreq hscan (programPage_committed hpage h k)]
  generalize setPage s.store b s.seqr.dirNext (some (writtenPage h k)) = store
  have hdone : mountAppended num true (freed store s) = beginPhase5 (keptJournaled num store s) := by
    rw [← nextWork_none (s := keptJournaled num store s) hwork]
    rfl
  rw [hdone]

omit hpart hfault hseq in
theorem append_fails_mount (hq : q ≠ .committed) (hfull : s.seqr.dirNext = 15) (hbegun : 3 ≤ s.seqr.comp.begun) :
    MountFails (programPage s.store b s.seqr.dirNext h k q).1 s (exec (.programPageEnd q) s) := by
  rw [exec_mountAppend_fails hrun hwho halone hreq hscan hlast hq]
  generalize (programPage s.store b s.seqr.dirNext h k q).1 = store
  have hnext : 15 < (appendOver store s).seqr.dirNext := by change 15 < s.seqr.dirNext + 1; omega
  rw [journalAgain_none (journalEntry_spent (s := appendOver store s) hnext hbegun)]
  exact mount_fails hcurrent s.seqr.comp s.seqr.dirCur (s.seqr.dirNext + 1)

end Appends

/-! ### The mount's compaction (R188, R115 to R117) -/

section Compactions

variable (htarget : s.seqr.comp.target ≤ 1)

section Erases

variable {q : EraseEnd} (hreq : x.req = .erase s.seqr.comp.target) (hscan : s.seqr.scan = .compErase num)
include hreq hscan

omit hpart hcurrent hfault hseq in
theorem exec_mountCompErase : exec (.eraseBlockEnd q) s = .next (settle (mountCompErased num (decide (q = .erased))
    (freed (eraseBlock s.store s.seqr.comp.target q).1 s))) := by
  rw [exec_mountErase hrun hwho hreq halone]
  generalize (eraseBlock s.store s.seqr.comp.target q).1 = store
  rw [mountEraseDone_compErase (s := freed store s) hscan]

omit hfault in
include htarget in
theorem mountTarget_erased (hset : CompactionSet s.dir set) (hrecord : SetRecord s set 1 r) :
    exec (.eraseBlockEnd .erased) s = .next (mountCopyHanded num r (mountAt (eraseBlock s.store s.seqr.comp.target .erased).1
      { s.seqr.comp with page := 0, set := set, pos := 1 } s.seqr.dirCur s.seqr.dirNext s)) := by
  rw [exec_mountCompErase hrun hwho halone hreq hscan]
  generalize (eraseBlock s.store s.seqr.comp.target .erased).1 = store
  let u : State := mountAt store { s.seqr.comp with page := 0, set := set, pos := 1 } s.seqr.dirCur s.seqr.dirNext s
  have hcopy : mountCompErased num true (freed store s) = mountCopyHanded num r u := by
    rw [← mountCopy_handed (s := u) hpart rfl halone htarget (Nat.zero_le 15) hseq hrecord]
    exact congrArg (fun l => mountCopy num
      (mountAt store { s.seqr.comp with page := 0, set := l, pos := 1 } s.seqr.dirCur s.seqr.dirNext s)) (copySet_of hset)
  exact congrArg _ ((congrArg settle hcopy).trans (settle_mounting hpart hcurrent))

omit hpart hfault hseq in
theorem mountTarget_lost (hq : q ≠ .erased) :
    MountFails (eraseBlock s.store s.seqr.comp.target q).1 s (exec (.eraseBlockEnd q) s) := by
  rw [exec_mountCompErase hrun hwho halone hreq hscan, decide_eq_false hq]
  generalize (eraseBlock s.store s.seqr.comp.target q).1 = store
  exact mount_fails hcurrent s.seqr.comp s.seqr.dirCur s.seqr.dirNext

end Erases

section Copies

variable {h : PageHeader} {k : PageData} {q : ProgramEnd}
  (hreq : x.req = .program s.seqr.comp.target s.seqr.comp.page h k) (hscan : s.seqr.scan = .compCopy num)
include hreq hscan

omit hpart hcurrent hfault hseq in
theorem exec_mountCopy {ok : Bool} (hpage : programPage s.store s.seqr.comp.target s.seqr.comp.page h k q = (store, ok)) :
    exec (.programPageEnd q) s = .next (settle (mountCopied num ok (freed store s))) := by
  rw [exec_mountProgram hrun hwho hreq halone hpage, mountProgramDone_compCopy (s := freed store s) hscan]

/-- The part once the set stands at a position behind the page in hand. -/
def copyBehind (store : List (Nat × Page)) (pos : Nat) (s : State) : State :=
  mountAt store { s.seqr.comp with page := s.seqr.comp.page + 1, pos := pos } s.seqr.dirCur s.seqr.dirNext s

/-- How a page of the set goes on: at the next page, or with another compaction when none is left. -/
def copyOn (num pos : Nat) (store : List (Nat × Page)) (s : State) : State :=
  if s.seqr.comp.page + 1 ≤ 15 then mountCopy num (copyBehind store pos s) else mountCompactAgain num (copyBehind store pos s)

omit hpart hrun hwho halone hcurrent hfault hseq hreq hscan in
theorem mountCopied_failed : mountCopied num false (freed store s) = copyOn num s.seqr.comp.pos store s := rfl

omit hpart hrun hwho halone hcurrent hfault hseq hreq hscan in
theorem mountCopied_next (hpos : s.seqr.comp.pos ≤ s.seqr.comp.set.length) :
    mountCopied num true (freed store s) = copyOn num (s.seqr.comp.pos + 1) store s := by
  rw [mountCopied, if_neg (by decide)]
  exact if_pos hpos

omit hpart hrun hwho halone hcurrent hfault hseq hreq hscan in
theorem mountCopied_last (hpos : s.seqr.comp.pos = s.seqr.comp.set.length + 1) : mountCopied num true (freed store s)
    = journalAgain num (mountAt store s.seqr.comp (some s.seqr.comp.target) (s.seqr.comp.page + 1) s) := by
  rw [mountCopied, if_neg (by decide)]
  exact if_neg (by change ¬ s.seqr.comp.pos ≤ s.seqr.comp.set.length; omega)

variable {pos : Nat}

omit hrun hwho hfault hreq hscan in
include htarget in
theorem copyOn_copies (hrecord : SetRecord s s.seqr.comp.set pos r) (hleft : s.seqr.comp.page < 15) :
    settle (copyOn num pos store s) = mountCopyHanded num r (copyBehind store pos s) := by
  have hcopy := mountCopy_handed (s := copyBehind store pos s) (num := num) hpart rfl halone htarget hleft hseq hrecord
  rw [copyOn, if_pos (Nat.succ_le_of_lt hleft), hcopy]
  exact settle_mounting hpart hcurrent

omit hrun hwho hfault hreq hscan hseq in
theorem copyOn_begins (hlast : s.seqr.comp.page = 15) (hbegun : s.seqr.comp.begun < 3) :
    settle (copyOn num pos store s) = mountCompactBegun num (copyBehind store pos s) := by
  have hfull : ¬ s.seqr.comp.page + 1 ≤ 15 := by omega
  have hagain : mountCompactAgain num (copyBehind store pos s) = mountCompactBegun num (copyBehind store pos s) :=
    (if_pos hbegun).trans (mountCompact_begun (s := copyBehind store pos s) hpart rfl halone)
  rw [copyOn, if_neg hfull, hagain]
  exact settle_mounting hpart hcurrent

omit hpart hrun hwho halone hfault hreq hscan hseq in
theorem copyOn_fails (hlast : s.seqr.comp.page = 15) (hbegun : 3 ≤ s.seqr.comp.begun) :
    MountFails store s (.next (settle (copyOn num pos store s))) := by
  have hfull : ¬ s.seqr.comp.page + 1 ≤ 15 := by omega
  have hagain : mountCompactAgain num (copyBehind store pos s) = nextWork (mountDirFault (copyBehind store pos s)) :=
    if_neg (Nat.not_lt.mpr hbegun)
  rw [copyOn, if_neg hfull, hagain]
  exact mount_fails hcurrent _ s.seqr.dirCur s.seqr.dirNext

/-- The part once the target has become current. -/
def mountSwitched (store : List (Nat × Page)) (s : State) : State :=
  mountAt store s.seqr.comp (some s.seqr.comp.target) (s.seqr.comp.page + 1) s

omit hrun hwho hreq hscan in
include htarget in
theorem switched_appends (hfind : findEntry s.dir num = some e) (hleft : s.seqr.comp.page < 15) :
    settle (journalAgain num (mountSwitched store s))
      = keptHanded num s.seqr.comp.target (s.seqr.comp.page + 1) e (mountSwitched store s) := by
  have hentry := journalEntry_appends (s := mountSwitched store s) hpart rfl halone hfault rfl htarget hleft hseq hfind
  rw [journalAgain_some hentry]
  exact settle_mounting hpart hcurrent

omit hrun hwho hseq hreq hscan in
theorem switched_compacts (hlast : s.seqr.comp.page = 15) (hbegun : s.seqr.comp.begun < 3) :
    settle (journalAgain num (mountSwitched store s)) = mountCompactBegun num (mountSwitched store s) := by
  have hnext : 15 < (mountSwitched store s).seqr.dirNext := by change 15 < s.seqr.comp.page + 1; omega
  have hentry := journalEntry_compacts (s := mountSwitched store s) (num := num) hpart rfl halone hfault hnext hbegun
  rw [journalAgain_some hentry]
  exact settle_mounting hpart hcurrent

omit hpart hrun hwho halone hfault hseq hreq hscan in
theorem switched_fails (hlast : s.seqr.comp.page = 15) (hbegun : 3 ≤ s.seqr.comp.begun) :
    MountFails store s (.next (settle (journalAgain num (mountSwitched store s)))) := by
  have hnext : 15 < (mountSwitched store s).seqr.dirNext := by change 15 < s.seqr.comp.page + 1; omega
  rw [journalAgain_none (journalEntry_spent (s := mountSwitched store s) hnext hbegun)]
  exact mount_fails hcurrent _ _ _

end Copies

end Compactions

end Results

end Sys2Proof.Machine
end

section
/-! PROOF. Interrupted recordings at the mount: the statement assembled (R187 to R190). -/

set_option Elab.async false

namespace Sys2Proof.Machine

variable {s : State} {b d num : Nat} {x : Running} {store : List (Nat × Page)} {e : Entry} {h : PageHeader} {k : PageData}

/-! ### The last recording's commit (R188 to R190) -/

section Commits

variable (hrun : s.arr.running = some x) (hwho : x.who = .sequencer) (halone : ArrayAlone s.arr)
  (hfault : s.seqr.dirFault = false) (hscan : s.seqr.scan = .append num)
  (hreq : x.req = .program b s.seqr.dirNext h k) (hpage : pageAt s.store b s.seqr.dirNext = none) (hwork : s.seqr.work = [])
include hrun hwho halone hfault hscan hreq hpage hwork

theorem last_append_erases {c : Nat} (hpart : s.seqr.part = .mounting) (hcurrent : s.mgmt.current = none)
    (hroom : s.log.retired.length < 32)
    (hcandidate : candidate (logMounted .normal (keptJournaled num store s)) = some c) (hc : c ≤ 1023)
    (hstore : setPage s.store b s.seqr.dirNext (some (writtenPage h k)) = store) :
    exec (.programPageEnd .committed) s = .next (eraseHanded .sequencer c { keptJournaled num store s with
      seqr := { s.seqr with dirNext := s.seqr.dirNext + 1, phase := 6, scan := .firstErase c },
      log := chosenLog (logMounted .normal (keptJournaled num store s)) c }) := by
  have hcond : mountCondition (keptJournaled num store s) = .normal :=
    (if_neg (Nat.not_le.mpr hroom)).trans (if_neg (ne_true_of_eq_false hfault))
  rw [append_commits hrun hwho halone hreq hscan hpage hwork, hstore,
    beginPhase5_erases (s := keptJournaled num store s) hpart rfl halone hcond hcandidate hc]
  exact congrArg _ (settle_mounting hpart hcurrent)

theorem last_append_faults (hcurrent : s.mgmt.current = none) (hcur : s.seqr.dirCur = some d)
    (hfull : 32 ≤ s.log.retired.length) (hahead : s.log.ahead = .none) (hnow : s.seqr.retiredNow = none)
    (hstore : setPage s.store b s.seqr.dirNext (some (writtenPage h k)) = store) :
    ∃ q : Sequencer, q.part = .ready ∧ q.own = s.seqr.own
      ∧ exec (.programPageEnd .committed) s = .next { keptJournaled num store s with
        seqr := q, log := logMounted (.fault .retiredLimit) (keptJournaled num store s),
        jrnl := { s.jrnl with cur := some d, nextPage := s.seqr.dirNext + 1, state := .idle, jobs := [], usable := true },
        raised := { s.raised with events := s.raised.events
          ++ [(.sequencer, .started s.seqr.cause), (.log, .storeFault .retiredLimit)] } } := by
  let w : State := keptJournaled num store s
  have hready := beginPhase5_faults (s := w) (cause := .retiredLimit) (if_pos hfull) hahead hnow
  refine ⟨seqrReady { w.seqr with phase := 7 }, rfl, rfl, ?_⟩
  rw [append_commits hrun hwho halone hreq hscan hpage hwork, hstore, hready, settle_quiet]
  · have husable : (!s.seqr.dirFault) = true := by rw [hfault]; rfl
    simp only [alsoRaised, State.setRaised, partReady, List.append_assoc]
    refine congrArg Host.Outcome.next ?_
    rw [← husable, ← hcur]
    rfl
  · intro c hc
    exact absurd (hc.symm.trans hcurrent) nofun
  · exact .inr (.inl rfl)

end Commits

/-- Settles O36: the extension, the holds, the snapshot's append and the compaction, each by its own lemmas. -/
theorem interruptedRecordingsAreCompleted : Obligations.InterruptedRecordingsAreCompleted := by
  unfold Obligations.InterruptedRecordingsAreCompleted
  refine ⟨fun e s hwf => ⟨extension s e, rfl, extension_nodup hwf, fun c => mem_extension hwf, extension_ascending hwf⟩,
    fun s hnodup hzero b => computeHolds_entry hnodup hzero b, ?_, ?_⟩
  case refine_1 =>
    intro num d x e s hpart hrun hwho halone hcurrent hfault hcur hd hfind hseq free append
    refine ⟨fun b hscan hreq hnext => lastBlock_completes hpart hrun hwho halone hcurrent hfault hseq hcur hd hfind hscan hreq hnext,
      fun b h j hscan hreq hlast hpage => ⟨fun q hq hleft => ⟨_, (programPage_fails s.store hq hlast).2,
        append_tries_again hpart hrun hwho halone hcurrent hfault hseq hreq hscan hlast hcur hd hfind hq hleft⟩,
        fun hwork => ?_⟩⟩
    intro entries held written
    refine ⟨fun c hroom hcandidate _ hc => ?_, fun hfull hahead hnow _ => ?_⟩
    · have hheld : held = logMounted .normal (keptJournaled num written.store s) := by
        simp only [held, if_neg (Nat.not_le.mpr hroom)]
        rfl
      rw [hheld] at hcandidate
      have hhistory : held.history = s.log.history := by
        rw [hheld, logMounted, logHeld_eq]
        rfl
      rw [← hhistory, hheld]
      exact last_append_erases hrun hwho halone hfault hscan hreq hpage hwork hpart hcurrent hroom hcandidate hc rfl
    · have hheld : held = logMounted (.fault .retiredLimit) (keptJournaled num written.store s) := by
        simp only [held, if_pos hfull]
        rfl
      rw [hheld]
      exact last_append_faults hrun hwho halone hfault hscan hreq hpage hwork hcurrent hcur hfull hahead hnow rfl
  case refine_2 =>
    intro num x s hpart hrun hwho halone hcurrent hfault hseq c free begin copy fails
    have hends : ∀ {store o}, MountFails store s o → fails store o := id
    refine ⟨fun b h j q hscan hreq hfull hq => ?_, fun target hscan htarget hle hreq => ?_,
      fun target h g hscan htarget hle hp hreq hpage => ?_⟩
    case refine_1 =>
      have hat : x.req = .program b s.seqr.dirNext h (.journal j) := by rw [hfull, hreq]
      have hbehind (store : List (Nat × Page)) : appendOver store s = free store { s.seqr with dirNext := 16 } := by
        rw [appendOver, hfull]
        rfl
      refine ⟨_, (programPage_fails (b := b) (h := h) (d := .journal j) s.store hq (Nat.le_refl 15)).2, fun hbegun => ?_,
        fun hbegun => ?_⟩
      · rw [append_compacts hpart hrun hwho halone hcurrent hfault hat hscan (Nat.le_of_eq hfull) hq hfull hbegun, hbehind,
          hfull]
        rfl
      · have hfails := append_fails_mount hrun hwho halone hcurrent hat hscan (Nat.le_of_eq hfull) hq hfull hbegun
        rw [hfull] at hfails
        exact hends hfails
    case refine_2 =>
      subst htarget
      refine ⟨fun set r hset hrecord => ?_, fun q hq => ⟨_, hends (mountTarget_lost hrun hwho halone hcurrent hreq hscan hq),
        pageAt_eraseBlock_other _ q⟩⟩
      have hblank := fun hstore : StoreWf s => pageAt_erased hstore s.seqr.comp.target
      have hexec := mountTarget_erased hpart hrun hwho halone hcurrent hseq hle hreq hscan hset hrecord
      generalize (eraseBlock s.store s.seqr.comp.target .erased).1 = store at hblank hexec
      exact ⟨store, hexec, hblank⟩
    case refine_3 =>
      subst htarget
      intro written behind switched
      have hover : exec (.programPageEnd .committed) s = .next (settle (mountCopied num true (freed written s))) :=
        exec_mountCopy hrun hwho halone hreq hscan (programPage_committed hpage h (.journal g))
      refine ⟨fun hpos => ?_, fun hpos => ?_, fun q hq => ⟨_, (programPage_fails (h := h) (d := .journal g) s.store hq hp).2, ?_⟩⟩
      · rw [hover, mountCopied_next hpos]
        exact ⟨fun r hrecord hleft => congrArg _ (copyOn_copies hpart halone hcurrent hseq hle hrecord hleft),
          fun hlast hbegun => congrArg _ (copyOn_begins hpart halone hcurrent hlast hbegun),
          fun hlast hbegun => hends (copyOn_fails hcurrent hlast hbegun)⟩
      · rw [hover, mountCopied_last hpos]
        exact ⟨fun e hfind hleft => congrArg _ (switched_appends hpart halone hcurrent hfault hseq hle hfind hleft),
          fun hlast hbegun => congrArg _ (switched_compacts hpart halone hcurrent hfault hlast hbegun),
          fun hlast hbegun => hends (switched_fails hcurrent hlast hbegun)⟩
      · obtain ⟨hfails, -⟩ := programPage_fails (b := s.seqr.comp.target) (h := h) (d := .journal g) s.store hq hp
        rw [exec_mountCopy hrun hwho halone hreq hscan (programPage_pair hfails), mountCopied_failed]
        exact ⟨fun r hrecord hleft => congrArg _ (copyOn_copies hpart halone hcurrent hseq hle hrecord hleft),
          fun hlast hbegun => congrArg _ (copyOn_begins hpart halone hcurrent hlast hbegun),
          fun hlast hbegun => hends (copyOn_fails hcurrent hlast hbegun)⟩

end Sys2Proof.Machine
end

section
/-! PROOF. The Block Table, the History List, the write position and erase-ahead agree through every update of the Log
Manager (04, R61, R62, R66 to R73). -/

set_option Elab.async false

namespace Sys2Proof.Machine

variable {l m : LogManager} {a b c : Nat}

/-! ### The Block Table -/

theorem blockEntry_setBlockEntry_self (hl : sparseWf l.table = true) (e : BlockEntry) :
    blockEntry (setBlockEntry l b e) b = e := by
  simp only [blockEntry, setBlockEntry]
  by_cases he : e = BlockEntry.initial
  · rw [if_pos he, lookup_putAt_none _ _ hl, he]
    rfl
  · rw [if_neg he, lookup_putAt_some]
    rfl

/-- The entry of a block after one entry has been replaced, in a table in canonical form. -/
theorem blockEntry_setBlockEntry (hl : sparseWf l.table = true) (e : BlockEntry) :
    blockEntry (setBlockEntry l b e) c = if c = b then e else blockEntry l c := by
  split
  · rename_i hc
    rw [hc, blockEntry_setBlockEntry_self hl]
  · rename_i hc
    exact blockEntry_setBlockEntry_ne hc

theorem setBlockEntry_wf (hl : sparseWf l.table = true) (e : BlockEntry) : sparseWf (setBlockEntry l b e).table = true :=
  sparseWf_putAt _ _ _ hl

/-- What the Log Manager holds of the ring beside the Block Table. -/
structure RingValues where
  history : List Nat
  active : Option Nat
  ahead : EraseAhead
  ringPos : Nat
  nextPage : Nat
  failing : Bool

/-- What a Log Manager holds of the ring. -/
def ringOf (l : LogManager) : RingValues :=
  { history := l.history, active := l.active, ahead := l.ahead, ringPos := l.ringPos, nextPage := l.nextPage,
    failing := l.failing }

/-- Two Log Managers whose tables give the same entries but for holds, and that hold the same of the ring. -/
structure SameRing (l m : LogManager) : Prop where
  table : sparseWf m.table = true
  state : ∀ b, (blockEntry m b).state = (blockEntry l b).state
  firstSeq : ∀ b, (blockEntry m b).firstSeq = (blockEntry l b).firstSeq
  firstPage : ∀ b, (blockEntry m b).firstPage = (blockEntry l b).firstPage
  values : ringOf m = ringOf l

theorem SameRing.firstPageOf (h : SameRing l m) (b : Nat) : firstPageOf m b = firstPageOf l b := by
  rw [Machine.firstPageOf, Machine.firstPageOf, h.firstPage]

/-- Holds, and a risen next page sequence, leave the ring as it is. -/
theorem RingWf.same (h : RingWf l) (hm : SameRing l m) (hrisen : l.nextPageSeq ≤ m.nextPageSeq)
    (hlimit : m.nextPageSeq ≤ sequenceMax) : RingWf m := by
  obtain ⟨htable, hstate, hfirstSeq, hfirstPage, hvalues⟩ := hm
  have hfirst : ∀ b, Machine.firstPageOf m b = Machine.firstPageOf l b := fun b => by
    rw [Machine.firstPageOf, Machine.firstPageOf, hfirstPage]
  simp only [ringOf, RingValues.mk.injEq] at hvalues
  obtain ⟨hhistory, hactive, hahead, hringPos, hnextPage, hfailing⟩ := hvalues
  exact {
    table := htable
    filled := by simpa only [hhistory, hstate] using h.filled
    once := hhistory ▸ h.once
    rising := by simpa only [hhistory, hfirst] using h.rising
    active := by simpa only [hactive, hstate] using h.active
    erased := by simpa only [hahead, hstate] using h.erased
    erasing := by simpa only [hahead, hstate] using h.erasing
    area := by simpa only [hstate] using h.area
    ring := hringPos ▸ h.ring
    begun := by simpa only [hfirstPage, hfirstSeq] using h.begun
    clear := by simpa only [hstate, hfirstSeq] using h.clear
    written := by simpa only [hstate, hactive, hfailing, hnextPage, hfirstSeq] using h.written
    newest := by simpa only [hactive, hfirstSeq, hhistory, hfirst] using h.newest
    drawn := fun b hb => by
      rw [hstate, hactive] at hb
      rw [hfirst]
      exact Nat.le_trans (h.drawn b hb) hrisen
    limit := hlimit }

/-- A Log Manager that differs in nothing of the ring. -/
theorem SameRing.of (hl : sparseWf l.table = true) (htable : m.table = l.table) (hvalues : ringOf m = ringOf l) :
    SameRing l m := by
  have hentry : ∀ b, blockEntry m b = blockEntry l b := fun b => by rw [blockEntry, htable, blockEntry]
  exact ⟨htable ▸ hl, fun b => by rw [hentry], fun b => by rw [hentry], fun b => by rw [hentry], hvalues⟩

/-- One entry changed in its hold alone. -/
theorem SameRing.setHold (hl : sparseWf l.table = true) (b n : Nat) :
    SameRing l (setBlockEntry l b { blockEntry l b with hold := n }) := by
  have hentry := fun c => blockEntry_setBlockEntry (b := b) (c := c) hl { blockEntry l b with hold := n }
  refine ⟨setBlockEntry_wf hl _, fun c => ?_, fun c => ?_, fun c => ?_, rfl⟩ <;> rw [hentry] <;> split <;> simp_all

theorem SameRing.trans {k : LogManager} (h : SameRing l m) (h' : SameRing m k) : SameRing l k :=
  ⟨h'.table, fun b => (h'.state b).trans (h.state b), fun b => (h'.firstSeq b).trans (h.firstSeq b),
    fun b => (h'.firstPage b).trans (h.firstPage b), h'.values.trans h.values⟩

/-! ### One block changes its entry -/

/-- `m` is `l` with the entry of one block replaced and other values of the ring. -/
structure RingStep (l : LogManager) (b : Nat) (e : BlockEntry) (v : RingValues) (m : LogManager) : Prop where
  table : sparseWf m.table = true
  entry : ∀ c, blockEntry m c = if c = b then e else blockEntry l c
  values : ringOf m = v
  pageSeq : m.nextPageSeq = l.nextPageSeq

theorem RingStep.of (hl : sparseWf l.table = true) {e : BlockEntry} (htable : m.table = (setBlockEntry l b e).table)
    (hpageSeq : m.nextPageSeq = l.nextPageSeq) : RingStep l b e (ringOf m) m where
  table := htable ▸ setBlockEntry_wf hl e
  entry c := by rw [← blockEntry_setBlockEntry hl e, blockEntry, htable, blockEntry]
  values := rfl
  pageSeq := hpageSeq

variable {e : BlockEntry}

theorem RingStep.firstPageOf {v : RingValues} (hm : RingStep l b e v m) (c : Nat) :
    firstPageOf m c = if c = b then e.firstPage.getD 0 else firstPageOf l c := by
  rw [Machine.firstPageOf, hm.entry, Machine.firstPageOf]
  split <;> rfl

/-- A replacement that leaves a block's first page leaves that of every block. -/
theorem RingStep.firstPageOf_same {v : RingValues} (hm : RingStep l b e v m)
    (he : e.firstPage = (blockEntry l b).firstPage) (c : Nat) : Machine.firstPageOf m c = Machine.firstPageOf l c := by
  rw [hm.firstPageOf]
  split
  · rename_i hc
    rw [hc, he, Machine.firstPageOf]
  · rfl

/-- A block chosen for erase leaves the History List and is ERASING (R72). -/
theorem RingWf.chosen (h : RingWf l) (hahead : l.ahead = .none) (harea : isLogBlock b = true)
    (hstate : (blockEntry l b).state = .filled ∨ (blockEntry l b).state = .stale)
    (hm : RingStep l b e { ringOf l with
      ahead := .underWay b, history := l.history.filter (fun c => decide (c ≠ b)) } m)
    (he : e.state = .erasing ∧ e.firstSeq = none ∧ e.firstPage = none) : RingWf m := by
  have hfirst := hm.firstPageOf
  obtain ⟨htable, hentry, hvalues, hpageSeq⟩ := hm
  simp only [ringOf, RingValues.mk.injEq] at hvalues
  obtain ⟨hhistory, hactive, hahead', hringPos, hnextPage, hfailing⟩ := hvalues
  have hmem : ∀ c, c ∈ m.history ↔ c ∈ l.history ∧ c ≠ b := by simp [hhistory]
  have hnotActive : l.active ≠ some b := by grind [h.active b]
  constructor
  case table => exact htable
  case filled => grind [h.filled]
  case once => exact hhistory ▸ h.once.filter _
  case rising =>
    rw [hhistory]
    refine (h.rising.filter _).imp_of_mem (fun {c d} hc hd hle => ?_)
    rw [← hhistory] at hc hd
    rw [hfirst, hfirst, if_neg ((hmem c).mp hc).2, if_neg ((hmem d).mp hd).2]
    exact hle
  case active => grind [h.active]
  case erased => grind [h.erased]
  case erasing => grind [h.erasing]
  case area => grind [h.area]
  case ring => exact hringPos ▸ h.ring
  case begun => grind [h.begun]
  case clear => grind [h.clear]
  case written => intro c; grind [h.written c]
  case newest =>
    intro a ha hbegun c hc
    have hnew := h.newest a
    rw [hfirst a, hfirst c]
    grind
  case drawn =>
    intro c hc
    have hold := h.drawn c
    rw [hfirst c]
    grind
  case limit => exact hpageSeq ▸ h.limit

/-- The block under erase becomes ERASED and prepared, or RETIRED (R73, R76). -/
theorem RingWf.eraseEnded {x : EraseAhead} (h : RingWf l) (hahead : l.ahead = .underWay b)
    (hm : RingStep l b e { ringOf l with ahead := x } m)
    (he : e.state = .erased ∧ x = .prepared b ∨ e.state = .retired ∧ x = .none)
    (hfirsts : e.firstSeq = (blockEntry l b).firstSeq ∧ e.firstPage = (blockEntry l b).firstPage) : RingWf m := by
  have hsame := hm.firstPageOf_same hfirsts.2
  obtain ⟨htable, hentry, hvalues, hpageSeq⟩ := hm
  simp only [ringOf, RingValues.mk.injEq] at hvalues
  obtain ⟨hhistory, hactive, hahead', hringPos, hnextPage, hfailing⟩ := hvalues
  have herasing : (blockEntry l b).state = .erasing := (h.erasing b).mp hahead
  constructor
  case table => exact htable
  case filled => grind [h.filled]
  case once => exact hhistory ▸ h.once
  case rising => simpa only [hhistory, hsame] using h.rising
  case active => grind [h.active]
  case erased => grind [h.erased]
  case erasing => grind [h.erasing]
  case area => grind [h.area]
  case ring => exact hringPos ▸ h.ring
  case begun => grind [h.begun]
  case clear => grind [h.clear]
  case written => intro c; grind [h.written c]
  case newest =>
    intro a ha hbegun c hc
    have hnew := h.newest a
    rw [hsame a, hsame c]
    grind
  case drawn =>
    intro c hc
    have hold := h.drawn c
    rw [hsame c]
    grind
  case limit => exact hpageSeq ▸ h.limit

/-- The active block is left, FILLED at the tail of the History List or RETIRED (R71, R75). -/
theorem RingWf.left {x : List Nat} {f : Bool} (h : RingWf l) (hactive : l.active = some b)
    (hm : RingStep l b e { ringOf l with active := none, nextPage := 16, history := x, failing := f } m)
    (he : e.state = .filled ∧ x = l.history ++ [b] ∧ l.failing = false ∧ l.nextPage ≠ 0
      ∨ e.state = .retired ∧ x = l.history)
    (hfirsts : e.firstSeq = (blockEntry l b).firstSeq ∧ e.firstPage = (blockEntry l b).firstPage) :
    RingWf m := by
  have hsame := hm.firstPageOf_same hfirsts.2
  obtain ⟨htable, hentry, hvalues, hpageSeq⟩ := hm
  simp only [ringOf, RingValues.mk.injEq] at hvalues
  obtain ⟨hhistory, hactive', hahead, hringPos, hnextPage, hfailing⟩ := hvalues
  have hstate : (blockEntry l b).state = .active := (h.active b).mp hactive
  have hnew : b ∉ l.history := by grind [h.filled]
  constructor
  case table => exact htable
  case filled => grind [h.filled]
  case once =>
    rcases he with ⟨-, rfl, -, -⟩ | ⟨-, rfl⟩
    · rw [hhistory, List.nodup_append]
      exact ⟨h.once, List.pairwise_singleton _ b, by grind⟩
    · exact hhistory ▸ h.once
  case rising =>
    simp only [hsame]
    rcases he with ⟨-, rfl, hwell, hpage⟩ | ⟨-, rfl⟩
    · rw [hhistory, List.pairwise_append]
      refine ⟨h.rising, List.pairwise_singleton _ _, fun c hc d hd => ?_⟩
      rw [List.mem_singleton.mp hd]
      exact h.newest b hactive (h.written b (.inr ⟨hactive, hwell, hpage⟩)) c hc
    · exact hhistory ▸ h.rising
  case active => grind [h.active]
  case erased => grind [h.erased]
  case erasing => grind [h.erasing]
  case area => grind [h.area]
  case ring => exact hringPos ▸ h.ring
  case begun => grind [h.begun]
  case clear => grind [h.clear]
  case written => intro c; grind [h.written c]
  case newest => grind
  case drawn =>
    intro c hc
    have hold := h.drawn c
    rw [hsame c]
    grind
  case limit => exact hpageSeq ▸ h.limit

/-- The prepared block becomes ACTIVE and the ring position (R71, step 2). -/
theorem RingWf.madeActive (h : RingWf l) (hactive : l.active = none) (hahead : l.ahead = .prepared b)
    (hm : RingStep l b e { ringOf l with
      active := some b, nextPage := 0, failing := false, ringPos := b, ahead := .none } m)
    (he : e.state = .active)
    (hfirsts : e.firstSeq = (blockEntry l b).firstSeq ∧ e.firstPage = (blockEntry l b).firstPage) : RingWf m := by
  have hsame := hm.firstPageOf_same hfirsts.2
  obtain ⟨htable, hentry, hvalues, hpageSeq⟩ := hm
  simp only [ringOf, RingValues.mk.injEq] at hvalues
  obtain ⟨hhistory, hactive', hahead', hringPos, hnextPage, hfailing⟩ := hvalues
  have hstate : (blockEntry l b).state = .erased := (h.erased b).mp hahead
  have hclear : (blockEntry l b).firstSeq = none := h.clear b (.inl hstate)
  have hzero : Machine.firstPageOf l b = 0 := by rw [Machine.firstPageOf, (h.begun b).mpr hclear]; rfl
  constructor
  case table => exact htable
  case filled => grind [h.filled]
  case once => exact hhistory ▸ h.once
  case rising => simpa only [hhistory, hsame] using h.rising
  case active => grind [h.active]
  case erased => grind [h.erased]
  case erasing => grind [h.erasing]
  case area => grind [h.area]
  case ring => exact hringPos ▸ h.area b (by rw [hstate]; nofun) (by rw [hstate]; nofun)
  case begun => grind [h.begun]
  case clear => grind [h.clear]
  case written => intro c; grind [h.written c]
  case newest => grind
  case drawn =>
    intro c hc
    have hold := h.drawn c
    rw [hsame c]
    grind
  case limit => exact hpageSeq ▸ h.limit

/-- A page of the active block has committed: the block has first sequences (R70). -/
theorem RingWf.committed {n : Nat} (h : RingWf l) (hactive : l.active = some b)
    (hm : RingStep l b e { ringOf l with nextPage := n } m)
    (hstate : e.state = (blockEntry l b).state)
    (he : e.firstSeq = (blockEntry l b).firstSeq ∧ e.firstPage = (blockEntry l b).firstPage ∧ e.firstSeq ≠ none
      ∨ e.firstSeq ≠ none ∧ ∃ n, e.firstPage = some n ∧ n ≤ l.nextPageSeq ∧ ∀ c ∈ l.history, firstPageOf l c ≤ n) :
    RingWf m := by
  have hfirst := hm.firstPageOf
  obtain ⟨htable, hentry, hvalues, hpageSeq⟩ := hm
  simp only [ringOf, RingValues.mk.injEq] at hvalues
  obtain ⟨hhistory, hactive', hahead, hringPos, hnextPage, hfailing⟩ := hvalues
  have hactiveState : (blockEntry l b).state = .active := (h.active b).mp hactive
  have hnew : b ∉ l.history := by grind [h.filled]
  have hother : ∀ c ∈ l.history, Machine.firstPageOf m c = Machine.firstPageOf l c := fun c hc => by
    rw [hfirst]
    exact if_neg (fun heq : c = b => hnew (heq ▸ hc))
  constructor
  case table => exact htable
  case filled => grind [h.filled]
  case once => exact hhistory ▸ h.once
  case rising =>
    rw [hhistory]
    refine h.rising.imp_of_mem (fun {c d} hc hd hle => ?_)
    rw [hother c hc, hother d hd]
    exact hle
  case active => grind [h.active]
  case erased => grind [h.erased]
  case erasing => grind [h.erasing]
  case area => grind [h.area]
  case ring => exact hringPos ▸ h.ring
  case begun => grind [h.begun]
  case clear => grind [h.clear]
  case written => intro c; grind [h.written c]
  case newest =>
    intro a ha hbegun c hc
    have hnewest := h.newest a
    rw [hhistory] at hc
    rw [hother c hc, hfirst a]
    grind [Machine.firstPageOf]
  case drawn =>
    intro c hc
    have hold := h.drawn c
    rw [hfirst c]
    grind [Machine.firstPageOf]
  case limit => exact hpageSeq ▸ h.limit

/-- A page of the active block has failed: the block is failing (R75). -/
theorem RingWf.failed {n : Nat} (h : RingWf l) :
    RingWf { l with nextPage := n, failing := true } :=
  { h with
    written := fun b hb => hb.elim (fun hf => h.written b (.inl hf)) (fun ⟨_, hf, _⟩ => Bool.noConfusion hf)
    filled := h.filled
    rising := h.rising
    active := h.active
    erased := h.erased
    erasing := h.erasing
    area := h.area
    begun := h.begun
    clear := h.clear
    newest := h.newest
    drawn := h.drawn }

end Sys2Proof.Machine
end

section
/-! PROOF. The requests of the Log Manager at the Array Controller through every choice and every request (R51 to R57,
R68, R69, R72). -/

set_option Elab.async false

namespace Sys2Proof.Machine

variable {s t : State} {a a' : ArrayCtl} {b c : Nat} {h : PageHeader} {l m : LogManager}

/-- An erase of erase-ahead waits, runs or is suspended. -/
def AheadOut (a : ArrayCtl) (b : Nat) : Prop :=
  a.eraseAhead = some (.erase b) ∨ EraseAheadRuns a b ∨ EraseAheadStands a b

/-- At most one of the three. -/
structure AheadAlone (a : ArrayCtl) : Prop where
  waits : ∀ b c, a.eraseAhead = some (.erase b) → ¬ EraseAheadRuns a c ∧ ¬ EraseAheadStands a c
  runs : ∀ b c, EraseAheadRuns a b → ¬ EraseAheadStands a c

theorem LogRequestsWf.out (hr : LogRequestsWf l a) (hout : AheadOut a b) : l.ahead = .underWay b :=
  hout.elim (hr.waits b) (fun hout => hout.elim (hr.runs b) (hr.stands b))

theorem LogRequestsWf.alone (hr : LogRequestsWf l a) : AheadAlone a := ⟨hr.waitsAlone, hr.runsAlone⟩

theorem LogRequestsWf.of (hprogram : ∀ b h, LogProgramOut a b h → l.active = some b ∧ h.pageSeq ≤ l.nextPageSeq
      ∧ ∀ c ∈ l.history, firstPageOf l c ≤ h.pageSeq)
    (hout : ∀ b, AheadOut a b → l.ahead = .underWay b) (halone : AheadAlone a) : LogRequestsWf l a where
  program := hprogram
  waits b hb := hout b (.inl hb)
  runs b hb := hout b (.inr (.inl hb))
  stands b hb := hout b (.inr (.inr hb))
  waitsAlone := halone.waits
  runsAlone := halone.runs

/-- The array controller `a'` holds of the Log Manager's requests no more than `a`. -/
structure AsksNoMore (a a' : ArrayCtl) : Prop where
  program : ∀ b h, LogProgramOut a' b h → LogProgramOut a b h
  erase : ∀ b, AheadOut a' b → AheadOut a b
  alone : AheadAlone a → AheadAlone a'

theorem AsksNoMore.refl (a : ArrayCtl) : AsksNoMore a a := ⟨fun _ _ => id, fun _ => id, id⟩

theorem AsksNoMore.trans {a'' : ArrayCtl} (h : AsksNoMore a a') (h' : AsksNoMore a' a'') : AsksNoMore a a'' :=
  ⟨fun b g => h.program b g ∘ h'.program b g, fun b => h.erase b ∘ h'.erase b, h'.alone ∘ h.alone⟩

theorem LogRequestsWf.noMore (hr : LogRequestsWf l a) (ha : AsksNoMore a a') : LogRequestsWf l a' :=
  .of (fun b h hout => hr.program b h (ha.program b h hout)) (fun b hout => hr.out (ha.erase b hout)) (ha.alone hr.alone)

/-- Nothing of erase-ahead is out at the array. -/
def AheadIdle (a : ArrayCtl) : Prop := ∀ b, ¬ AheadOut a b

theorem LogRequestsWf.idle (hr : LogRequestsWf l a) (hahead : ∀ b, l.ahead ≠ .underWay b) : AheadIdle a :=
  fun b hout => hahead b (hr.out hout)

/-! ### Slots, the operation in progress and the suspended erase -/

/-- No program of the Log Writer is out at the array. -/
def NoProgramOut (a : ArrayCtl) : Prop := ∀ b h, ¬ LogProgramOut a b h

theorem NoProgramOut.of (hfree : logProgramOut a = false) : NoProgramOut a := by
  rw [logProgramOut, Bool.or_eq_false_iff] at hfree
  obtain ⟨hslot, hrun⟩ := hfree
  rintro b h (⟨p, d, hw⟩ | ⟨x, p, d, hx, hwho, -⟩)
  · rw [hw] at hslot
    cases hslot
  · rw [hx] at hrun
    exact of_decide_eq_false hrun hwho

theorem AsksNoMore.noProgram (ha : AsksNoMore a a') (hno : NoProgramOut a) : NoProgramOut a' :=
  fun b h hout => hno b h (ha.program b h hout)

theorem AsksNoMore.idle (ha : AsksNoMore a a') (hidle : AheadIdle a) : AheadIdle a' :=
  fun b hout => hidle b (ha.erase b hout)

/-- What of an array controller the Log Manager's requests are read from. -/
theorem AsksNoMore.of_fields (hwriter : a'.logWriter = a.logWriter ∨ a'.logWriter = none)
    (hahead : a'.eraseAhead = a.eraseAhead ∨ a'.eraseAhead = none)
    (hrun : a'.running = a.running ∨ ∀ x, a'.running = some x → x.who ≠ .logWriter ∧ x.who ≠ .eraseAhead)
    (hsuspended : a'.suspended = a.suspended) : AsksNoMore a a' := by
  have hwriting : ∀ x, a'.running = some x → x.who = .logWriter → a.running = some x := fun x hx hwho =>
    hrun.elim (fun e => e ▸ hx) (fun hno => absurd hwho (hno x hx).1)
  have hruns : ∀ b, EraseAheadRuns a' b → EraseAheadRuns a b := fun b ⟨x, hx, hwho, hreq⟩ =>
    ⟨x, hrun.elim (fun e => e ▸ hx) (fun hno => absurd hwho (hno x hx).2), hwho, hreq⟩
  have hstands : ∀ b, EraseAheadStands a' b → EraseAheadStands a b := fun b ⟨e, he, hrest⟩ => ⟨e, hsuspended ▸ he, hrest⟩
  have hwaits : ∀ b, a'.eraseAhead = some (.erase b) → a.eraseAhead = some (.erase b) := fun b hb =>
    hahead.elim (fun e => e ▸ hb) (fun e => by rw [e] at hb; cases hb)
  refine ⟨fun b g hout => ?_, fun b hout => hout.imp (hwaits b) (Or.imp (hruns b) (hstands b)),
    fun halone => ⟨fun b d hb => ?_, fun b d hb hd => halone.runs b d (hruns b hb) (hstands d hd)⟩⟩
  · rcases hout with ⟨p, d, hw⟩ | ⟨x, p, d, hx, hwho, hreq⟩
    · exact .inl ⟨p, d, hwriter.elim (fun e => e ▸ hw) (fun e => by rw [e] at hw; cases hw)⟩
    · exact .inr ⟨x, p, d, hwriting x hx hwho, hwho, hreq⟩
  · obtain ⟨hnoRun, hnoStand⟩ := halone.waits b d (hwaits b hb)
    exact ⟨fun hrun => hnoRun (hruns d hrun), fun hstand => hnoStand (hstands d hstand)⟩

/-- A slot emptied. -/
theorem AsksNoMore.emptied (a : ArrayCtl) (w : Requester) : AsksNoMore a (setSlot a none w) := by
  cases w with
  | logWriter => exact .of_fields (.inr rfl) (.inl rfl) (.inl rfl) rfl
  | eraseAhead => exact .of_fields (.inl rfl) (.inr rfl) (.inl rfl) rfl
  | session i => cases i <;> exact .of_fields (.inl rfl) (.inl rfl) (.inl rfl) rfl
  | journal | sequencer => exact .of_fields (.inl rfl) (.inl rfl) (.inl rfl) rfl

/-- The slot of a requester that is not the Log Manager. -/
theorem AsksNoMore.slotted {w : Requester} (hwriter : w ≠ .logWriter) (hahead : w ≠ .eraseAhead) (a : ArrayCtl)
    (r : Option ArrayReq) : AsksNoMore a (setSlot a r w) := by
  cases w with
  | logWriter => exact absurd rfl hwriter
  | eraseAhead => exact absurd rfl hahead
  | session i => cases i <;> exact .of_fields (.inl rfl) (.inl rfl) (.inl rfl) rfl
  | journal | sequencer => exact .of_fields (.inl rfl) (.inl rfl) (.inl rfl) rfl

theorem AsksNoMore.freed (a : ArrayCtl) : AsksNoMore a { a with running := none } := by
  refine .of_fields (.inl rfl) (.inl rfl) (.inr fun x hx => ?_) rfl
  cases hx

/-! ### Starting, suspending and resuming -/

/-- A request chosen from its slot runs. -/
theorem AsksNoMore.started {w : Requester} {r : ArrayReq} {x : Running} {i : SessionId} (hslot : slotOf a w = some r)
    (hwho : x.who = w) (hreq : x.req = r) :
    AsksNoMore a { setSlot a none w with running := some x, lastSession := i } := by
  have hother (hwriter : w ≠ .logWriter) (hahead : w ≠ .eraseAhead) :
      AsksNoMore a { setSlot a none w with running := some x, lastSession := i } := by
    have hrun : ∀ y, some x = some y → y.who ≠ .logWriter ∧ y.who ≠ .eraseAhead := fun y hy => by
      cases hy
      rw [hwho]
      exact ⟨hwriter, hahead⟩
    exact (AsksNoMore.slotted hwriter hahead a none).trans (.of_fields (.inl rfl) (.inl rfl) (.inr hrun) rfl)
  cases w with
  | logWriter =>
    have hruns : ∀ b, ¬ EraseAheadRuns { setSlot a none .logWriter with running := some x, lastSession := i } b := by
      rintro b ⟨y, hy, hno, -⟩
      cases hy
      rw [hwho] at hno
      cases hno
    refine ⟨fun b g hout => .inl ?_, fun b hout => hout.imp id (Or.imp (fun hrun => absurd hrun (hruns b)) id),
      fun halone => ⟨fun b d hb => ⟨hruns d, (halone.waits b d hb).2⟩, fun b _ hb => absurd hb (hruns b)⟩⟩
    rcases hout with ⟨p, d, hw⟩ | ⟨y, p, d, hy, -, hprogram⟩
    · cases hw
    · cases hy
      exact ⟨p, d, hslot.trans (congrArg some (hreq.symm.trans hprogram))⟩
  | eraseAhead =>
    have hwaited : ∀ b, EraseAheadRuns { setSlot a none .eraseAhead with running := some x, lastSession := i } b →
        a.eraseAhead = some (.erase b) := by
      rintro b ⟨y, hy, -, herase⟩
      cases hy
      exact hslot.trans (congrArg some (hreq.symm.trans herase))
    refine ⟨fun b g hout => .inl ?_, fun b hout => ?_,
      fun halone => ⟨nofun, fun b d hb hd => (halone.waits b d (hwaited b hb)).2 hd⟩⟩
    · rcases hout with hw | ⟨y, p, d, hy, hno, -⟩
      · exact hw
      · cases hy
        rw [hwho] at hno
        cases hno
    · rcases hout with hb | hb | hb
      · cases hb
      · exact .inl (hwaited b hb)
      · exact .inr (.inr hb)
  | session i => exact hother nofun nofun
  | journal | sequencer => exact hother nofun nofun

theorem AsksNoMore.startRequest {w : Requester} {r : ArrayReq} {store : List (Nat × Page)} (hslot : slotOf a w = some r) :
    AsksNoMore a (Machine.startRequest w r a store).1 := by
  cases r with
  | read b p => exact .started hslot rfl rfl
  | program b p h d => exact .started (i := (setSlot a none w).lastSession) hslot rfl rfl
  | erase b => exact .started (i := (setSlot a none w).lastSession) hslot rfl rfl

/-- The suspended erase runs again. -/
theorem AsksNoMore.resumed {e : Suspended} (he : a.suspended = some e) : AsksNoMore a (resumeErase e a) := by
  have hruns : ∀ b, EraseAheadRuns (resumeErase e a) b → EraseAheadStands a b := by
    rintro b ⟨x, hx, hwho, hreq⟩
    cases hx
    cases hreq
    exact ⟨e, he, hwho, rfl⟩
  refine ⟨fun b g hout => .inl ?_, fun b hout => ?_,
    fun halone => ⟨fun b d hb => ⟨fun hd => (halone.waits b d hb).2 (hruns d hd), ?_⟩, fun _ d _ => ?_⟩⟩
  · rcases hout with hw | ⟨x, p, d, hx, -, hreq⟩
    · exact hw
    · cases hx
      cases hreq
  · rcases hout with hb | hb | ⟨f, hf, -⟩
    · exact .inl hb
    · exact .inr (.inr (hruns b hb))
    · cases hf
  · rintro ⟨f, hf, -⟩
    cases hf
  · rintro ⟨f, hf, -⟩
    cases hf

/-- The running erase is suspended. -/
theorem AsksNoMore.suspended {x : Running} (hx : a.running = some x) (hreq : x.req = .erase b) :
    AsksNoMore a (suspendRunning a x) := by
  have hstands : ∀ d, EraseAheadStands (suspendRunning a x) d → EraseAheadRuns a d := by
    rintro d ⟨f, hf, hwho, hblock⟩
    cases hf
    rw [hreq] at hblock
    exact ⟨x, hx, hwho, hreq.trans (congrArg ArrayReq.erase hblock)⟩
  have hruns : ∀ d, ¬ EraseAheadRuns (suspendRunning a x) d := by
    rintro d ⟨y, hy, -⟩
    cases hy
  refine ⟨fun b g hout => .inl ?_, fun b hout => ?_,
    fun halone => ⟨fun b d hb => ⟨hruns d, fun hd => (halone.waits b d hb).1 (hstands d hd)⟩, fun b _ hb => absurd hb (hruns b)⟩⟩
  · rcases hout with hw | ⟨y, p, d, hy, -⟩
    · exact hw
    · cases hy
  · rcases hout with hb | hb | hb
    · exact .inl hb
    · exact absurd hb (hruns b)
    · exact .inr (.inl (hstands b hb))

/-! ### The choice (R53) -/

theorem slot_of_waitingProgram {r : ArrayReq} {o : Option ArrayReq} (h : waitingProgram a o = some r) : o = some r := by
  unfold waitingProgram at h
  split at h
  · split at h
    · cases h
    · exact h
  · cases h

theorem slot_of_waitingRead {r : ArrayReq} {o : Option ArrayReq} (h : waitingRead a o = some r) : o = some r := by
  unfold waitingRead at h
  split at h
  · split at h
    · cases h
    · exact h
  · cases h

theorem slot_of_waitingErase {r : ArrayReq} {o : Option ArrayReq} (h : waitingErase o = some r) : o = some r := by
  unfold waitingErase at h
  split at h
  · exact h
  · cases h

theorem slot_of_sessionChoice {i : SessionId} {r : ArrayReq} (h : sessionChoice a = some (i, r)) :
    slotOf a (.session i) = some r := by
  unfold sessionChoice at h
  split at h
  · cases h
  · rename_i hr _
    cases h
    exact slot_of_waitingRead hr
  · rename_i hr
    cases h
    exact slot_of_waitingRead hr
  · rename_i h1 h2
    split at h <;> cases h
    · exact slot_of_waitingRead h2
    · exact slot_of_waitingRead h1

theorem slot_of_eraseChoice {w : Requester} {r : ArrayReq} (h : eraseChoice a = .start w r) : slotOf a w = some r := by
  unfold eraseChoice at h
  split at h
  · rename_i hr
    cases h
    exact slot_of_waitingErase hr
  · split at h
    · rename_i hr
      cases h
      exact slot_of_waitingErase hr
    · cases h

/-- A request that is chosen to start waits in its slot. -/
theorem slot_of_nextChoice {k : Bool} {w : Requester} {r : ArrayReq} (h : nextChoice k a = .start w r) :
    slotOf a w = some r := by
  unfold nextChoice at h
  split at h
  · split at h
    · rename_i hr
      cases h
      exact hr
    · cases h
  · split at h
    · rename_i hr
      cases h
      exact slot_of_waitingProgram hr
    · split at h
      · rename_i hr
        cases h
        exact slot_of_waitingProgram hr
      · split at h
        · rename_i hr
          cases h
          exact slot_of_sessionChoice hr
        · split at h
          · cases h
          · exact slot_of_eraseChoice h

theorem AsksNoMore.chooseNext (k : Bool) (l : LogManager) (n : Nat) : ∀ (a : ArrayCtl) (store : List (Nat × Page)),
    AsksNoMore a (Machine.chooseNext k l n a store).1 := by
  induction n with
  | zero => exact fun a _ => .refl a
  | succ n ih =>
    intro a store
    unfold Machine.chooseNext
    split
    · exact .refl a
    · rename_i hc
      obtain ⟨he, -⟩ := nextChoice_resume hc
      exact .resumed he
    · rename_i hc
      have hslot := slot_of_nextChoice hc
      split
      · split
        · exact (AsksNoMore.emptied a _).trans (ih _ store)
        · exact .startRequest hslot
      · exact .startRequest hslot
      · exact .startRequest hslot

theorem AsksNoMore.arrayChoose (s : State) : AsksNoMore s.arr (Machine.arrayChoose s).arr := .chooseNext ..

theorem AsksNoMore.arrayFree (s : State) : AsksNoMore s.arr (Machine.arrayFree s).arr :=
  (AsksNoMore.freed s.arr).trans (.arrayChoose (s.setArr { s.arr with running := none }))

/-- What the choice behind a request adds to the request itself. -/
theorem AsksNoMore.arrayAsk (w : Requester) (r : ArrayReq) (s : State) :
    (Machine.arrayAsk w r s).1.arr = s.arr ∨ AsksNoMore (setSlot s.arr (some r) w) (Machine.arrayAsk w r s).1.arr := by
  unfold Machine.arrayAsk
  split
  · exact .inl rfl
  · split
    · exact .inl rfl
    · dsimp only
      split
      · exact .inr (.arrayChoose (s.setArr (setSlot s.arr (some r) w)))
      · rename_i x hx
        split
        · rename_i hsuspends
          obtain ⟨hsuspends, -⟩ := hsuspends
          unfold suspends at hsuspends
          split at hsuspends
          · rename_i b hreq
            refine .inr (AsksNoMore.trans (.suspended ?_ hreq)
              (.arrayChoose (s.setArr (suspendRunning (setSlot s.arr (some r) w) x))))
            rw [setSlot_running]
            exact hx
          · cases hsuspends
        · exact .inr (.refl _)

/-- A request of the journal, of a session or of the Sequencer. -/
theorem AsksNoMore.asked {w : Requester} (hwriter : w ≠ .logWriter) (hahead : w ≠ .eraseAhead) (r : ArrayReq) (s : State) :
    AsksNoMore s.arr (Machine.arrayAsk w r s).1.arr :=
  (AsksNoMore.arrayAsk w r s).elim (fun e => e ▸ .refl _) (.trans (.slotted hwriter hahead s.arr _))

end Sys2Proof.Machine
end

section
/-! PROOF. The Recording Directory and the holds through every change of an entry (R63, R64, R65, R83, R91, R96, R97). -/

set_option Elab.async false

namespace Sys2Proof.Machine

variable {s : State} {l m : LogManager} {d d' : Directory} {c c' : CaptureState} {e : Entry} {b n num : Nat}
  {f : Entry → Entry}

/-! ### Changes that open nothing -/

/-- The directory under another log that has its holds. -/
theorem DirectoryWf.under (h : DirectoryWf l d c) (hrec : m.capturingRec = l.capturingRec)
    (hhold : ∀ b, holdOf m b = holdOf l b) : DirectoryWf m d c :=
  { h with
    named := fun e he hopen => hrec.trans (h.named e he hopen)
    holds := fun b => (hhold b).trans (h.holds b) }

/-- A directory without an open entry goes with every state and every capturing recording. -/
theorem DirectoryWf.unopened (h : DirectoryWf l d c) (hnone : ∀ e ∈ d.entries, isOpen e = false)
    (hhold : ∀ b, holdOf m b = holdOf l b) : DirectoryWf m d c' :=
  { h with
    closed := fun _ => hnone
    named := fun e he hopen => absurd hopen (ne_true_of_eq_false (hnone e he))
    holds := fun b => (hhold b).trans (h.holds b) }

theorem DirectoryWf.inState (h : DirectoryWf l d c) (hstate : c' = .stopped ∨ c' = .running → c = .stopped ∨ c = .running) :
    DirectoryWf l d c' := { h with closed := h.closed ∘ hstate }

/-- Entries changed in what the directory does not look at, none of them opened. -/
theorem DirectoryWf.mapped (h : DirectoryWf l d c) (hd : d'.entries = d.entries.map f) (hnum : ∀ e, (f e).num = e.num)
    (hblocks : ∀ e, (f e).blocks = e.blocks) (hopen : ∀ e ∈ d.entries, isOpen (f e) = true → isOpen e = true) :
    DirectoryWf l d' c where
  room := by rw [hd, List.length_map]; exact h.room
  numbers := by
    rw [hd, List.map_map, show Entry.num ∘ f = Entry.num from funext hnum]
    exact h.numbers
  one := by
    rw [hd, ← List.countP_eq_length_filter, List.countP_map]
    refine Nat.le_trans (List.countP_mono_left hopen) ?_
    rw [List.countP_eq_length_filter]
    exact h.one
  closed hc x hx := by
    rw [hd] at hx
    obtain ⟨e, he, rfl⟩ := List.mem_map.mp hx
    exact Bool.eq_false_iff.mpr fun hf => ne_true_of_eq_false (h.closed hc e he) (hopen e he hf)
  named x hx hf := by
    rw [hd] at hx
    obtain ⟨e, he, rfl⟩ := List.mem_map.mp hx
    exact (h.named e he (hopen e he hf)).trans (hnum e).symm
  lists x hx := by
    rw [hd] at hx
    obtain ⟨e, he, rfl⟩ := List.mem_map.mp hx
    rw [hblocks]
    exact h.lists e he
  holds b := by
    rw [hd, List.filter_map, List.length_map, h.holds b]
    refine congrArg (fun p => (List.filter p d.entries).length) (funext fun e => ?_)
    simp only [Function.comp, hblocks]

/-- One entry changed so. -/
theorem DirectoryWf.changed (h : DirectoryWf l d c) (n : Nat) (hnum : ∀ e, (f e).num = e.num)
    (hblocks : ∀ e, (f e).blocks = e.blocks)
    (hopen : ∀ e ∈ d.entries, e.num = n → isOpen (f e) = true → isOpen e = true) :
    DirectoryWf l (changeEntry d n f) c :=
  h.mapped (f := fun e => if e.num = n then f e else e) rfl
    (fun e => by split; exact hnum e; rfl)
    (fun e => by split; exact hblocks e; rfl)
    (fun e he => by split; exact hopen e he ‹_›; exact id)

/-- Entries of one number are one entry. -/
theorem DirectoryWf.entry_unique (h : DirectoryWf l d c) {x y : Entry} (hx : x ∈ d.entries) (hy : y ∈ d.entries)
    (hnum : x.num = y.num) : x = y := by
  obtain ⟨i, hi, rfl⟩ := List.getElem_of_mem hx
  obtain ⟨j, hj, rfl⟩ := List.getElem_of_mem hy
  have hdistinct := List.pairwise_iff_getElem.mp (List.pairwise_map.mp h.numbers)
  rcases Nat.lt_trichotomy i j with hlt | heq | hlt
  · exact absurd hnum (hdistinct i j hi hj hlt)
  · congr 1
  · exact absurd hnum.symm (hdistinct j i hj hi hlt)

/-! ### The open entry -/

theorem eq_of_length_le_one {α : Type} {xs : List α} {x y : α} (hlen : xs.length ≤ 1) (hx : x ∈ xs) (hy : y ∈ xs) : x = y := by
  obtain ⟨i, hi, rfl⟩ := List.getElem_of_mem hx
  obtain ⟨j, hj, rfl⟩ := List.getElem_of_mem hy
  congr 1
  omega

theorem DirectoryWf.open_unique (h : DirectoryWf l d c) {x y : Entry} (hx : x ∈ d.entries) (hy : y ∈ d.entries)
    (hxo : isOpen x = true) (hyo : isOpen y = true) : x = y :=
  eq_of_length_le_one h.one (List.mem_filter.mpr ⟨hx, hxo⟩) (List.mem_filter.mpr ⟨hy, hyo⟩)

/-- Once the open entry has been closed none is open. -/
theorem DirectoryWf.none_open (h : DirectoryWf l d c) (he : e ∈ d.entries) (hopen : isOpen e = true)
    (hf : ∀ x, isOpen (f x) = false) : ∀ x ∈ (changeEntry d e.num f).entries, isOpen x = false := by
  intro x hx
  obtain ⟨y, hy, rfl⟩ := List.mem_map.mp hx
  by_cases hnum : y.num = e.num
  · rw [if_pos hnum]
    exact hf y
  · rw [if_neg hnum, Bool.eq_false_iff]
    exact fun hyo => hnum (congrArg Entry.num (h.open_unique hy he hyo hopen))

theorem openEntry_isOpen (h : openEntry d = some e) : isOpen e = true := List.find?_some (p := isOpen) h

/-! ### One entry and the others -/

theorem filter_num_eq {es : List Entry} (hnums : (es.map Entry.num).Nodup) (he : e ∈ es) :
    es.filter (fun x => decide (x.num = e.num)) = [e] := by
  induction es with
  | nil => cases he
  | cons x es ih =>
    obtain ⟨hnew, hrest⟩ := List.nodup_cons.mp hnums
    rcases List.mem_cons.mp he with rfl | hin
    · rw [List.filter_cons_of_pos (p := fun x : Entry => decide (x.num = e.num)) (decide_eq_true rfl)]
      refine congrArg (List.cons e) (List.filter_eq_nil_iff.mpr fun y hy hnum => hnew ?_)
      rw [← of_decide_eq_true hnum]
      exact List.mem_map_of_mem hy
    · have hne : x.num ≠ e.num := fun heq => hnew (heq ▸ List.mem_map_of_mem hin)
      rw [List.filter_cons_of_neg (p := fun x : Entry => decide (x.num = e.num)) (by simpa using hne), ih hrest hin]

/-- Of all entries one counts for itself. -/
theorem count_split {es : List Entry} (hnums : (es.map Entry.num).Nodup) (he : e ∈ es) (p : Entry → Bool) :
    (es.filter p).length = ((es.filter (fun x => decide (x.num ≠ e.num))).filter p).length + (if p e then 1 else 0) := by
  have hsplit := List.countP_eq_countP_filter_add es p (fun x => decide (x.num ≠ e.num))
  have hsame : es.filter (fun x => !decide (x.num ≠ e.num)) = [e] := by
    rw [← filter_num_eq hnums he]
    exact congrArg (List.filter · es) (funext fun x => by simp)
  rw [hsame, List.countP_cons, List.countP_nil, Nat.zero_add, List.countP_eq_length_filter,
    List.countP_eq_length_filter] at hsplit
  exact hsplit

/-! ### Entries that leave (R105, R65) -/

theorem holdOf_lowerHold (hl : sparseWf l.table = true) (b c : Nat) :
    holdOf (lowerHold l b) c = holdOf l c - if c = b then 1 else 0 := by
  rw [lowerHold, holdOf, blockEntry_setBlockEntry hl]
  split
  · rename_i hc
    rw [hc]
    rfl
  · rfl

theorem SameRing.raised (hl : sparseWf l.table = true) (bs : List Nat) : SameRing l (bs.foldl raiseHold l) := by
  induction bs generalizing l with
  | nil => exact .of hl rfl rfl
  | cons b bs ih =>
    have hone : SameRing l (raiseHold l b) := .setHold hl _ _
    exact hone.trans (ih hone.table)

theorem SameRing.lowered (hl : sparseWf l.table = true) (bs : List Nat) : SameRing l (bs.foldl lowerHold l) := by
  induction bs generalizing l with
  | nil => exact .of hl rfl rfl
  | cons b bs ih =>
    have hone : SameRing l (lowerHold l b) := .setHold hl _ _
    exact hone.trans (ih hone.table)

theorem holdOf_foldl_lowerHold (hl : sparseWf l.table = true) {bs : List Nat} (hnodup : bs.Nodup) (c : Nat) :
    holdOf (bs.foldl lowerHold l) c = holdOf l c - if c ∈ bs then 1 else 0 := by
  induction bs generalizing l with
  | nil => rfl
  | cons b bs ih =>
    obtain ⟨hnew, hrest⟩ := List.nodup_cons.mp hnodup
    rw [List.foldl_cons, ih (l := lowerHold l b) (SameRing.setHold hl _ _).table hrest, holdOf_lowerHold hl]
    by_cases hc : c = b
    · subst hc
      simp [hnew]
    · simp [hc]

theorem DirectoryWf.removed (h : DirectoryWf l d c) (hl : sparseWf l.table = true) (hfind : findEntry d num = some e) :
    DirectoryWf (e.blocks.foldl lowerHold l) (removeEntry d num) c := by
  have he := findEntry_mem hfind
  have hnum := num_of_findEntry hfind
  obtain ⟨hnodup, -⟩ := h.lists e he
  have hsub : (removeEntry d num).entries.Sublist d.entries := List.filter_sublist
  exact {
    room := Nat.le_trans hsub.length_le h.room
    numbers := h.numbers.sublist (hsub.map _)
    one := Nat.le_trans (hsub.filter _).length_le h.one
    closed := fun hc x hx => h.closed hc x (hsub.subset hx)
    named := fun x hx => by
      rw [foldl_lowerHold]
      exact h.named x (hsub.subset hx)
    lists := fun x hx => h.lists x (hsub.subset hx)
    holds := fun b => by
      rw [holdOf_foldl_lowerHold hl hnodup, h.holds b, count_split h.numbers he, hnum, removeEntry]
      simp only [decide_eq_true_eq]
      exact Nat.add_sub_cancel _ _ }

/-! ### Entries that join (R91, R96) -/

theorem holdOf_foldl_raiseHold {bs : List Nat} (hnodup : bs.Nodup) (b : Nat) :
    holdOf (bs.foldl raiseHold l) b = holdOf l b + if b ∈ bs then 1 else 0 := by
  rw [holdOf, blockEntry_foldl_raiseHold]
  change (blockEntry l b).hold + bs.count b = _
  split
  · rename_i hin
    rw [hnodup.count, if_pos hin]
    rfl
  · rename_i hout
    rw [List.count_eq_zero_of_not_mem hout]
    rfl

theorem DirectoryWf.joined (h : DirectoryWf l d c) (hroom : d.entries.length < 12) (hnone : ∀ x ∈ d.entries, isOpen x = false)
    (hnew : ∀ x ∈ d.entries, x.num ≠ e.num) (hlists : e.blocks.Nodup ∧ ∀ b ∈ e.blocks, isLogBlock b = true)
    (hd : d'.entries = d.entries ++ [e]) (hrec : m.capturingRec = e.num)
    (htable : ∀ b, holdOf m b = holdOf (e.blocks.foldl raiseHold l) b) : DirectoryWf m d' .posting := by
  obtain ⟨hnodup, harea⟩ := hlists
  have hnoneOpen : d.entries.filter isOpen = [] := List.filter_eq_nil_iff.mpr fun x hx => ne_true_of_eq_false (hnone x hx)
  exact {
    room := by rw [hd, List.length_append]; exact hroom
    numbers := by
      rw [hd, List.map_append, List.nodup_append]
      refine ⟨h.numbers, List.pairwise_singleton _ _, fun n hn k hk => ?_⟩
      obtain ⟨x, hx, rfl⟩ := List.mem_map.mp hn
      rw [List.map_singleton, List.mem_singleton] at hk
      exact hk ▸ hnew x hx
    one := by
      rw [hd, List.filter_append, hnoneOpen, List.nil_append]
      exact List.length_filter_le isOpen [e]
    closed := fun hc => by rcases hc with hc | hc <;> cases hc
    named := fun x hx hopen => by
      rw [hd] at hx
      rcases List.mem_append.mp hx with hx | hx
      · rw [hnone x hx] at hopen
        cases hopen
      · rw [List.mem_singleton.mp hx]
        exact hrec
    lists := fun x hx => by
      rw [hd] at hx
      rcases List.mem_append.mp hx with hx | hx
      · exact h.lists x hx
      · rw [List.mem_singleton.mp hx]
        exact ⟨hnodup, harea⟩
    holds := fun b => by
      rw [htable, holdOf_foldl_raiseHold hnodup, h.holds b, hd, List.filter_append, List.length_append]
      by_cases hin : b ∈ e.blocks
      · simp [hin]
      · simp [hin] }

/-! ### A list that grows (R64, R97) -/

/-- A block added to an entry's list. -/
def listed (b : Nat) (x : Entry) : Entry := { x with blocks := x.blocks ++ [b] }

theorem DirectoryWf.listed (h : DirectoryWf l d c) (he : e ∈ d.entries) (hnew : b ∉ e.blocks) (harea : isLogBlock b = true) :
    DirectoryWf (raiseHold l b) (changeEntry d e.num (Machine.listed b)) c := by
  let g : Entry → Entry := fun x => if x.num = e.num then Machine.listed b x else x
  have hentries : (changeEntry d e.num (Machine.listed b)).entries = d.entries.map g := rfl
  have hnum : ∀ x, (g x).num = x.num := fun x => by simp only [g]; split <;> rfl
  have hopen : ∀ x, isOpen (g x) = isOpen x := fun x => by simp only [g]; split <;> rfl
  have hself : g e = Machine.listed b e := if_pos rfl
  have hother : ∀ x, x.num ≠ e.num → g x = x := fun x hx => if_neg hx
  have hfilter : d.entries.filter (isOpen ∘ g) = d.entries.filter isOpen :=
    congrArg (List.filter · d.entries) (funext hopen)
  exact {
    room := by rw [hentries, List.length_map]; exact h.room
    numbers := by
      rw [hentries, List.map_map, show Entry.num ∘ g = Entry.num from funext hnum]
      exact h.numbers
    one := by rw [hentries, List.filter_map, List.length_map, hfilter]; exact h.one
    closed := fun hc x hx => by
      obtain ⟨y, hy, rfl⟩ := List.mem_map.mp (hentries ▸ hx)
      exact (hopen y).trans (h.closed hc y hy)
    named := fun x hx hxo => by
      obtain ⟨y, hy, rfl⟩ := List.mem_map.mp (hentries ▸ hx)
      exact (h.named y hy ((hopen y).symm.trans hxo)).trans (hnum y).symm
    lists := fun x hx => by
      obtain ⟨y, hy, rfl⟩ := List.mem_map.mp (hentries ▸ hx)
      obtain ⟨hnodup, hblocks⟩ := h.lists y hy
      by_cases hye : y.num = e.num
      · obtain rfl : y = e := h.entry_unique hy he hye
        rw [hself]
        have hgrown : (y.blocks ++ [b]).Nodup := by
          refine List.nodup_append.mpr ⟨hnodup, List.pairwise_singleton _ b, fun k hk j hj heq => hnew ?_⟩
          rw [← List.mem_singleton.mp hj, ← heq]
          exact hk
        refine ⟨hgrown, fun k hk => ?_⟩
        rcases List.mem_append.mp hk with hk | hk
        · exact hblocks k hk
        · rw [List.mem_singleton.mp hk]
          exact harea
      · rw [hother y hye]
        exact ⟨hnodup, hblocks⟩
    holds := fun k => by
      have hrest : (d.entries.filter (fun x => decide (x.num ≠ e.num))).filter (fun x => decide (k ∈ (g x).blocks))
          = (d.entries.filter (fun x => decide (x.num ≠ e.num))).filter (fun x => decide (k ∈ x.blocks)) :=
        List.filter_congr fun x hx => by rw [hother x (of_decide_eq_true (List.mem_filter.mp hx).2)]
      have hraised : holdOf (raiseHold l b) k = holdOf l k + if k ∈ [b] then 1 else 0 :=
        holdOf_foldl_raiseHold (List.pairwise_singleton _ b) k
      rw [hraised, hentries, List.filter_map, List.length_map, h.holds k, count_split h.numbers he,
        count_split h.numbers he ((fun x => decide (k ∈ x.blocks)) ∘ g)]
      simp only [Function.comp_def, hrest, hself, Machine.listed, List.mem_append, List.mem_singleton, decide_eq_true_eq]
      by_cases hk : k = b
      · subst hk
        simp [hnew]
      · simp [hk] }

/-- The numbers from any number on, as far as thirteen go, wrap once at most (R96). -/
theorem repeat_nextNumber (n : Nat) {k : Nat} (hk : k < 13) :
    k = 0 ∧ Nat.repeat nextNumber k n = n ∨ 0 < k ∧ 65535 ≤ n ∧ Nat.repeat nextNumber k n = k
      ∨ n < 65535 ∧ n + k ≤ 65535 ∧ Nat.repeat nextNumber k n = n + k
      ∨ n < 65535 ∧ 65535 < n + k ∧ Nat.repeat nextNumber k n = n + k - 65535 := by
  induction k with
  | zero => exact .inl ⟨rfl, rfl⟩
  | succ k ih =>
    have hvalue := ih (by omega)
    rw [Nat.repeat, nextNumber]
    generalize Nat.repeat nextNumber k n = v at hvalue ⊢
    split <;> omega

/-- The search ends at a number that no entry holds, or every number that it has passed is held (R96). -/
theorem freeNumber_ends (n num : Nat) : (∀ x ∈ d.entries, x.num ≠ freeNumber d n num)
    ∨ ∀ j, j ≤ n → Nat.repeat nextNumber j num ∈ d.entries.map Entry.num := by
  have hheld : ∀ k, ¬ (∀ x ∈ d.entries, x.num ≠ k) → k ∈ d.entries.map Entry.num := fun k hk =>
    Classical.byContradiction fun hout => hk fun x hx hnum => hout (hnum ▸ List.mem_map_of_mem hx)
  induction n generalizing num with
  | zero =>
    refine (Classical.em (∀ x ∈ d.entries, x.num ≠ num)).imp id fun hnot j hj => ?_
    obtain rfl := Nat.le_zero.mp hj
    exact hheld num hnot
  | succ n ih =>
    by_cases hfree : ∀ x ∈ d.entries, x.num ≠ num
    · rw [freeNumber, findEntry_none hfree]
      exact .inl hfree
    · have hnum := hheld num hfree
      obtain ⟨x, hx, rfl⟩ := List.mem_map.mp hnum
      have hsome : (findEntry d x.num).isSome = true := List.find?_isSome.mpr ⟨x, hx, decide_eq_true rfl⟩
      rw [freeNumber, if_pos hsome]
      refine (ih (nextNumber x.num)).imp id fun hrest j hj => ?_
      cases j with
      | zero => exact hnum
      | succ j =>
        rw [repeat_succ_start]
        exact hrest j (Nat.le_of_succ_le_succ hj)

/-- Distinct values of a list are no more than its places. -/
theorem length_le_of_nodup {α : Type} [DecidableEq α] {xs ys : List α} (hnodup : xs.Nodup) (hsub : ∀ x ∈ xs, x ∈ ys) :
    xs.length ≤ ys.length := by
  induction xs generalizing ys with
  | nil => exact Nat.zero_le _
  | cons x xs ih =>
    obtain ⟨hnew, hrest⟩ := List.nodup_cons.mp hnodup
    have hin : x ∈ ys := hsub x List.mem_cons_self
    have hle := ih (ys := ys.erase x) hrest fun y hy =>
      (List.mem_erase_of_ne fun heq : y = x => hnew (heq ▸ hy)).mpr (hsub y (List.mem_cons_of_mem _ hy))
    rw [List.length_erase_of_mem hin] at hle
    have hpos := List.length_pos_of_mem hin
    rw [List.length_cons]
    omega

/-- With twelve entries at most some number of thirteen is free, and the search finds it (R96). -/
theorem freeNumber_free (hroom : d.entries.length ≤ 12) (num : Nat) : ∀ x ∈ d.entries, x.num ≠ freeNumber d 13 num := by
  refine (freeNumber_ends 13 num).resolve_right fun hheld => ?_
  have hnodup : ((List.range 13).map (fun j => Nat.repeat nextNumber j num)).Nodup := by
    refine List.pairwise_map.mpr (List.nodup_range.imp_of_mem fun {i j} hi hj hne heq => hne ?_)
    have hvi := repeat_nextNumber num (List.mem_range.mp hi)
    have hvj := repeat_nextNumber num (List.mem_range.mp hj)
    have hi := List.mem_range.mp hi
    have hj := List.mem_range.mp hj
    omega
  have hle := length_le_of_nodup hnodup fun n hn => by
    obtain ⟨j, hj, rfl⟩ := List.mem_map.mp hn
    exact hheld j (Nat.le_of_lt (List.mem_range.mp hj))
  simp only [List.length_map, List.length_range] at hle
  omega

end Sys2Proof.Machine
end

section
/-! PROOF. A READY part's agreement through the operations of the Capture Controller and of the blocks that leave log and
directory alone (04, 05). -/

set_option Elab.async false

namespace Sys2Proof.Machine

variable {s t : State} {l m : LogManager} {e : Entry} {b n num : Nat} {q : RingValues → Prop} {free : Prop}

/-- The part is READY and consistent, with a property of the ring, and, where `free`, without a program of the Log Writer
at the array. -/
structure ReadyHas (q : RingValues → Prop) (free : Prop) (s : State) : Prop where
  wf : ReadyWf s
  ring : q (ringOf s.log)
  noProgram : free → NoProgramOut s.arr

theorem ReadyHas.of (h : ReadyWf s) : ReadyHas (fun _ => True) False s := ⟨h, trivial, False.elim⟩

theorem SameRing.history_eq (h : SameRing l m) : m.history = l.history := congrArg RingValues.history h.values

theorem SameRing.active_eq (h : SameRing l m) : m.active = l.active := congrArg RingValues.active h.values

theorem SameRing.ahead_eq (h : SameRing l m) : m.ahead = l.ahead := congrArg RingValues.ahead h.values

theorem LogRequestsWf.same {a : ArrayCtl} (hr : LogRequestsWf l a) (hm : SameRing l m)
    (hrisen : l.nextPageSeq ≤ m.nextPageSeq) : LogRequestsWf m a := by
  refine .of (fun b h hout => ?_) (fun b hout => hm.ahead_eq.trans (hr.out hout)) hr.alone
  obtain ⟨hactive, hle, hhistory⟩ := hr.program b h hout
  refine ⟨hm.active_eq.trans hactive, Nat.le_trans hle hrisen, fun c hc => ?_⟩
  rw [hm.firstPageOf]
  exact hhistory c (hm.history_eq ▸ hc)

/-- An update that leaves the ring, may draw page sequences and asks no more at the array. -/
theorem ReadyHas.edited (h : ReadyHas q free s) (hseqr : t.seqr = s.seqr) (harr : AsksNoMore s.arr t.arr)
    (hsame : SameRing s.log t.log) (hrisen : s.log.nextPageSeq ≤ t.log.nextPageSeq) (hlimit : t.log.nextPageSeq ≤ sequenceMax)
    (hdir : DirectoryWf t.log t.dir t.ctl.state) : ReadyHas q free t where
  wf := {
    ready := hseqr ▸ h.wf.ready
    scanned := hseqr ▸ h.wf.scanned
    ring := h.wf.ring.same hsame hrisen hlimit
    requests := (h.wf.requests.same hsame hrisen).noMore harr
    directory := hdir }
  ring := hsame.values ▸ h.ring
  noProgram hfree := harr.noProgram (h.noProgram hfree)

theorem SameRing.refl (hl : sparseWf l.table = true) : SameRing l l := .of hl rfl rfl

/-- The same log, and a directory that agrees with it. -/
theorem ReadyHas.directed (h : ReadyHas q free s) (hseqr : t.seqr = s.seqr) (harr : t.arr = s.arr) (hlog : t.log = s.log)
    (hdir : DirectoryWf s.log t.dir t.ctl.state) : ReadyHas q free t := by
  refine h.edited hseqr (harr ▸ .refl _) ?_ (Nat.le_of_eq (hlog ▸ rfl)) ?_ (hlog ▸ hdir)
  · rw [hlog]
    exact .refl h.wf.ring.table
  · rw [hlog]
    exact h.wf.ring.limit

/-- An update of other parts. -/
theorem ReadyHas.beside (h : ReadyHas q free s) (hseqr : t.seqr = s.seqr) (harr : t.arr = s.arr) (hlog : t.log = s.log)
    (hdir : t.dir = s.dir) (hstate : t.ctl.state = s.ctl.state) : ReadyHas q free t :=
  h.directed hseqr harr hlog (by rw [hdir, hstate]; exact h.wf.directory)

/-- An update of the log that leaves ring, holds and capturing recording. -/
theorem ReadyHas.setLog {x : LogManager} (h : ReadyHas q free s) (htable : x.table = s.log.table := by rfl)
    (hring : ringOf x = ringOf s.log := by rfl) (hseq : x.nextPageSeq = s.log.nextPageSeq := by rfl)
    (hrec : x.capturingRec = s.log.capturingRec := by rfl) : ReadyHas q free (s.setLog x) :=
  h.edited rfl (.refl _) (.of h.wf.ring.table htable hring) (Nat.le_of_eq hseq.symm) (Nat.le_trans (Nat.le_of_eq hseq) h.wf.ring.limit)
    (h.wf.directory.under hrec fun b => congrArg (fun y => ((lookup y b).getD BlockEntry.initial).hold) htable)

theorem drawPageSeq_risen (hle : s.log.nextPageSeq ≤ sequenceMax) : s.log.nextPageSeq ≤ (drawPageSeq s).2.log.nextPageSeq
    ∧ (drawPageSeq s).2.log.nextPageSeq ≤ sequenceMax := by
  change s.log.nextPageSeq ≤ (if _ then _ else _) ∧ (if _ then _ else _) ≤ sequenceMax
  split
  · exact ⟨Nat.le_succ _, Nat.succ_le_of_lt ‹_›⟩
  · exact ⟨hle, Nat.le_refl _⟩

theorem arrayAsk_log (w : Requester) (r : ArrayReq) (s : State) : (arrayAsk w r s).1.log = s.log := by
  unfold arrayAsk
  dsimp only
  repeat' (first | rfl | split)

theorem arrayAsk_dir (w : Requester) (r : ArrayReq) (s : State) : (arrayAsk w r s).1.dir = s.dir := by
  unfold arrayAsk
  dsimp only
  repeat' (first | rfl | split)

theorem arrayAsk_ctl (w : Requester) (r : ArrayReq) (s : State) : (arrayAsk w r s).1.ctl = s.ctl := by
  unfold arrayAsk
  dsimp only
  repeat' (first | rfl | split)

theorem arrayAsk_seqr (w : Requester) (r : ArrayReq) (s : State) : (arrayAsk w r s).1.seqr = s.seqr := by
  unfold arrayAsk
  dsimp only
  repeat' (first | rfl | split)

/-- A request at the array that is not the Log Manager's. -/
theorem ReadyHas.asked (h : ReadyHas q free s) {w : Requester} (hwriter : w ≠ .logWriter) (hahead : w ≠ .eraseAhead)
    (r : ArrayReq) : ReadyHas q free (arrayAsk w r s).1 := by
  have hlog := arrayAsk_log w r s
  refine h.edited (arrayAsk_seqr w r s) (.asked hwriter hahead r s) ?_ (Nat.le_of_eq (hlog ▸ rfl)) ?_ ?_
  · rw [hlog]
    exact .refl h.wf.ring.table
  · rw [hlog]
    exact h.wf.ring.limit
  · rw [hlog, arrayAsk_dir, arrayAsk_ctl]
    exact h.wf.directory

theorem ReadyHas.steady : Steady (ReadyHas q free) where
  raised h := h.beside rfl rfl rfl rfl rfl
  portA h := h.beside rfl rfl rfl rfl rfl
  portB h := h.beside rfl rfl rfl rfl rfl
  mgmt h := h.beside rfl rfl rfl rfl rfl
  notice h := h.beside rfl rfl rfl rfl rfl
  ret h := h.beside rfl rfl rfl rfl rfl
  serial h := h.beside rfl rfl rfl rfl rfl
  jrnl h := h.beside rfl rfl rfl rfl rfl
  ctl hx h := h.beside rfl rfl rfl rfl hx
  count h := h.directed rfl rfl rfl (h.wf.directory.changed _ (fun _ => rfl) (fun _ => rfl) fun _ _ _ => id)
  draw h := by
    obtain ⟨hrisen, hlimit⟩ := drawPageSeq_risen h.wf.ring.limit
    exact h.edited rfl (.refl _) (.of h.wf.ring.table rfl rfl) hrisen hlimit (h.wf.directory.under rfl fun _ => rfl)
  journal h := h.asked (by nofun) (by nofun) _
  session h := h.asked (by nofun) (by nofun) _

/-! ### The Capture Controller -/

theorem ReadyHas.setCtl {x : CaptureCtl} (h : ReadyHas q free s) (hx : x.state = s.ctl.state := by rfl) :
    ReadyHas q free (s.setCtl x) :=
  steady.ctl hx h

theorem ReadyHas.offerRunStop (h : ReadyHas q free s) {r : StopReason} : ReadyHas q free (Machine.offerRunStop r s) :=
  h.beside rfl rfl rfl rfl rfl

theorem ReadyHas.enterStopped (h : ReadyHas q free s) (hnone : ∀ e ∈ s.dir.entries, isOpen e = false) :
    ReadyHas q free (Machine.enterStopped s) :=
  h.directed rfl rfl rfl (h.wf.directory.unopened hnone fun _ => rfl)

theorem ReadyHas.keptCheck (h : ReadyHas q free s) : ReadyHas q free (Machine.keptCheck s) := by
  unfold Machine.keptCheck
  split
  · exact h
  · split
    · exact h
    · split
      · exact steady.askJob (h.setCtl)
      · exact h

/-- An entry that goes from CAPTURING or CLOSING to CLOSING. -/
theorem DirectoryWf.closing {d : Directory} {c : CaptureState} (h : DirectoryWf l d c) (he : openEntry d = some e)
    {f : Entry → Entry} (hnum : ∀ e, (f e).num = e.num) (hblocks : ∀ e, (f e).blocks = e.blocks) :
    DirectoryWf l (changeEntry d e.num f) c :=
  h.changed _ hnum hblocks fun x hx heq _ => by
    obtain rfl : x = e := h.entry_unique hx (openEntry_mem he) heq
    exact openEntry_isOpen he

theorem ReadyHas.endPosting (h : ReadyHas q free s) {why : CloseReason} : ReadyHas q free (Machine.endPosting why s) := by
  unfold Machine.endPosting
  split
  · exact h
  · split
    · exact h
    · rename_i e he
      have hdir := h.wf.directory.closing he (f := fun x => { x with
        state := .closing, last := some (postingLast s e why), reason := some why }) (fun _ => rfl) (fun _ => rfl)
      have hclosing := hdir.inState (c' := .closing) fun hc => by rcases hc with hc | hc <;> cases hc
      apply ReadyHas.keptCheck
      split
      · exact h.directed rfl rfl rfl hclosing
      · exact h.directed rfl rfl rfl hclosing

theorem ReadyHas.noneOpen (h : ReadyHas q free s) (hstate : s.ctl.state = .stopped ∨ s.ctl.state = .running) :
    ∀ e ∈ s.dir.entries, isOpen e = false := h.wf.directory.closed hstate

theorem ReadyHas.stopCapture (h : ReadyHas q free s) {r : StopReason} : ReadyHas q free (Machine.stopCapture r s) := by
  unfold Machine.stopCapture
  split
  · exact h
  · rename_i hstate
    exact (ReadyHas.offerRunStop (h.setCtl)).enterStopped (h.noneOpen (.inr hstate))
  · exact h.endPosting.offerRunStop
  · split
    · exact ReadyHas.offerRunStop (h.setCtl)
    · exact h
    · exact h

/-- The open entry closed, with no recording capturing. -/
theorem ReadyHas.closed (h : ReadyHas q free s) (he : e ∈ s.dir.entries) (hopen : isOpen e = true) {f : Entry → Entry}
    (hnum : ∀ e, (f e).num = e.num) (hblocks : ∀ e, (f e).blocks = e.blocks) (hf : ∀ e, isOpen (f e) = false)
    (hseqr : t.seqr = s.seqr) (harr : t.arr = s.arr) (hlog : t.log = { s.log with capturingRec := 0 })
    (hdir : t.dir = changeEntry s.dir e.num f) :
    ReadyHas q free t ∧ ∀ x ∈ t.dir.entries, isOpen x = false := by
  have hnone := h.wf.directory.none_open he hopen hf
  have hchanged := h.wf.directory.changed e.num hnum hblocks fun x _ _ hx => absurd hx (ne_true_of_eq_false (hf x))
  refine ⟨h.edited hseqr (harr ▸ .refl _) ?_ ?_ ?_ ?_, hdir ▸ hnone⟩
  · rw [hlog]
    exact .of h.wf.ring.table rfl rfl
  · exact Nat.le_of_eq (congrArg LogManager.nextPageSeq hlog :).symm
  · rw [hlog]
    exact h.wf.ring.limit
  · rw [hdir, hlog]
    exact hchanged.unopened hnone fun _ => rfl

theorem ReadyHas.enterFaulted (h : ReadyHas q free s ∧ ∀ e ∈ s.dir.entries, isOpen e = false) :
    ReadyHas q free (Machine.enterStopped (if s.ctl.stopReason = none then Machine.offerRunStop .fault s else s)) := by
  obtain ⟨hclosed, hnone⟩ := h
  split
  · exact hclosed.offerRunStop.enterStopped hnone
  · exact hclosed.enterStopped hnone

theorem ReadyHas.faultClose (h : ReadyHas q free s) : ReadyHas q free (Machine.faultClose s) := by
  unfold Machine.faultClose
  split
  · exact h
  · rename_i e he
    exact ReadyHas.enterFaulted (h.closed (openEntry_mem he) (openEntry_isOpen he) (by intro; rfl) (by intro; rfl)
      (by intro; rfl) rfl rfl rfl rfl)

theorem ReadyHas.captureFault (h : ReadyHas q free s) : ReadyHas q free (Machine.captureFault s) := by
  unfold Machine.captureFault
  split
  · exact h
  · exact h.stopCapture
  · exact h.faultClose
  · exact h.faultClose

theorem ReadyHas.keptCommitted (h : ReadyHas q free s) : ReadyHas q free (Machine.keptCommitted num s) := by
  unfold Machine.keptCommitted
  split
  · exact h
  · rename_i e he
    split
    · rename_i hstate
      have hopen : isOpen e = true := by simp [isOpen, hstate]
      obtain ⟨hclosed, hnone⟩ := h.closed (findEntry_mem he) hopen (f := fun x => { x with state := .kept })
        (fun _ => rfl) (fun _ => rfl) (fun _ => rfl) (t := raiseEvent .controller _ (((s.setDir (changeEntry s.dir num _)).setLog
          { s.log with capturingRec := 0 }).setCtl { s.ctl with keptAsked := false })) rfl rfl rfl (by
            rw [num_of_findEntry he]
            rfl)
      dsimp only
      split
      · split
        · exact hclosed.directed rfl rfl rfl (hclosed.wf.directory.unopened hnone fun _ => rfl)
        · exact hclosed.offerRunStop.enterStopped hnone
      · exact hclosed.enterStopped hnone
      · exact hclosed.enterStopped hnone
    · exact h

theorem ReadyHas.capturingCommitted (h : ReadyHas q free s) : ReadyHas q free (Machine.capturingCommitted num s) := by
  unfold Machine.capturingCommitted
  split
  · exact h
  · split
    · exact ReadyHas.keptCheck (steady.raiseEvent h)
    · exact h

/-! ### Triggers and runs -/

theorem triggerBlocks_listed (h : ReadyWf s) : (triggerBlocks s).Nodup ∧ ∀ b ∈ triggerBlocks s, isLogBlock b = true := by
  have hring := h.ring
  have hwindow : windowBlocks s.log s.ctl.runOrigin s.ctl.settings.window ⊆ s.log.history := fun b hb =>
    List.mem_reverse.mp (List.takeWhile_subset _ (List.mem_of_mem_take (List.mem_reverse.mp hb)))
  have hreversed : s.log.history.reverse.Nodup := List.pairwise_reverse.mpr (hring.once.imp Ne.symm)
  have hnodup : (windowBlocks s.log s.ctl.runOrigin s.ctl.settings.window).Nodup :=
    List.pairwise_reverse.mpr ((hreversed.sublist ((List.take_sublist _ _).trans (List.takeWhile_sublist _))).imp Ne.symm)
  have hfilled : ∀ b ∈ s.log.history, isLogBlock b = true := fun b hb => by
    have hstate := (hring.filled b).mp hb
    exact hring.area b (by rw [hstate]; nofun) (by rw [hstate]; nofun)
  have hactive : ∀ b, s.log.active = some b → isLogBlock b = true ∧ b ∉ s.log.history := fun b hb => by
    have hstate := (hring.active b).mp hb
    refine ⟨hring.area b (by rw [hstate]; nofun) (by rw [hstate]; nofun), fun hin => ?_⟩
    rw [(hring.filled b).mp hin] at hstate
    cases hstate
  rw [triggerBlocks]
  cases hcase : s.log.active with
  | none =>
    rw [Option.toList_none, List.append_nil]
    exact ⟨hnodup, fun b hb => hfilled b (hwindow hb)⟩
  | some a =>
    obtain ⟨harea, hout⟩ := hactive a hcase
    rw [Option.toList_some, List.nodup_append]
    refine ⟨⟨hnodup, List.pairwise_singleton _ a, fun b hb c hc heq => ?_⟩, fun b hb => ?_⟩
    · rw [List.mem_singleton.mp hc] at heq
      exact hout (heq ▸ hwindow hb)
    · rcases List.mem_append.mp hb with hb | hb
      · exact hfilled b (hwindow hb)
      · rw [List.mem_singleton.mp hb]
        exact harea

theorem ReadyHas.takeTrigger (h : ReadyHas q free s) (hstate : s.ctl.state = .running) (hroom : s.dir.entries.length < 12)
    {x : Trigger} : ReadyHas q free (Machine.takeTrigger x s) := by
  have hsame := SameRing.raised h.wf.ring.table (triggerBlocks s)
  have hrec : SameRing s.log (triggered x (triggerNumber s) (triggerBlocks s) s).log :=
    hsame.trans (.of hsame.table rfl rfl)
  have hseq : (triggered x (triggerNumber s) (triggerBlocks s) s).log.nextPageSeq = s.log.nextPageSeq := by
    change ((triggerBlocks s).foldl raiseHold s.log).nextPageSeq = _
    generalize triggerBlocks s = bs
    generalize s.log = l
    induction bs generalizing l with
    | nil => rfl
    | cons b bs ih => exact ih (raiseHold l b)
  rw [takeTrigger_eq]
  refine steady.askJob (h.edited (t := triggered x (triggerNumber s) (triggerBlocks s) s) rfl (.refl _) hrec
    (Nat.le_of_eq hseq.symm) (Nat.le_trans (Nat.le_of_eq hseq) h.wf.ring.limit) ?_)
  exact h.wf.directory.joined (e := triggerEntry s x (triggerNumber s) (triggerBlocks s)) hroom (h.noneOpen (.inr hstate))
    (freeNumber_free (Nat.le_of_lt hroom) _) (triggerBlocks_listed h.wf) rfl rfl fun _ => rfl

theorem ReadyHas.takeMark (h : ReadyHas q free s) {x : Trigger} : ReadyHas q free (Machine.takeMark x s) := by
  unfold Machine.takeMark
  split
  · exact h
  · exact h.setCtl
  · exact steady.raiseEvent (h.setCtl)
  · rename_i houtcome
    unfold triggerOutcome at houtcome
    split at houtcome
    · cases houtcome
    · cases houtcome
    · cases houtcome
    · rename_i hstate
      split at houtcome
      · cases houtcome
      · split at houtcome
        · cases houtcome
        · split at houtcome
          · cases houtcome
          · rename_i hfull
            exact h.takeTrigger hstate (Nat.lt_of_not_le hfull)

theorem ReadyHas.packed (h : ReadyHas q free s) : ReadyHas q free (Machine.packed n s) := by
  have hends : ∀ t, ReadyHas q free t → ReadyHas q free
      (if n < sequenceMax ∧ t.packer.nextSeq = sequenceMax then Machine.stopCapture .sequenceEnd t else t) := by
    intro t ht
    split
    · exact ht.stopCapture
    · exact ht
  unfold Machine.packed
  dsimp only
  split
  · exact hends _ h.endPosting
  · exact hends _ h

theorem ReadyHas.startCapture (h : ReadyHas q free s) : ReadyHas q free (Machine.startCapture s).1 := by
  unfold Machine.startCapture
  split
  · exact h
  · split
    · exact h
    · rename_i hstate
      split
      · exact h
      · have hnone := h.noneOpen (.inl (Decidable.not_not.mp hstate))
        exact ReadyHas.packed (h.directed rfl rfl rfl (h.wf.directory.unopened hnone fun _ => rfl))

/-! ### Faults and retirements -/

theorem ReadyHas.logFault (h : ReadyHas q free s) {cause : FaultCause} : ReadyHas q free (Machine.logFault cause s) := by
  unfold Machine.logFault
  split
  · exact h
  · exact steady.raiseEvent (ReadyHas.captureFault (h.setLog))

theorem ReadyHas.addRetired (h : ReadyHas q free s) {cause : RetireCause} : ReadyHas q free (Machine.addRetired b cause s) := by
  have hadded : ReadyHas q free (s.setLog { s.log with retired := s.log.retired ++ [b] }) := h.setLog
  have htold := steady.raiseEvent (src := .log) (e := .blockRetired b cause (s.log.retired ++ [b]).length)
    (steady.askJob (j := .retiredList false) hadded)
  unfold Machine.addRetired
  dsimp only
  split
  · exact htold.logFault
  · exact htold

/-! ### Block entry (R64, R97) -/

theorem ReadyHas.offerBlock (h : ReadyHas q free s) (harea : isLogBlock b = true) :
    ReadyHas q free (Machine.offerBlock b s) := by
  unfold Machine.offerBlock
  split
  · exact h
  · rename_i e he
    split
    · rename_i haccepted
      obtain ⟨-, haccepted⟩ := haccepted
      rw [acceptsBlock, Bool.and_eq_true, Bool.not_eq_true'] at haccepted
      have hnew : b ∉ e.blocks := by simpa using haccepted.2
      have hdir := h.wf.directory.listed (findEntry_mem he) hnew harea
      have hlisted : ReadyHas q free ((s.setDir (changeEntry s.dir e.num (listed b))).setLog (raiseHold s.log b)) :=
        h.edited rfl (.refl _) (.setHold h.wf.ring.table _ _) (Nat.le_refl _) h.wf.ring.limit hdir
      dsimp only
      split
      · exact hlisted.endPosting
      · exact hlisted
    · exact h

end Sys2Proof.Machine
end

section
/-! PROOF. A READY part's agreement through the operations of the Log Manager (04, R64 to R80). -/

set_option Elab.async false

namespace Sys2Proof.Machine

variable {s t : State} {l m : LogManager} {e : Entry} {b c n num : Nat} {q : RingValues → Prop} {free : Prop}

/-- The part is READY and consistent. -/
abbrev Consistent : State → Prop := ReadyHas (fun _ => True) False

theorem ReadyHas.forget (h : ReadyHas q free s) : ReadyHas (fun _ => True) free s := ⟨h.wf, trivial, h.noProgram⟩

theorem ReadyHas.consistent (h : ReadyHas q free s) : Consistent s := ⟨h.wf, trivial, False.elim⟩

theorem ReadyHas.setPacker {x : Packer} (h : ReadyHas q free s) : ReadyHas q free (s.setPacker x) :=
  h.beside rfl rfl rfl rfl rfl

/-- A replaced log over the same array and directory. -/
theorem ReadyHas.relogged {p : RingValues → Prop} {x : LogManager} (h : ReadyHas q free s) (hring : RingWf x)
    (hrequests : LogRequestsWf x s.arr) (hrec : x.capturingRec = s.log.capturingRec)
    (hhold : ∀ b, holdOf x b = holdOf s.log b) (hp : p (ringOf x)) : ReadyHas p free (s.setLog x) where
  wf := { h.wf with
    ready := h.wf.ready
    scanned := h.wf.scanned
    ring := hring
    requests := hrequests
    directory := h.wf.directory.under hrec hhold }
  ring := hp
  noProgram := h.noProgram

/-- A replaced entry that keeps its hold leaves every hold. -/
theorem RingStep.holdOf {v : RingValues} {x : BlockEntry} (hm : RingStep l b x v m) (hx : x.hold = Machine.holdOf l b) (c : Nat) :
    Machine.holdOf m c = Machine.holdOf l c := by
  rw [Machine.holdOf, hm.entry]
  split
  · rename_i hc
    rw [hx, hc]
  · rfl

/-- A request of the Log Manager at the array. -/
theorem ReadyHas.askedWf {p : Prop} {w : Requester} {r : ArrayReq} (h : ReadyHas q free s)
    (hrequests : LogRequestsWf s.log (setSlot s.arr (some r) w))
    (hp : p → free ∧ NoProgramOut (setSlot s.arr (some r) w)) : ReadyHas q p (arrayAsk w r s).1 := by
  have harr := AsksNoMore.arrayAsk w r s
  have hafter : LogRequestsWf s.log (arrayAsk w r s).1.arr := harr.elim (fun heq => heq ▸ h.wf.requests) hrequests.noMore
  refine ⟨⟨?_, ?_, ?_, ?_, ?_⟩, ?_, fun hfree => ?_⟩
  · rw [arrayAsk_seqr]
    exact h.wf.ready
  · rw [arrayAsk_seqr]
    exact h.wf.scanned
  · rw [arrayAsk_log]
    exact h.wf.ring
  · rw [arrayAsk_log]
    exact hafter
  · rw [arrayAsk_log, arrayAsk_dir, arrayAsk_ctl]
    exact h.wf.directory
  · rw [arrayAsk_log]
    exact h.ring
  · obtain ⟨hbefore, hno⟩ := hp hfree
    exact harr.elim (fun heq => heq ▸ h.noProgram hbefore) fun hmore => hmore.noProgram hno

/-! ### The candidate search (R67, R72) -/

theorem isLogBlock_ringNext (hb : isLogBlock b = true) : isLogBlock (ringNext b) = true := by
  rw [isLogBlock_iff] at hb ⊢
  rw [ringNext, Config.lastLogBlock, Config.firstLogBlock]
  split <;> omega

theorem candidate_isLogBlock (hring : isLogBlock l.ringPos = true) (h : candidate l = some c) : isLogBlock c = true := by
  have hfind : ∀ n b, isLogBlock b = true → findCandidate l n b = some c → isLogBlock c = true := by
    intro n
    induction n with
    | zero => intro b _ h; cases h
    | succ n ih =>
      intro b hb h
      rw [findCandidate] at h
      split at h
      · cases h
        exact hb
      · exact ih _ (isLogBlock_ringNext hb) h
  exact hfind _ _ (isLogBlock_ringNext hring) h

theorem aheadIdle_steady : Steady (fun s => AheadIdle s.arr) where
  raised h := h
  portA h := h
  portB h := h
  mgmt h := h
  notice h := h
  ret h := h
  serial h := h
  jrnl h := h
  ctl _ h := h
  count h := h
  draw h := h
  journal h := (AsksNoMore.asked (by nofun) (by nofun) _ _).idle h
  session h := (AsksNoMore.asked (by nofun) (by nofun) _ _).idle h

/-- The erase of the block under way is handed in. -/
theorem ReadyHas.askedErase (h : ReadyHas q free s) (hahead : s.log.ahead = .underWay b) (hidle : AheadIdle s.arr) :
    ReadyHas q free (arrayAsk .eraseAhead (.erase b) s).1 := by
  let a : ArrayCtl := setSlot s.arr (some (.erase b)) .eraseAhead
  have hnoRun : ∀ c, ¬ EraseAheadRuns a c := fun c hc => hidle c (.inr (.inl hc))
  have hnoStand : ∀ c, ¬ EraseAheadStands a c := fun c hc => hidle c (.inr (.inr hc))
  have hwaits : LogRequestsWf s.log a := by
    refine .of h.wf.requests.program (fun c hc => ?_) ⟨fun _ d _ => ⟨hnoRun d, hnoStand d⟩, fun _ d _ => hnoStand d⟩
    rcases hc with hc | hc | hc
    · cases hc
      exact hahead
    · exact absurd hc (hnoRun c)
    · exact absurd hc (hnoStand c)
  exact h.askedWf hwaits fun hfree => ⟨hfree, h.noProgram hfree⟩

theorem ReadyHas.searchErase (h : ReadyHas q free s) (hahead : s.log.ahead = .none) :
    ReadyHas (fun _ => True) free (Machine.searchErase s) := by
  unfold Machine.searchErase
  split
  · exact h.forget
  · split
    · refine h.forget.setLog rfl ?_ rfl rfl
      rw [ringOf, ringOf, hahead]
    · rename_i b hcandidate
      have hring := h.wf.ring
      have hchoice := isCandidate_of hcandidate
      rw [isCandidate, Bool.and_eq_true, Bool.and_eq_true, Bool.or_eq_true] at hchoice
      obtain ⟨⟨-, hstate⟩, -⟩ := hchoice
      have hidle : AheadIdle s.arr := h.wf.requests.idle fun b hb => by rw [hahead] at hb; cases hb
      have hstep : RingStep s.log b { blockEntry s.log b with state := .erasing, firstSeq := none, firstPage := none } _
        (chosenLog s.log b) := .of hring.table rfl rfl
      have hchosen : RingWf (chosenLog s.log b) :=
        hring.chosen hahead (candidate_isLogBlock hring.ring hcandidate) (hstate.imp of_decide_eq_true of_decide_eq_true)
          hstep ⟨rfl, rfl, rfl⟩
      have hrequests : LogRequestsWf (chosenLog s.log b) s.arr := by
        refine .of (fun d g hout => ?_) (fun d hd => absurd hd (hidle d)) h.wf.requests.alone
        obtain ⟨hactive, hle, hhistory⟩ := h.wf.requests.program d g hout
        refine ⟨hactive, hle, fun c hc => ?_⟩
        obtain ⟨hc, hne⟩ := List.mem_filter.mp hc
        rw [hstep.firstPageOf, if_neg (of_decide_eq_true hne)]
        exact hhistory c hc
      have hlogged : ReadyHas (fun v => v.ahead = .underWay b) free (s.setLog (chosenLog s.log b)) :=
        h.relogged hchosen hrequests rfl (hstep.holdOf rfl) rfl
      have hannounced : ReadyHas (fun v => v.ahead = .underWay b) free (announceChoice s.log b
            (s.setLog (chosenLog s.log b)))
          ∧ AheadIdle (announceChoice s.log b (s.setLog (chosenLog s.log b))).arr := by
        unfold announceChoice
        split
        · exact ⟨ReadyHas.steady.announceBlock hlogged, aheadIdle_steady.announceBlock (s := s.setLog (chosenLog s.log b)) hidle⟩
        · exact ⟨hlogged, hidle⟩
      obtain ⟨htold, hidle⟩ := hannounced
      exact (htold.askedErase htold.ring hidle).forget

/-! ### Pages and block changes (R68, R69, R71) -/

/-- A program of the next page of the active block is handed in. -/
theorem ReadyHas.askedProgram (h : ReadyHas q True s) (hactive : s.log.active = some b) {g : PageHeader} {d : PageData}
    (hdrawn : g.pageSeq ≤ s.log.nextPageSeq) (hhistory : ∀ c ∈ s.log.history, firstPageOf s.log c ≤ g.pageSeq) :
    Consistent (arrayAsk .logWriter (.program b n g d) s).1 := by
  refine (h.askedWf (p := False) ?_ False.elim).consistent
  refine .of (fun c k hout => ?_) (fun c => h.wf.requests.out) ⟨h.wf.requests.waitsAlone, h.wf.requests.runsAlone⟩
  rcases hout with ⟨p, d, hslot⟩ | hrun
  · cases hslot
    exact ⟨hactive, hdrawn, hhistory⟩
  · exact absurd (.inr hrun) (h.noProgram trivial c k)

theorem ReadyHas.handIn (h : ReadyHas q True s) (hactive : s.log.active = some b) {i : BufId} :
    Consistent (Machine.handIn i b s) := by
  obtain ⟨hrisen, -⟩ := drawPageSeq_risen h.wf.ring.limit
  have hdrawn : ReadyHas q True (((drawPageSeq s).2.setPacker
      (if (getBuf s.packer i).state = .full then takeBuf i s.packer else s.packer)).setLog { (drawPageSeq s).2.log with
        condition := if inFault (drawPageSeq s).2.log then (drawPageSeq s).2.log.condition else .normal }) :=
    (ReadyHas.setPacker (ReadyHas.steady.draw h)).setLog
  exact hdrawn.askedProgram hactive hrisen fun c hc => h.wf.ring.drawn c (.inl ((h.wf.ring.filled c).mp hc))

theorem ReadyHas.leaveActive (h : ReadyHas (fun v => v.ahead = .prepared b) True s)
    (hpage : s.log.active ≠ none → s.log.nextPage ≠ 0) :
    ReadyHas (fun v => v.active = none ∧ v.ahead = .prepared b) True (Machine.leaveActive s) := by
  have hring := h.wf.ring
  have hrequests : ∀ x : LogManager, x.ahead = s.log.ahead → LogRequestsWf x s.arr := fun x hx =>
    .of (fun c g hout => absurd hout (h.noProgram trivial c g)) (fun c hout => hx.trans (h.wf.requests.out hout))
      h.wf.requests.alone
  unfold Machine.leaveActive
  split
  · rename_i hnone
    exact ⟨h.wf, ⟨hnone, h.ring⟩, h.noProgram⟩
  · rename_i a hactive
    split
    · have hstep : RingStep s.log a { blockEntry s.log a with state := .retired } _
        { setBlockState s.log a .retired with active := none, nextPage := 16, failing := false } := .of hring.table rfl rfl
      exact ReadyHas.addRetired (h.relogged (hring.left hactive hstep (.inr ⟨rfl, rfl⟩) ⟨rfl, rfl⟩) (hrequests _ rfl) rfl
        (hstep.holdOf rfl) ⟨rfl, h.ring⟩)
    · rename_i hwell
      have hstep : RingStep s.log a { blockEntry s.log a with state := .filled } _
        { setBlockState s.log a .filled with active := none, nextPage := 16, history := s.log.history ++ [a] } :=
        .of hring.table rfl rfl
      have hleft := hring.left hactive hstep
        (.inl ⟨rfl, rfl, Bool.eq_false_iff.mpr hwell, hpage (by rw [hactive]; nofun)⟩) ⟨rfl, rfl⟩
      exact h.relogged hleft (hrequests _ rfl) rfl (hstep.holdOf rfl) ⟨rfl, h.ring⟩

/-- The prepared block lies in the Log Area. -/
theorem ReadyHas.prepared_area (h : ReadyHas q free s) (hahead : s.log.ahead = .prepared b) : isLogBlock b = true := by
  have hstate := (h.wf.ring.erased b).mp hahead
  exact h.wf.ring.area b (by rw [hstate]; nofun) (by rw [hstate]; nofun)

theorem ReadyHas.makeActive (h : ReadyHas (fun v => v.active = none ∧ v.ahead = .prepared b) True s) :
    ReadyHas (fun v => v.ahead = .none) True (Machine.makeActive b s) := by
  obtain ⟨hactive, hahead⟩ := h.ring
  have hring := h.wf.ring
  have hidle : AheadIdle s.arr := h.wf.requests.idle fun c hc => by cases hahead.symm.trans hc
  have hstep : RingStep s.log b { blockEntry s.log b with state := .active } _ { setBlockState s.log b .active with
    active := some b, nextPage := 0, failing := false, ringPos := b, ahead := .none } := .of hring.table rfl rfl
  exact h.relogged (hring.madeActive hactive hahead hstep rfl ⟨rfl, rfl⟩)
    (.of (fun c g hout => absurd hout (h.noProgram trivial c g)) (fun c hout => absurd hout (hidle c)) h.wf.requests.alone)
    rfl (hstep.holdOf rfl) rfl

theorem ReadyHas.blockChange (h : ReadyHas (fun v => v.ahead = .prepared b) True s)
    (hpage : s.log.active ≠ none → s.log.nextPage ≠ 0) : ReadyHas (fun _ => True) True (Machine.blockChange b s) := by
  have hleft := h.leaveActive hpage
  unfold Machine.blockChange
  dsimp only
  split
  · exact hleft.forget
  · have hoffered := hleft.makeActive.offerBlock (hleft.prepared_area hleft.ring.2)
    exact hoffered.searchErase hoffered.ring

theorem ReadyHas.noPage (h : ReadyHas q free s) : ReadyHas q free (Machine.noPage s) := by
  unfold Machine.noPage
  split
  · exact h.setLog
  · exact h
  · split
    · exact h
    · exact ReadyHas.steady.raiseEvent h.setLog

theorem ReadyHas.handWaiting (h : ReadyHas q True s) {i : BufId} : Consistent (Machine.handWaiting i s) := by
  unfold Machine.handWaiting
  split
  · exact h.consistent
  · rename_i hactive
    split
    · exact h.handIn hactive
    · exact h.consistent

theorem ReadyHas.logKick (h : ReadyHas q free s) : Consistent (Machine.logKick s) := by
  unfold Machine.logKick
  split
  · exact h.consistent
  · rename_i hready
    split
    · exact h.consistent
    · have hfree : logProgramOut s.arr = false :=
        Bool.eq_false_iff.mpr fun hout => hready (.inr (.inr hout))
      have hserving : ReadyHas q True s := ⟨h.wf, h.ring, fun _ => .of hfree⟩
      split
      · exact hserving.handWaiting
      · rename_i hfull
        split
        · rename_i b hahead
          have hprepared : ReadyHas (fun v => v.ahead = .prepared b) True s := ⟨h.wf, hahead, hserving.noProgram⟩
          exact (hprepared.blockChange fun hactive hzero => hfull ⟨hactive, by omega⟩).handWaiting
        · exact h.noPage.consistent
        · exact h.noPage.consistent

/-! ### Results (R70, R73, R75, R76) -/

theorem ReadyHas.returnWriting (h : ReadyHas q free s) : ReadyHas q free (Machine.returnWriting s) := by
  unfold Machine.returnWriting
  split
  · exact h
  · exact ReadyHas.packed h.setPacker

theorem ReadyHas.raiseResumed (h : ReadyHas q free s) : ReadyHas q free (Machine.raiseResumed n s) := by
  unfold Machine.raiseResumed
  split
  · exact ReadyHas.steady.raiseEvent h.setLog
  · exact h

theorem RingStep.noteFirst {g : PageHeader} (hl : sparseWf l.table = true) (htable : m.table = (Machine.noteFirst l b g).table)
    (hseq : m.nextPageSeq = l.nextPageSeq) : ∃ x : BlockEntry, RingStep l b x (ringOf m) m
      ∧ x.state = (blockEntry l b).state ∧ x.hold = Machine.holdOf l b
      ∧ (x.firstSeq = (blockEntry l b).firstSeq ∧ x.firstPage = (blockEntry l b).firstPage ∧ x.firstSeq ≠ none
        ∨ x.firstSeq ≠ none ∧ x.firstPage = some g.pageSeq) := by
  unfold Machine.noteFirst at htable
  split at htable
  · exact ⟨_, .of hl htable hseq, rfl, rfl, .inr ⟨nofun, rfl⟩⟩
  · rename_i hbegun
    refine ⟨blockEntry l b, ⟨htable ▸ hl, fun c => ?_, rfl, hseq⟩, rfl, rfl, .inl ⟨rfl, rfl, hbegun⟩⟩
    rw [blockEntry, htable]
    split
    · rename_i hc
      rw [hc]
      rfl
    · rfl

theorem ReadyHas.logCommitted (h : ReadyHas q free s) {g : PageHeader} (hactive : s.log.active = some b)
    (hdrawn : g.pageSeq ≤ s.log.nextPageSeq) (hhistory : ∀ c ∈ s.log.history, firstPageOf s.log c ≤ g.pageSeq) :
    Consistent (Machine.logCommitted b g s) := by
  have hring := h.wf.ring
  let x : LogManager := { noteFirst s.log b g with
    nextPage := s.log.nextPage + 1, lastCommitted := g.firstSeq + g.count - 1,
    pagesCommitted := bump s.log.pagesCommitted }
  have hnoted : Machine.noteFirst s.log b g = { s.log with table := (Machine.noteFirst s.log b g).table } := by
    unfold Machine.noteFirst
    split <;> rfl
  have hseq : x.nextPageSeq = s.log.nextPageSeq := (congrArg LogManager.nextPageSeq hnoted :)
  have hvalues : ringOf x = { ringOf s.log with nextPage := s.log.nextPage + 1 } :=
    congrArg (fun l => { ringOf l with nextPage := s.log.nextPage + 1 }) hnoted
  obtain ⟨y, hstep, hstate, hhold, hfirsts⟩ := RingStep.noteFirst (m := x) (g := g) (b := b) hring.table rfl hseq
  rw [hvalues] at hstep
  have hcommitted : RingWf x := hring.committed hactive hstep hstate
    (hfirsts.imp id fun ⟨hbegun, hfirst⟩ => ⟨hbegun, _, hfirst, hdrawn, hhistory⟩)
  have hnotIn : b ∉ s.log.history := fun hin => by
    cases ((hring.active b).mp hactive).symm.trans ((hring.filled b).mp hin)
  have hrequests : LogRequestsWf x s.arr := by
    refine .of (fun d k hout => ?_) (fun d hout => ?_) h.wf.requests.alone
    · obtain ⟨hblock, hle, hbelow⟩ := h.wf.requests.program d k hout
      refine ⟨(congrArg LogManager.active hnoted :).trans hblock, Nat.le_trans hle (Nat.le_of_eq hseq.symm), fun c hc => ?_⟩
      have hkept : x.history = s.log.history := (congrArg LogManager.history hnoted :)
      have hc : c ∈ s.log.history := hkept ▸ hc
      rw [hstep.firstPageOf, if_neg (fun heq : c = b => hnotIn (heq ▸ hc))]
      exact hbelow c hc
    · exact (congrArg LogManager.ahead hnoted :).trans (h.wf.requests.out hout)
  have hlogged : ReadyHas (fun _ => True) free (s.setLog x) :=
    h.relogged hcommitted hrequests (congrArg LogManager.capturingRec hnoted :) (hstep.holdOf hhold) trivial
  exact (ReadyHas.raiseResumed (ReadyHas.keptCheck (ReadyHas.steady.wakeSessions hlogged.returnWriting))).logKick

theorem ReadyHas.logFailed (h : ReadyHas q free s) : Consistent (Machine.logFailed s) := by
  let x : LogManager := { s.log with
    nextPage := s.log.nextPage + 1, failing := true, programFailures := bump s.log.programFailures }
  have hring : RingWf x := (RingWf.failed (n := s.log.nextPage + 1) h.wf.ring).same (.of h.wf.ring.table rfl rfl) (Nat.le_refl _)
    h.wf.ring.limit
  have hrequests : LogRequestsWf x s.arr :=
    .of h.wf.requests.program (fun c => h.wf.requests.out) h.wf.requests.alone
  have hlogged : ReadyHas (fun _ => True) free (s.setLog x) := h.relogged hring hrequests rfl (fun _ => rfl) trivial
  exact hlogged.logKick

/-- The erase of the block under way has ended, and nothing of erase-ahead is out. -/
theorem ReadyHas.eraseEnded (h : ReadyHas q free s) (hahead : s.log.ahead = .underWay b) (hidle : AheadIdle s.arr)
    {x : LogManager} {st : BlockState} (hst : st = .erased ∧ x.ahead = .prepared b ∨ st = .retired ∧ x.ahead = .none)
    (htable : x.table = (setBlockState s.log b st).table) (hvalues : ringOf x = { ringOf s.log with ahead := x.ahead })
    (hseq : x.nextPageSeq = s.log.nextPageSeq) (hrec : x.capturingRec = s.log.capturingRec) :
    ReadyHas (fun v => v.ahead = x.ahead) free (s.setLog x) := by
  have hring := h.wf.ring
  have hstep : RingStep s.log b { blockEntry s.log b with state := st } { ringOf s.log with ahead := x.ahead } x :=
    hvalues ▸ .of hring.table htable hseq
  refine h.relogged (hring.eraseEnded hahead hstep hst ⟨rfl, rfl⟩) ?_ hrec (hstep.holdOf rfl) (congrArg RingValues.ahead rfl)
  refine .of (fun d g hout => ?_) (fun d hout => absurd hout (hidle d)) h.wf.requests.alone
  obtain ⟨hactive, hle, hhistory⟩ := h.wf.requests.program d g hout
  refine ⟨(congrArg RingValues.active hvalues).trans hactive, Nat.le_trans hle (Nat.le_of_eq hseq.symm), fun c hc => ?_⟩
  have hkept : x.history = s.log.history := (congrArg RingValues.history hvalues :)
  rw [hstep.firstPageOf_same rfl]
  exact hhistory c (hkept ▸ hc)

theorem ReadyHas.eraseAheadErased (h : ReadyHas q free s) (hahead : s.log.ahead = .underWay b) (hidle : AheadIdle s.arr) :
    Consistent (Machine.eraseAheadErased b s) :=
  (h.eraseEnded hahead hidle (x := { setBlockState s.log b .erased with ahead := .prepared b }) (.inl ⟨rfl, rfl⟩)
    rfl rfl rfl rfl).logKick

theorem ReadyHas.eraseAheadFailed (h : ReadyHas q free s) (hahead : s.log.ahead = .underWay b) (hidle : AheadIdle s.arr) :
    Consistent (Machine.eraseAheadFailed b s) := by
  have hretired := h.eraseEnded hahead hidle (x := { setBlockState s.log b .retired with
    ahead := .none, eraseFailures := bump s.log.eraseFailures }) (.inr ⟨rfl, rfl⟩) rfl rfl rfl rfl
  unfold Machine.eraseAheadFailed
  dsimp only
  split
  · exact hretired.consistent
  · have hadded := hretired.addRetired (b := b) (cause := .erase)
    exact (hadded.searchErase hadded.ring).logKick

/-! ### Release (R65, R105) -/

/-- An entry leaves the directory with its release claim. -/
theorem ReadyHas.released (h : ReadyHas q free s) (hfind : findEntry s.dir num = some e) :
    Consistent (releaseClaim e.blocks (s.setDir (removeEntry s.dir num))) := by
  have hring := h.wf.ring
  have hsame := SameRing.lowered hring.table e.blocks
  have hseq : (e.blocks.foldl lowerHold s.log).nextPageSeq = s.log.nextPageSeq :=
    (congrArg LogManager.nextPageSeq (foldl_lowerHold e.blocks s.log) :)
  have hlowered : ReadyHas q free ((s.setDir (removeEntry s.dir num)).setLog (e.blocks.foldl lowerHold s.log)) :=
    h.edited rfl (.refl _) hsame (Nat.le_of_eq hseq.symm) (Nat.le_trans (Nat.le_of_eq hseq) hring.limit)
      (h.wf.directory.removed hring.table hfind)
  unfold releaseClaim
  dsimp only
  split
  · rename_i hnone
    exact (hlowered.searchErase hnone).logKick
  · exact hlowered.consistent

end Sys2Proof.Machine
end

section
/-! PROOF. A READY part's agreement through the results of the Journal Writer, the ends of array operations and the end
of a happening (03, 06, R170). -/

set_option Elab.async false

namespace Sys2Proof.Machine

variable {s t : State} {b n num : Nat} {record : PageRecord} {j : Job}

theorem Consistent.steady : Steady Consistent := ReadyHas.steady

theorem Consistent.setJrnl (h : Consistent s) {x : JournalWriter} : Consistent (s.setJrnl x) := Consistent.steady.jrnl h

theorem Consistent.askedJournal (h : Consistent s) {r : ArrayReq} : Consistent (arrayAsk .journal r s).1 :=
  Consistent.steady.journal h

/-! ### Reports of journal commits (R109, R112) -/

theorem Consistent.noteJournaled (h : Consistent s) : Consistent (Machine.noteJournaled record s) := by
  unfold Machine.noteJournaled
  split
  · exact h.directed rfl rfl rfl (h.wf.directory.changed _ (fun _ => rfl) (fun _ => rfl) fun _ _ _ => id)
  · exact h
  · exact h

theorem Consistent.releaseCommitted (h : Consistent s) : Consistent (Machine.releaseCommitted num s) := by
  unfold Machine.releaseCommitted
  split
  · exact Consistent.steady.respond h
  · rename_i e hfind
    exact Consistent.steady.respond (h.released hfind)

theorem Consistent.freezeCommitted (h : Consistent s) : Consistent (Machine.freezeCommitted num s) := by
  have hdir := h.wf.directory.changed (f := fun x => { x with state := .frozen }) num (fun _ => rfl) (fun _ => rfl)
    fun _ _ _ => nofun
  have hfrozen : Consistent (s.setDir (changeEntry s.dir num (fun x => { x with state := .frozen }))) :=
    h.directed rfl rfl rfl hdir
  exact Consistent.steady.respond hfrozen

theorem Consistent.reportCommit (h : Consistent s) : Consistent (Machine.reportCommit j s) := by
  cases j with
  | capturing num blocks => exact h.capturingCommitted
  | kept num => exact h.keptCommitted
  | released num => exact h.releaseCommitted
  | frozen num => exact h.freezeCommitted
  | retiredList covered => exact h
  | saveProfile p => exact h
  | clearProfile => exact h

/-! ### The Directory Area (R113, R115 to R118) -/

theorem Consistent.endAllFaulted (jobs : List Job) : ∀ {s}, Consistent s →
    Consistent (jobs.foldl (fun t j => endFaulted j t) s) := by
  induction jobs with
  | nil => exact fun h => h
  | cons j jobs ih => exact fun h => ih (Consistent.steady.endFaulted h)

theorem Consistent.directoryFault (h : Consistent s) : Consistent (Machine.directoryFault s) :=
  Consistent.steady.serveNext (Consistent.endAllFaulted _ (Consistent.setJrnl h.logFault))

theorem Consistent.compactAgain (h : Consistent s) : Consistent (Machine.compactAgain s) := by
  unfold Machine.compactAgain
  split
  · exact Consistent.steady.beginCompaction h
  · exact h.directoryFault

theorem Consistent.appendAgain (h : Consistent s) : Consistent (Machine.appendAgain j s) := by
  unfold Machine.appendAgain
  split
  · split
    · exact Consistent.steady.programJournal h.setJrnl
    · exact h.compactAgain
  · exact h.compactAgain

theorem Consistent.appendCommitted (h : Consistent s) : Consistent (Machine.appendCommitted record s) := by
  unfold Machine.appendCommitted
  split
  · exact h
  · exact Consistent.steady.serveNext h.setJrnl.noteJournaled.reportCommit

theorem Consistent.appendFailed (h : Consistent s) : Consistent (Machine.appendFailed s) := by
  unfold Machine.appendFailed
  split
  · exact h
  · exact h.setJrnl.appendAgain

/-- A copy goes on at the next page, or the compaction begins again. -/
theorem Consistent.copyOn (h : Consistent s) {page : Nat} :
    Consistent (if page ≤ 15 then Machine.programCopy s else Machine.compactAgain s) := by
  split
  · exact Consistent.steady.programCopy h
  · exact h.compactAgain

theorem Consistent.copyCommitted (h : Consistent s) : Consistent (Machine.copyCommitted record s) := by
  unfold Machine.copyCommitted
  split
  · exact h
  · dsimp only
    split
    · exact Consistent.copyOn h.noteJournaled.setJrnl
    · exact h.noteJournaled.setJrnl.appendAgain

theorem Consistent.copyFailed (h : Consistent s) : Consistent (Machine.copyFailed s) := Consistent.copyOn h.setJrnl

theorem Consistent.compactErased (h : Consistent s) : Consistent (Machine.compactErased s) :=
  Consistent.steady.programCopy h.setJrnl

/-! ### Profile jobs (R121 to R123) -/

theorem Consistent.endProfile (h : Consistent s) {st : Status} {result : Bytes} :
    Consistent (Machine.endProfile st result s) := Consistent.steady.serveNext (Consistent.steady.respond h.setJrnl)

theorem Consistent.profileFailed (h : Consistent s) : Consistent (Machine.profileFailed s) := h.setJrnl.endProfile

theorem Consistent.programProfile (h : Consistent s) {p : Nat} {d : PageData} : Consistent (Machine.programProfile p d s) :=
  Consistent.askedJournal (Consistent.steady.draw h)

theorem Consistent.profileErased (h : Consistent s) : Consistent (Machine.profileErased s) := by
  unfold Machine.profileErased
  split
  · exact h.setJrnl.programProfile
  · split
    · exact h.setJrnl.askedJournal
    · exact h.setJrnl.endProfile
  · exact h

theorem Consistent.profileEraseFailed (h : Consistent s) : Consistent (Machine.profileEraseFailed s) := by
  unfold Machine.profileEraseFailed
  split
  · exact h.profileFailed
  · split
    · exact h.profileFailed
    · exact h.setJrnl.profileFailed
  · exact h

theorem Consistent.profileCommitted (h : Consistent s) : Consistent (Machine.profileCommitted s) := by
  unfold Machine.profileCommitted
  split
  · split
    · exact h.setJrnl.programProfile
    · exact h.setJrnl.endProfile
  · exact h

theorem Consistent.journalProgrammed (h : Consistent s) {d : PageData} {ok : Bool} :
    Consistent (Machine.journalProgrammed d ok s) := by
  unfold Machine.journalProgrammed
  split
  · exact h
  · cases ok
    · exact h.appendFailed
    · exact h.appendCommitted
  · cases ok
    · exact h.copyFailed
    · exact h.copyCommitted
  · cases ok
    · exact h.profileFailed
    · exact h.profileCommitted

theorem Consistent.journalErased (h : Consistent s) {ok : Bool} : Consistent (Machine.journalErased ok s) := by
  unfold Machine.journalErased
  split
  · exact h
  · exact h
  · cases ok
    · exact h.directoryFault
    · exact h.compactErased
  · cases ok
    · exact h.profileEraseFailed
    · exact h.profileErased

/-! ### The ends of array operations -/

/-- The array is free, and the next operation chosen. -/
theorem Consistent.arrayFree (h : Consistent s) : Consistent (Machine.arrayFree s) :=
  h.edited rfl (.arrayFree s) (.refl h.wf.ring.table) (Nat.le_refl _) h.wf.ring.limit h.wf.directory

theorem Consistent.setStore (h : Consistent s) {x : List (Nat × Page)} : Consistent (s.setStore x) :=
  h.beside rfl rfl rfl rfl rfl

/-- The Sequencer's results change nothing once the scan has ended. -/
theorem Consistent.readDone (h : Consistent s) {who : Requester} {r : ReadResult} : Consistent (Machine.readDone who r s) := by
  cases who with
  | session i => exact Consistent.steady.sessionRead h
  | sequencer =>
    have hnone : mountReadDone r s = s := by rw [mountReadDone, h.wf.scanned]
    change Consistent (mountReadDone r s)
    rw [hnone]
    exact h
  | journal | logWriter | eraseAhead => exact h

theorem Consistent.programDone (h : Consistent s) {who : Requester} {g : PageHeader} {d : PageData} {ok : Bool}
    (hlog : who = .logWriter → s.log.active = some b ∧ g.pageSeq ≤ s.log.nextPageSeq
      ∧ ∀ c ∈ s.log.history, firstPageOf s.log c ≤ g.pageSeq) : Consistent (Machine.programDone who b g d ok s) := by
  cases who with
  | journal => exact h.journalProgrammed
  | logWriter =>
    obtain ⟨hactive, hdrawn, hhistory⟩ := hlog rfl
    cases ok
    · exact h.logFailed
    · exact h.logCommitted hactive hdrawn hhistory
  | sequencer =>
    have hnone : mountProgramDone ok s = s := by rw [mountProgramDone, h.wf.scanned]
    change Consistent (mountProgramDone ok s)
    rw [hnone]
    exact h
  | eraseAhead | session i => exact h

theorem Consistent.eraseDone (h : Consistent s) {who : Requester} {ok : Bool}
    (hahead : who = .eraseAhead → s.log.ahead = .underWay b ∧ AheadIdle s.arr) : Consistent (Machine.eraseDone who b ok s) := by
  cases who with
  | journal => exact h.journalErased
  | eraseAhead =>
    obtain ⟨hblock, hidle⟩ := hahead rfl
    cases ok
    · exact h.eraseAheadFailed hblock hidle
    · exact h.eraseAheadErased hblock hidle
  | sequencer =>
    have hnone : mountEraseDone ok s = s := by rw [mountEraseDone, h.wf.scanned]
    change Consistent (mountEraseDone ok s)
    rw [hnone]
    exact h
  | logWriter | session i => exact h

/-! ### The end of a happening -/

/-- A next state that begins a reset or is READY and consistent. -/
def ReadyNext (t : State) : Prop := t.seqr.part = .reset ∨ ReadyWf t

theorem ReadyHas.next {q : RingValues → Prop} {free : Prop} (h : ReadyHas q free s) : ReadyNext s := .inr h.wf

theorem Consistent.drainTest (h : Consistent s) : ReadyNext (Machine.drainTest s) := by
  unfold Machine.drainTest
  split
  · exact .inl rfl
  · exact h.next

theorem Consistent.settleRestart (h : Consistent s) : ReadyNext (Machine.settleRestart s) := by
  unfold Machine.settleRestart
  split
  · exact h.next
  · split
    case h_1 =>
      split
      · exact .inl rfl
      · split
        · exact Consistent.drainTest (ReadyHas.logKick (Consistent.steady.setStage h.setPacker))
        · exact h.next
    case h_2 => exact h.drainTest
    all_goals exact h.next

theorem Consistent.settle (h : Consistent s) : ReadyNext (Machine.settle s) := h.logKick.settleRestart

end Sys2Proof.Machine
end

section
/-! PROOF. A READY part stays consistent through every command, or begins a reset (04, 05). -/

set_option Elab.async false

namespace Sys2Proof.Machine

variable {s t : State}

/-! ### Outcomes -/

/-- An outcome is a next state that begins a reset or is READY and consistent. -/
def GoesReady (o : Host.Outcome State Fault Refusal) : Prop := ∃ t, o = .next t ∧ ReadyNext t

theorem ReadyNext.goes (h : ReadyNext t) : GoesReady (.next t) := ⟨t, rfl, h⟩

theorem Consistent.goes (h : Consistent t) : GoesReady (.next t) := h.next.goes

theorem readyNext_ite {c : Prop} [Decidable c] {a b : State} (ha : ReadyNext a) (hb : ReadyNext b) :
    ReadyNext (if c then a else b) := by
  split
  · exact ha
  · exact hb

theorem consistent_ite {c : Prop} [Decidable c] {a b : State} (ha : Consistent a) (hb : Consistent b) :
    Consistent (if c then a else b) := by
  split
  · exact ha
  · exact hb

/-- A request that its owner answers, or that was not handed to it. -/
theorem ready_takeRequest {code : Byte} {f : Request → State → State} (h : Consistent s) (hf : ∀ r, ReadyNext (f r s)) :
    GoesReady (.next (takeRequest code f s)) := by
  refine ReadyNext.goes ?_
  unfold takeRequest
  split
  · exact h.next
  · exact hf _

/-! ### Updates of other blocks -/

theorem Consistent.respond (h : Consistent s) {st : Status} {b : Bytes} : Consistent (Machine.respond st b s) :=
  Consistent.steady.respond h

theorem Consistent.answered (h : Consistent s) {st : Status} {b : Bytes} : ReadyNext (Machine.respond st b s) := h.respond.next

theorem Consistent.setRaised (h : Consistent s) {x : Raised} : Consistent (s.setRaised x) := Consistent.steady.raised h

theorem Consistent.setPort (h : Consistent s) {p : Port} {x : PortState} : Consistent (s.setPort p x) :=
  Consistent.steady.port h

theorem Consistent.setCls (h : Consistent s) {x : Classifier} : Consistent (s.setCls x) := h.beside rfl rfl rfl rfl rfl

theorem Consistent.closeStaged (h : Consistent s) : Consistent (s.setPacker (closeFilling s.packer)) := h.setPacker

theorem Consistent.clearedCounters (h : Consistent s) : Consistent (Machine.clearedCounters s) :=
  h.edited rfl (.refl _) (.of h.wf.ring.table rfl rfl) (Nat.le_refl _) h.wf.ring.limit
    (h.wf.directory.under rfl fun _ => rfl)

/-! ### Starts and links -/

theorem ready_lineReset (h : Consistent s) (straps : Byte) : GoesReady (execLineReset straps s) := by
  have hready : s.seqr.part ≠ .reset := by rw [h.wf.ready]; nofun
  unfold execLineReset
  rw [if_neg hready]
  exact ReadyNext.goes (.inl rfl)

theorem ready_leaveReset (h : Consistent s) (a b : Bool) : GoesReady (execLeaveReset a b s) := by
  have hready : s.seqr.part ≠ .reset := by rw [h.wf.ready]; nofun
  unfold execLeaveReset
  rw [if_neg hready]
  exact h.goes

theorem Consistent.takeLink (h : Consistent s) {who : LinkTaker} {p : Port} {up : Bool}
    (ht : Machine.takeLink who p up s = some t) : Consistent t := by
  unfold Machine.takeLink at ht
  split at ht
  · split at ht <;> cases ht
    exact h.setRaised
  · split at ht <;> cases ht
    exact h.setPort.setRaised

theorem ready_linkDown (h : Consistent s) (p : Port) : GoesReady (execLinkDown p s) := by
  unfold execLinkDown
  split
  · exact h.goes
  · rename_i t ht
    exact (h.takeLink ht).setPort.setRaised.goes

theorem ready_linkUp (h : Consistent s) (p : Port) : GoesReady (execLinkUp p s) := by
  unfold execLinkUp
  split
  · exact h.goes
  · rename_i t ht
    exact (h.takeLink ht).setPort.goes

theorem Consistent.loseOnPort (h : Consistent s) {p : Port} {i : SessionId} : Consistent (Machine.loseOnPort p i s) :=
  consistent_ite (Consistent.steady.loseSession h) h

theorem ready_sessionLinkLost (h : Consistent s) (p : Port) : GoesReady (execSessionLinkLost p s) := by
  unfold execSessionLinkLost
  split
  · exact h.goes
  · rename_i t ht
    exact (h.takeLink ht).loseOnPort.loseOnPort.goes

theorem ready_noticeLinkDown (h : Consistent s) (p : Port) : GoesReady (execNoticeLinkDown p s) := by
  unfold execNoticeLinkDown
  split
  · exact h.goes
  · rename_i t ht
    exact Consistent.goes (Consistent.steady.noticeDown (h.takeLink ht))

theorem ready_noticeLinkUp (h : Consistent s) (p : Port) : GoesReady (execNoticeLinkUp p s) := by
  unfold execNoticeLinkUp
  split
  · exact h.goes
  · rename_i t ht
    exact Consistent.goes (Consistent.steady.noticeUp (h.takeLink ht))

/-! ### Frames -/

theorem ready_frameEnd (h : Consistent s) (p : Port) (bytes : Bytes) : GoesReady (execFrameEnd p bytes s) := by
  refine Consistent.goes (consistent_ite ?_ h)
  unfold frameEndAt
  exact consistent_ite h.setPort h.setPort.setRaised

theorem ready_relayOffer (h : Consistent s) (p : Port) : GoesReady (execRelayOffer p s) := by
  unfold execRelayOffer
  split
  · exact h.goes
  · exact h.setRaised.setPort.goes

theorem Consistent.transmissionEndAt (h : Consistent s) {p : Port} {x : Transmission} :
    Consistent (Machine.transmissionEndAt p x s) := by
  have hsent : Consistent (raiseSent p x (s.setPort p (refill (startFrame (finishFrame (s.port p)))).1)) := by
    unfold raiseSent
    split
    · exact h.setPort
    · exact h.setPort.setRaised
  unfold Machine.transmissionEndAt
  dsimp only
  split
  · exact hsent
  · exact Consistent.steady.tellEntered hsent

theorem ready_transmissionEnd (h : Consistent s) (p : Port) : GoesReady (execTransmissionEnd p s) := by
  unfold execTransmissionEnd
  split
  · exact h.goes
  · exact h.transmissionEndAt.goes

theorem ready_frameWithdrawal (h : Consistent s) (p : Port) (who : Producer) : GoesReady (execFrameWithdrawal p who s) := by
  unfold execFrameWithdrawal
  split
  · exact h.goes
  · apply Consistent.goes
    cases who
    · exact h.setPort
    · exact Consistent.steady.sessionWithdrawn h.setPort
    · exact Consistent.steady.noticeKick h.setPort

theorem Consistent.beginStop (h : Consistent s) {c : Current} : Consistent (Machine.beginStop c s) :=
  ReadyHas.stopCapture (Consistent.steady.setStage h)

theorem Consistent.mgmtEnding (h : Consistent s) {n : Nat} {b : Bool} : Consistent (Machine.mgmtEnding n b s) := by
  unfold Machine.mgmtEnding
  split
  · exact h
  · rename_i c _
    split
    case h_1 opened restart _ =>
      have hends : ∀ u, Consistent u →
          Consistent (if restart then Machine.beginStop c u else nextRequest (clearCurrent u)) := fun u hu =>
        consistent_ite hu.beginStop (Consistent.steady.nextRequest (Consistent.steady.clearCurrent hu))
      split
      · cases opened
        · exact hends _ h
        · exact hends _ (Consistent.steady.loseSession h)
      · exact h
    case h_2 => exact consistent_ite h.beginStop h
    all_goals exact h

theorem Consistent.takeEnding (h : Consistent s) {e : Ending} : Consistent (Machine.takeEnding e s) := by
  unfold Machine.takeEnding
  split
  · exact h.mgmtEnding
  · exact h
  · exact Consistent.steady.noticeEnding h

theorem ready_localFrameEnding (h : Consistent s) (p : Port) (who : Producer) : GoesReady (execLocalFrameEnding p who s) := by
  unfold execLocalFrameEnding
  split
  · exact h.goes
  · exact h.setRaised.takeEnding.settle.goes

theorem ready_frameReceived (h : Consistent s) (p : Port) : GoesReady (execFrameReceived p s) := by
  unfold execFrameReceived
  split
  · exact h.goes
  · exact h.setCls.setRaised.goes

theorem Consistent.passMark (h : Consistent s) {r : Result} {b : Bool} : Consistent (Machine.passMark r b s) := by
  unfold Machine.passMark
  split
  · exact h.setRaised
  · exact h

theorem Consistent.noteLoss (h : Consistent s) {x : Time} : Consistent (Machine.noteLoss x s) := by
  unfold Machine.noteLoss
  split
  · exact h
  · exact Consistent.steady.raiseEvent h.setPacker

theorem Consistent.takeResult (h : Consistent s) {r : Result} : Consistent (Machine.takeResult r s) := by
  unfold Machine.takeResult
  split
  · exact h.passMark
  · dsimp only
    apply ReadyHas.packed
    apply Consistent.passMark
    split
    · exact h.setPacker
    · exact Consistent.noteLoss h.setPacker

theorem ready_classificationResult (h : Consistent s) : GoesReady (execClassificationResult s) := by
  unfold execClassificationResult
  split
  · exact h.goes
  · exact ReadyNext.goes (readyNext_ite h.setRaised.next h.setRaised.takeResult.settle)

theorem ready_triggerMark (h : Consistent s) : GoesReady (execTriggerMark s) := by
  unfold execTriggerMark
  split
  · exact h.goes
  · exact Consistent.goes (ReadyHas.takeMark h.setRaised)

theorem ready_noticeEvent (h : Consistent s) (src : EventSource) : GoesReady (execNoticeEvent src s) := by
  unfold execNoticeEvent
  split
  · exact h.goes
  · exact Consistent.goes (Consistent.steady.takeEvent h.setRaised)

theorem ready_requestArrival (h : Consistent s) (p : Port) : GoesReady (execRequestArrival p s) := by
  unfold execRequestArrival
  split
  · exact h.goes
  · exact Consistent.goes (Consistent.steady.arrive h.setRaised)

/-! ### Closures, timers and the ends of array operations -/

theorem ready_postingClosure (h : Consistent s) : GoesReady (execPostingClosure s) :=
  ReadyNext.goes (readyNext_ite h.next (Consistent.settle (ReadyHas.setPacker h.setRaised)))

theorem ready_flushTimerExpiry (h : Consistent s) : GoesReady (execFlushTimerExpiry s) :=
  ReadyNext.goes (readyNext_ite h.next (Consistent.settle h.setPacker))

theorem ready_postTimeExpiry (h : Consistent s) : GoesReady (execPostTimeExpiry s) :=
  ReadyNext.goes (readyNext_ite h.next (Consistent.settle (ReadyHas.endPosting h.setCtl)))

theorem ready_idleTimerExpiry (h : Consistent s) (i : SessionId) : GoesReady (execIdleTimerExpiry i s) :=
  Consistent.goes (consistent_ite (Consistent.steady.endSession (Consistent.steady.sessionChange h)) h)

theorem ready_readPageEnd (h : Consistent s) : GoesReady (execReadPageEnd s) := by
  unfold execReadPageEnd
  split
  · exact h.goes
  · split
    · exact h.arrayFree.readDone.settle.goes
    · exact h.goes
    · exact h.goes

theorem ready_programPageEnd (h : Consistent s) (r : ProgramEnd) : GoesReady (execProgramPageEnd r s) := by
  unfold execProgramPageEnd
  split
  · exact h.goes
  · rename_i x hrun
    split
    · rename_i b p g d hreq
      have hlog := fun hwho : x.who = .logWriter => h.wf.requests.program b g (.inr ⟨x, p, d, hrun, hwho, hreq⟩)
      dsimp only
      generalize programPage s.store b p g d r = w
      have hfreed : Consistent (Machine.arrayFree (s.setStore w.1)) := h.setStore.arrayFree
      exact (hfreed.programDone hlog).settle.goes
    · exact h.goes
    · exact h.goes

/-- Once its running erase has ended nothing of erase-ahead is out. -/
theorem aheadIdle_ended {a : ArrayCtl} {x : Running} {b : Nat} (halone : AheadAlone a) (hrun : a.running = some x)
    (hwho : x.who = .eraseAhead) (hreq : x.req = .erase b) : AheadIdle { a with running := none } := by
  have hruns : EraseAheadRuns a b := ⟨x, hrun, hwho, hreq⟩
  rintro c (hwaits | ⟨y, hy, -⟩ | hstands)
  · exact (halone.waits c b hwaits).1 hruns
  · cases hy
  · exact halone.runs b c hruns hstands

theorem ready_eraseBlockEnd (h : Consistent s) (r : EraseEnd) : GoesReady (execEraseBlockEnd r s) := by
  unfold execEraseBlockEnd
  split
  · exact h.goes
  · rename_i x hrun
    split
    · rename_i b hreq
      dsimp only
      generalize eraseBlock s.store b r = w
      have hended : x.who = .eraseAhead → s.log.ahead = .underWay b ∧ AheadIdle (Machine.arrayFree (s.setStore w.1)).arr :=
        fun hwho => ⟨h.wf.requests.runs b ⟨x, hrun, hwho, hreq⟩,
          (AsksNoMore.arrayChoose ((s.setStore w.1).setArr { s.arr with running := none })).idle
            (aheadIdle_ended h.wf.requests.alone hrun hwho hreq)⟩
      exact (Consistent.eraseDone h.setStore.arrayFree hended).settle.goes
    · exact h.goes
    · exact h.goes

/-! ### Requests -/

theorem ready_moveRule (h : Consistent s) (code : Byte) (st : RuleState) :
    GoesReady (.next (takeRequest code (moveRule st) s)) := ready_takeRequest h fun r => by
  unfold moveRule
  exact readyNext_ite (readyNext_ite h.answered h.setCls.answered) h.answered

theorem ready_changeRules (h : Consistent s) (code : Byte) (f : Rule → Rule) :
    GoesReady (.next (takeRequest code (changeRules f) s)) := ready_takeRequest h fun r => by
  unfold changeRules
  exact readyNext_ite h.setCls.answered (readyNext_ite h.setCls.answered h.answered)

theorem ready_writeRule (h : Consistent s) : GoesReady (execWriteRule s) := ready_takeRequest h fun r => by
  split
  · exact h.answered
  · exact readyNext_ite h.setCls.answered h.answered

theorem ready_setDefaultAction (h : Consistent s) : GoesReady (execSetDefaultAction s) := ready_takeRequest h fun r => by
  split
  · exact h.answered
  · exact readyNext_ite h.setCls.answered h.answered

theorem ready_setTime (h : Consistent s) : GoesReady (execSetTime s) := ready_takeRequest h fun r => by
  have hmoved : Consistent (moveTime (BitVec.ofNat 32 (fieldAt 0 4 r.params)) s) := h.setPacker
  exact readyNext_ite hmoved.answered
    (readyNext_ite (Consistent.settle (Consistent.respond (ReadyHas.packed h.setPacker))) h.answered)

theorem ready_setCapture (h : Consistent s) : GoesReady (execSetCapture s) := ready_takeRequest h fun _ => by
  refine readyNext_ite h.answered ?_
  split
  · exact h.answered
  · exact Consistent.answered h.setCtl

theorem ready_startCapture (h : Consistent s) : GoesReady (execStartCapture s) := ready_takeRequest h fun _ => by
  have hstarted : Consistent (startCapture s).1 := h.startCapture
  dsimp only
  split
  · exact hstarted.answered
  · exact hstarted.answered
  · exact hstarted.respond.settle

theorem ready_forceTrigger (h : Consistent s) : GoesReady (execForceTrigger s) := ready_takeRequest h fun _ => by
  dsimp only
  split
  all_goals exact Consistent.answered h.takeMark

theorem ready_readRecording (h : Consistent s) : GoesReady (execReadRecording s) := ready_takeRequest h fun _ => by
  split
  · exact h.answered
  · exact h.answered

/-- A job asked for a request that waits for the array. -/
theorem Consistent.askStore (h : Consistent s) {j : Job} : ReadyNext (Machine.settle (askJob j (awaitStore s))) :=
  Consistent.settle (Consistent.steady.askJob (Consistent.steady.awaitStore h))

theorem ready_releaseRecording (h : Consistent s) : GoesReady (execReleaseRecording s) := ready_takeRequest h fun _ => by
  split
  · exact h.answered
  · split
    · exact h.answered
    · exact h.askStore

theorem ready_freezeRecording (h : Consistent s) : GoesReady (execFreezeRecording s) := ready_takeRequest h fun _ => by
  split
  · exact h.answered
  · split
    · exact h.answered
    · exact h.askStore

theorem ready_openRetrieval (h : Consistent s) : GoesReady (execOpenRetrieval s) := ready_takeRequest h fun _ => by
  refine readyNext_ite h.answered ?_
  split
  · exact h.answered
  · split
    · exact h.answered
    · exact (Consistent.steady.answerWith (Consistent.steady.openSession h)).next

theorem ready_grantCredit (h : Consistent s) : GoesReady (execGrantCredit s) := ready_takeRequest h fun _ => by
  dsimp only
  split
  · exact h.answered
  · exact readyNext_ite h.answered (readyNext_ite
      (Consistent.steady.sessionPlace (Consistent.respond (Consistent.steady.sessionChange h))).next h.answered)

theorem ready_closeRetrieval (h : Consistent s) : GoesReady (execCloseRetrieval s) := ready_takeRequest h fun _ => by
  split
  · exact h.answered
  · exact readyNext_ite (Consistent.steady.endSession h.respond).next h.answered

theorem ready_setNotify (h : Consistent s) : GoesReady (execSetNotify s) := ready_takeRequest h fun _ => by
  split
  · exact h.answered
  · exact Consistent.answered (Consistent.steady.putNotify h)

/-! ### Every command -/

/-- Every command of a READY part keeps it consistent or begins a reset. -/
theorem ready_exec (c : Instr) (h : Consistent s) : GoesReady (exec c s) := by
  cases c with
  | powerOn straps => exact ReadyNext.goes (.inl rfl)
  | lineReset straps => exact ready_lineReset h straps
  | leaveReset a b => exact ready_leaveReset h a b
  | linkDown p => exact ready_linkDown h p
  | linkUp p => exact ready_linkUp h p
  | sessionLinkLost p => exact ready_sessionLinkLost h p
  | noticeLinkDown p => exact ready_noticeLinkDown h p
  | noticeLinkUp p => exact ready_noticeLinkUp h p
  | frameEnd p bytes => exact ready_frameEnd h p bytes
  | relayOffer p => exact ready_relayOffer h p
  | frameReceived p => exact ready_frameReceived h p
  | classificationResult => exact ready_classificationResult h
  | triggerMark => exact ready_triggerMark h
  | postingClosure => exact ready_postingClosure h
  | flushTimerExpiry => exact ready_flushTimerExpiry h
  | postTimeExpiry => exact ready_postTimeExpiry h
  | holdoffExpiry => exact Consistent.goes h.setCtl
  | idleTimerExpiry i => exact ready_idleTimerExpiry h i
  | retryTimerExpiry => exact Consistent.goes (Consistent.steady.retryExpired h)
  | readPageEnd => exact ready_readPageEnd h
  | programPageEnd r => exact ready_programPageEnd h r
  | eraseBlockEnd r => exact ready_eraseBlockEnd h r
  | frameWithdrawal p who => exact ready_frameWithdrawal h p who
  | transmissionEnd p => exact ready_transmissionEnd h p
  | localFrameEnding p who => exact ready_localFrameEnding h p who
  | requestArrival p => exact ready_requestArrival h p
  | discover => exact ready_takeRequest h fun _ => h.answered
  | readStatus => exact ready_takeRequest h fun _ => h.answered
  | readCounters => exact ready_takeRequest h fun _ => h.answered
  | clearCounters => exact ready_takeRequest h fun _ => h.clearedCounters.answered
  | setManagers => exact ready_takeRequest h fun _ => readyNext_ite (Consistent.answered (Consistent.steady.mgmt h)) h.answered
  | restart => exact ready_takeRequest h fun _ => (Consistent.steady.answerWith h).next
  | writeRule => exact ready_writeRule h
  | readRule => exact ready_takeRequest h fun _ => readyNext_ite h.answered h.answered
  | enableRule => exact ready_moveRule h _ .enabled
  | disableRule => exact ready_moveRule h _ .disabled
  | clearRule => exact ready_changeRules h _ _
  | clearHits => exact ready_changeRules h _ _
  | setDefaultAction => exact ready_setDefaultAction h
  | flush => exact ready_takeRequest h fun _ => h.closeStaged.respond.settle
  | setTime => exact ready_setTime h
  | setCapture => exact ready_setCapture h
  | startCapture => exact ready_startCapture h
  | stopCapture => exact ready_takeRequest h fun _ => Consistent.settle (Consistent.respond h.stopCapture)
  | forceTrigger => exact ready_forceTrigger h
  | listRecordings => exact ready_takeRequest h fun _ => h.answered
  | readRecording => exact ready_readRecording h
  | releaseRecording => exact ready_releaseRecording h
  | freezeRecording => exact ready_freezeRecording h
  | saveProfile => exact ready_takeRequest h fun _ => readyNext_ite h.answered h.askStore
  | clearProfile => exact ready_takeRequest h fun _ => h.askStore
  | openRetrieval => exact ready_openRetrieval h
  | grantCredit => exact ready_grantCredit h
  | closeRetrieval => exact ready_closeRetrieval h
  | setNotify => exact ready_setNotify h
  | ackNotice => exact ready_takeRequest h fun _ =>
      readyNext_ite (Consistent.answered (Consistent.steady.ackHead h)) h.answered
  | noticeEvent src => exact ready_noticeEvent h src
  | frameStart p => exact Consistent.goes (consistent_ite h.setPort h)

/-- Settles O10: a step runs the front command, or counts the Time Base, which leaves log, array and directory. -/
theorem theReadyPartStaysConsistent : Obligations.TheReadyPartStaysConsistent := by
  unfold Obligations.TheReadyPartStaysConsistent
  intro s t h hstep
  have hs : Consistent s := .of h
  unfold step at hstep
  split at hstep
  · cases hstep
    unfold tick
    split
    · exact hs.next
    · exact ReadyHas.next hs.setPacker
  · rename_i c rest _
    have hrest : Consistent (s.setPending rest) := hs.beside rfl rfl rfl rfl rfl
    obtain ⟨u, hu, hready⟩ := ready_exec c hrest
    rw [hstep] at hu
    cases hu
    exact hready

end Sys2Proof.Machine
end
